-- ==== Sys2Proof/Word.lean ====
section
/-! DEFINITION. The word types of the VZ-1624: bytes, bus words, serial numbers, cycle numbers and the index types of its tables. -/

namespace Sys2Proof

/-- A byte of memory, of a message or of a burst. -/
abbrev Byte := BitVec 8

/-- A 32-bit bus word (10.7). -/
abbrev Word := BitVec 32

/-- A terminal's 64-bit serial number (R2). -/
abbrev Serial := BitVec 64

/-- A 32-bit cycle number; it wraps (R92). -/
abbrev Cycle := BitVec 32

/-- A record index, 0..127 (R1). -/
abbrev RecIx := Fin 128

/-- A profile channel, 0..3 (R80). -/
abbrev ChanIx := Fin 4

/-- A directory index, 0..15 (R75). -/
abbrev DirIx := Fin 16

/-- A word of the activation window: window offset divided by 4 (R139). -/
abbrev WinWord := BitVec 14

/-- A word address of the processor's bus (R139). -/
abbrev BusAddr := BitVec 20

/-- The four byte enables of an access, bit k for byte lane k (10.7). -/
abbrev Enables := BitVec 4

end Sys2Proof
end

