-- ==== Sys2Proof/Syntax.lean ====
section
/-! DEFINITION. The commands of the VZ-1624: one constructor for each row of spec/opcode_table.json, in the table's order. -/

namespace Sys2Proof

/-- One line bit of the burst sample lane: its value, and the phase of the transition within it, if there is one (10.7). -/
structure Sample where
  value : Bool
  phase : BitVec 4
  deriving DecidableEq, Repr

/-- A processor access as the bus presents it (10.7). A read carries no byte enables: a held word is answered whole whatever they are (R141),
and that SRAM returns its whole word too is the model's choice (DESIGN CHOICE, log 42). -/
inductive Access where
  | read (addr : BusAddr)
  | write (addr : BusAddr) (data : Word) (be : Enables)
  deriving DecidableEq, Repr

/-- The commands. `high` and `he` are the byte lanes 1 to 3 of a written word and their enables, where byte lane 0 is fixed by the row. -/
inductive Instr where
  | hardwareReset
  | resetRelease (straps : BitVec 6)
  | loadRead
  | intentAdmit (i : RecIx) (high : BitVec 24) (he : BitVec 3)
  | intentHold (i : RecIx) (high : BitVec 24) (he : BitVec 3)
  | intentVacant (i : RecIx) (high : BitVec 24) (he : BitVec 3)
  | setupWrite (w : WinWord) (data : Word) (be : Enables)
  | portIntentConfig (high : BitVec 24) (he : BitVec 3)
  | portIntentRun (high : BitVec 24) (he : BitVec 3)
  | portIntentHalt (value : Byte) (high : BitVec 24) (he : BitVec 3)
  | drainComplete
  | consumerIndexWrite (value : Byte) (high : BitVec 24) (he : BitVec 3)
  | imageWrite (w : WinWord) (data : Word) (be : Enables)
  | recordSnapshotRead (i : RecIx)
  | headerSnapshotRead
  | popRead
  | cycle (c : Cycle)
  | roundDue
  | quietTimeout
  | interruptHold
  | fetch (c : Cycle)
  | lineDown
  | lineUp
  | give (cq : Cycle)
  | deny
  | revoke
  | armIntervalStart
  | quietWindowEnd
  | slotArrivalEnd (ct : Cycle) (j : Fin 8)
  | slotEndReport (ct : Cycle) (j : Fin 8)
  | noDelimiter (samples : List Sample)
  | burstComplete (samples : List Sample)
  | helloTake
  | discoveryRoundComplete
  | echoTake
  | attemptJudge
  | settleReply
  | blockReply
  | imageRead (ch : ChanIx)
  | rangingOutcome
  | settleOutcome
  | profileOutcome
  | eventWriteStart
  | eventWordWritten
  | accessHold (acc : Access)
  | preambleRecognized (samples : List Sample)
  | delimiterCompared (samples : List Sample)
  | kindByte (samples : List Sample)
  | consecutiveAccess (acc : Access)
  deriving DecidableEq, Repr

end Sys2Proof
end

