-- ==== Sys2Proof/Decode.lean ====
section
/-! DEFINITION. The commands that words spell. spec/opcode_table.json gives no row any bits (its rows carry no "fixed" and no "fields"), so no word spells a command. -/

namespace Sys2Proof

/-- The command a word of the table spells. No row of the table gives bits, so there is none (log 20). -/
def decodeTableWord (_nbits _w : Nat) : Option Instr := none

end Sys2Proof
end

