-- ==== Sys2Proof/Config.lean ====
section
/-! DEFINITION. The fixed quantities of the VZ-1624, each with the rule that gives it, and the one value the model chooses for memory that nothing has written. -/

namespace Sys2Proof.Config

/-- Line bits of one cycle (00 "Time"). -/
def cycleBits : Nat := 160000

/-- Line bits between the reply slots of a discovery window (R28). -/
def helloPitch : Nat := 512

/-- Line bits between the echoes of a train (R55). -/
def echoPitch : Nat := 1024

/-- Line bits of margin at the end of a quiet window (R33, R53). -/
def windowMargin : Nat := 256

/-- Sixteenths from the first bit of a burst to its delimiter: the 64-line-bit preamble (R56). -/
def preambleSixteenths : Int := 1024

/-- Places of the pending event queue (R151). -/
def eventPlaces : Nat := 8

/-- Places of the stranger list (R44). -/
def strangerPlaces : Nat := 32

/-- Places of the park queue (R39). -/
def parkPlaces : Nat := 16

/-- Places of the capture queue (R111). -/
def capturePlaces : Nat := 2

/-- Serials the seen list of a window holds (R29). -/
def seenPlaces : Nat := 128

/-- Expanded bytes a good image may have (R78). -/
def imageLimit : Nat := 4096

/-- The latest cycle delta of a reply field (R106). -/
def lastDelta : Nat := 15

/-- Processor accesses that may pass ahead of a waiting inserted request (R149). -/
def holdAfter : Nat := 16

/-- Maximum of the 16-bit saturating counters (R164). -/
def counterMax : Nat := 65535

/-- Words the start-up load reads (R160). -/
def loadWords : Nat := 592

/-- Alternating samples that recognize a preamble (R113). -/
def recognizeRun : Nat := 32

/-- Samples after recognition without a break that garble a burst (R114). -/
def breakLimit : Nat := 128

/-- DESIGN CHOICE (log 4, unsafe): what a byte of SRAM reads as when nothing has written it. -/
def sramPowerOn : BitVec 8 := 0

end Sys2Proof.Config
end

