-- ==== Sys2Proof/Machine/Bits.lean ====
section
/-! DEFINITION. Byte lanes and byte order (00 "Byte order"), saturation, circular comparison of cycle numbers (R92), the CRC-16 (R167). -/

namespace Sys2Proof.Machine

/-- Byte lane `k` of a bus word; lane 0 is the lowest-addressed byte. -/
def byteOf (w : Word) (k : Nat) : Byte := w.extractLsb' (8 * k) 8

/-- The word whose byte lanes are the four bytes, lane 0 first. -/
def word4 (b0 b1 b2 b3 : Byte) : Word := b3 ++ b2 ++ b1 ++ b0

/-- The word of two 16-bit halves, the lower-addressed first. -/
def word2 (lo hi : BitVec 16) : Word := hi ++ lo

/-- Byte lane `k` of `new` where it is enabled, of `old` where it is not. -/
def mergeLane (old new : Word) (be : Enables) (k : Nat) : Byte :=
  if be.getLsbD k then byteOf new k else byteOf old k

/-- A word merged by byte enables with the bytes already held (R142). -/
def merge (old new : Word) (be : Enables) : Word :=
  word4 (mergeLane old new be 0) (mergeLane old new be 1) (mergeLane old new be 2) (mergeLane old new be 3)

/-- The written word whose lane 0 is `b` and whose lanes 1 to 3 are `high`. -/
def withLane0 (b : Byte) (high : BitVec 24) : Word := high ++ b

/-- Byte enables with lane 0 enabled and lanes 1 to 3 as `he` says. -/
def enableLane0 (he : BitVec 3) : Enables := he ++ (1 : BitVec 1)

/-- A count raised by 1 that stops at its maximum (00 "Arithmetic"). -/
def satInc (limit n : Nat) : Nat := if n < limit then n + 1 else n

/-- The first `n` bytes of a number, least significant first. -/
def bytesLE : Nat → Nat → List Byte
  | 0, _ => []
  | n + 1, x => BitVec.ofNat 8 x :: bytesLE n (x / 256)

/-- The number whose bytes are given least significant first. -/
def natLE : List Byte → Nat
  | [] => 0
  | b :: bs => b.toNat + 256 * natLE bs

/-- Byte `k` of a byte string, 0 where there is none. -/
def byteAt (bs : List Byte) (k : Nat) : Byte := bs.getD k 0

/-- One cycle number is at or after another: their difference modulo 2^32 is below 2^31 (R92). -/
def atOrAfter (a b : Cycle) : Bool := decide ((a - b).toNat < 2147483648)

/-- Cycles from `b` to `a`, negative where `a` is before `b` (R92). -/
def cyclesFrom (b a : Cycle) : Int := (a - b).toInt

/-- One of the eight shifts of the check (R167): shift one place toward the most significant end and, if the bit shifted out was 1,
combine with 0x1021. -/
def crcShift (r : BitVec 16) : BitVec 16 :=
  if r.msb then (r <<< 1) ^^^ 0x1021#16 else r <<< 1

/-- A byte taken into the check (R167): added into the high 8 bits, then eight shifts. -/
def crcByte (r : BitVec 16) (b : Byte) : BitVec 16 :=
  let r0 := r ^^^ (b ++ (0 : BitVec 8))
  crcShift (crcShift (crcShift (crcShift (crcShift (crcShift (crcShift (crcShift r0)))))))

/-- The CRC-16 of a byte string, from 0xFFFF with no final inversion (R167). -/
def crc16 (bs : List Byte) : BitVec 16 := bs.foldl crcByte 0xFFFF#16

end Sys2Proof.Machine
end

