-- ==== Sys2Proof/Machine/State.lean ====
section
/-! DEFINITION. The state of the VZ-1624 as plain data, block by block (00 "Blocks"), the reasons a step can stop, and the state after hardware reset. -/

namespace Sys2Proof.Machine

/-! ### Named values -/

/-- Port states (R159). -/
inductive PortState where
  | off | loading | config | running | draining | halted
  deriving DecidableEq, Repr

/-- Refusal codes of a RUN intent (R162). -/
inductive RefusalCode where
  | clear | target | span
  deriving DecidableEq, Repr

/-- Activation states (R5). -/
inductive ActState where
  | empty | awaiting | assigned | ranging | equalized | profiling | settling | committing | inService
  | releasing | held | failed
  deriving DecidableEq, Repr

/-- Failure reasons of a record (R4). -/
inductive FailReason where
  | clear | reach | range | profile | image | sum
  deriving DecidableEq, Repr

/-- Release destinations (R4). -/
inductive RelDest where
  | clear | empty | held | failed | awaiting
  deriving DecidableEq, Repr

/-- Line conventions (R4). -/
inductive Conv where
  | unknown | straight | crossed
  deriving DecidableEq, Repr

/-- Reasons of a RECORD event (11.7). -/
inductive ChangeReason where
  | intent | hello | assignTaken | ranged | attemptFailed | equalizeTaken | channel | profileDone
  | settled | reRange | commitTaken | releaseTaken | reappear | port | failure
  deriving DecidableEq, Repr

/-- Reasons of a DISCARD event (R152). -/
inductive DiscardReason where
  | state | port | inUse | range | badIntent
  deriving DecidableEq, Repr

/-- Details of a QUIET event (R101). -/
inductive QuietDetail where
  | deny | timeout | lateGive | revoked | lateRevoke
  deriving DecidableEq, Repr

/-- Details of a LINE event (R95, R96). -/
inductive LineDetail where
  | down | up | slip
  deriving DecidableEq, Repr

/-- Event kinds (R152). -/
inductive EventKind where
  | record | stranger | duplicate | reappear | admitRefused | discard | image | port | quiet | line
  deriving DecidableEq, Repr

/-- Burst kinds (R117). -/
inductive BurstKind where
  | hello | echo | status
  deriving DecidableEq, Repr

/-- Names of the header counters (R164 and discovery rounds, R29). -/
inductive CounterId where
  | discoveryRounds | windowsClean | windowsGarbled | windowsSilent | validHellos | garbledBursts
  | captureOverruns | strayBursts | wrongSender | strangersDropped | strangersFiltered | parkDrops
  | staleReplies | rangingOk | rangingFailed | quietAsks | quietDenies | quietTimeouts | quietLateGives
  | quietRevokes | quietLateRevokes | quietStrays | discards | eventsLost | stretched
  deriving DecidableEq, Repr

/-! ### Record Table -/

/-- One terminal record: the setup copy (R2) and the live fields (R4). -/
structure Record where
  intent : Byte
  profileIx : Byte
  samples : Byte
  settleCount : Byte
  serial : Serial
  tag : Word
  state : ActState
  reason : FailReason
  dest : RelDest
  line : Nat
  conv : Conv
  resp : Nat
  loop : Nat
  eqCoarse : Nat
  eqFine : Nat
  eqValid : Bool
  trimSent : Bool
  trimClamped : Bool
  profileDelivered : Bool
  seenWhileHeld : Bool
  assignTaken : Bool
  lastDeviation : Int
  rangeUsed : Nat
  restarts : Nat
  sightings : Nat
  blocksTotal : Nat
  blocksAcked : Nat
  retriesTotal : Nat
  lastChange : Cycle
  lastHello : Cycle
  deriving DecidableEq, Repr

/-- A record after hardware reset (R27). -/
def Record.reset : Record :=
  { intent := 0, profileIx := 0, samples := 0, settleCount := 0, serial := 0, tag := 0
    state := .empty, reason := .clear, dest := .clear, line := 0, conv := .unknown, resp := 0
    loop := 0, eqCoarse := 0, eqFine := 0, eqValid := false, trimSent := false, trimClamped := false
    profileDelivered := false, seenWhileHeld := false, assignTaken := false, lastDeviation := 0
    rangeUsed := 0, restarts := 0, sightings := 0, blocksTotal := 0, blocksAcked := 0
    retriesTotal := 0, lastChange := 0, lastHello := 0 }

/-! ### Header -/

/-- The header settings as stored: those of the PCT (R164), the DSU (R30) and the EVW (R157). -/
structure Header where
  portIntent : Byte
  targetLoop : Word
  spanStart : Word
  slotLen : BitVec 16
  slotCount : Byte
  replyLead : Byte
  quietWait : Byte
  rangeLimit : Byte
  spreadLimit : Byte
  tol : Byte
  blockRetries : Byte
  discoveryPeriod : BitVec 16
  discoveryDefer : Byte
  parkRounds : Byte
  spreadMin : Byte
  spreadInit : Byte
  spreadMax : Byte
  openDiscovery : Byte
  filterAOn : Byte
  filterBOn : Byte
  rangeMode : Byte
  filterAValue : Word
  filterAMask : Word
  filterBValue : Word
  filterBMask : Word
  rangeLower : Word
  rangeUpper : Word
  irqEnable : Byte
  threshold : Byte
  holdCycles : BitVec 16
  deriving DecidableEq, Repr

/-- The settings copy from hardware reset until LOADING reads it: 0 (R29, R151, R159). -/
def Header.reset : Header :=
  { portIntent := 0, targetLoop := 0, spanStart := 0, slotLen := 0, slotCount := 0, replyLead := 0
    quietWait := 0, rangeLimit := 0, spreadLimit := 0, tol := 0, blockRetries := 0
    discoveryPeriod := 0, discoveryDefer := 0, parkRounds := 0, spreadMin := 0, spreadInit := 0
    spreadMax := 0, openDiscovery := 0, filterAOn := 0, filterBOn := 0, rangeMode := 0
    filterAValue := 0, filterAMask := 0, filterBValue := 0, filterBMask := 0, rangeLower := 0
    rangeUpper := 0, irqEnable := 0, threshold := 0, holdCycles := 0 }

/-- The header counters, each 16-bit and saturating (R164; discovery rounds, R29). -/
structure Counters where
  discoveryRounds : Nat
  windowsClean : Nat
  windowsGarbled : Nat
  windowsSilent : Nat
  validHellos : Nat
  garbledBursts : Nat
  captureOverruns : Nat
  strayBursts : Nat
  wrongSender : Nat
  strangersDropped : Nat
  strangersFiltered : Nat
  parkDrops : Nat
  staleReplies : Nat
  rangingOk : Nat
  rangingFailed : Nat
  quietAsks : Nat
  quietDenies : Nat
  quietTimeouts : Nat
  quietLateGives : Nat
  quietRevokes : Nat
  quietLateRevokes : Nat
  quietStrays : Nat
  discards : Nat
  eventsLost : Nat
  stretched : Nat
  deriving DecidableEq, Repr

/-- Every counter 0: after hardware reset and at RUN entry from CONFIG (R164). -/
def Counters.zero : Counters :=
  { discoveryRounds := 0, windowsClean := 0, windowsGarbled := 0, windowsSilent := 0, validHellos := 0
    garbledBursts := 0, captureOverruns := 0, strayBursts := 0, wrongSender := 0, strangersDropped := 0
    strangersFiltered := 0, parkDrops := 0, staleReplies := 0, rangingOk := 0, rangingFailed := 0
    quietAsks := 0, quietDenies := 0, quietTimeouts := 0, quietLateGives := 0, quietRevokes := 0
    quietLateRevokes := 0, quietStrays := 0, discards := 0, eventsLost := 0, stretched := 0 }

/-! ### Discovery Unit -/

/-- A serial of the seen list with its reported mark (R29). -/
structure Seen where
  serial : Serial
  reported : Bool
  deriving DecidableEq, Repr

/-- The window record of an OPEN discovery round (R34). -/
structure DiscWindow where
  ref : Cycle
  spread : Nat
  valid : Nat
  garbled : Bool
  seen : List Seen
  deriving DecidableEq, Repr

/-- The round state (R29); ASKING holds the exponent fixed for the round (R33). -/
inductive Round where
  | idle
  | asking (e : Nat)
  | opened (w : DiscWindow)
  deriving DecidableEq, Repr

/-- An entry of the stranger list (R44). -/
structure Stranger where
  serial : Serial
  conv : Conv
  resp : Nat
  first : Cycle
  last : Cycle
  count : Nat
  deriving DecidableEq, Repr

/-- The pop buffer (R46). -/
structure PopBuffer where
  entry : Stranger
  valid : Bool
  empty : Bool
  remaining : Nat
  deriving DecidableEq, Repr

/-- An entry of the park queue (R39). -/
structure Park where
  serial : Serial
  rounds : Byte
  deriving DecidableEq, Repr

/-- The Discovery Unit (R29). -/
structure Dsu where
  exponent : Nat
  base : Cycle
  deferral : Nat
  round : Round
  strangers : List Stranger
  pop : PopBuffer
  parks : List Park
  demand : Bool
  deriving DecidableEq, Repr

/-- The DSU after hardware reset (R29, R47, R48). -/
def Dsu.reset : Dsu :=
  { exponent := 0, base := 0, deferral := 0, round := .idle, strangers := []
    pop := { entry := { serial := 0, conv := .unknown, resp := 0, first := 0, last := 0, count := 0 }
             valid := false, empty := false, remaining := 0 }
    parks := [], demand := false }

/-! ### Ranging Unit -/

/-- The stage of a ranging attempt (R50). -/
inductive AttemptStage where
  | asking | opened | judging
  deriving DecidableEq, Repr

/-- A sample place with its doubled mark (R50). -/
structure Place where
  mark : Option Int
  doubled : Bool
  deriving DecidableEq, Repr

/-- The attempt record (R50). -/
structure Attempt where
  index : RecIx
  ident : BitVec 8
  count : Nat
  length : Nat
  ref : Option Cycle
  stage : AttemptStage
  places : List Place
  deriving DecidableEq, Repr

/-- Why an attempt failed (R59, R60, R63). -/
inductive AttemptFailure where
  | miss | spread | early
  deriving DecidableEq, Repr

/-- The outcome of a judged attempt (R59 to R64). -/
inductive RangingOutcome where
  | success (loop coarse fine : Nat)
  | failed (why : AttemptFailure)
  | reach
  deriving DecidableEq, Repr

/-- A ranging outcome on its way to the RTB, with the attempt it names (R25). -/
structure RangingReport where
  index : RecIx
  ident : BitVec 8
  outcome : RangingOutcome
  deriving DecidableEq, Repr

/-- The outcome of a settle sequence (R74). -/
inductive SettleOutcome where
  | sumMismatch
  | trim (average : Int) (coarse fine : Nat) (clamped : Bool)
  | pass (average : Int)
  | reRange (average : Option Int)
  deriving DecidableEq, Repr

/-- The stage of a settle sequence (R67). OUTSTANDING holds the booked slot and its interval identity. -/
inductive SettleStage where
  | queued
  | outstanding (ct : Cycle) (j : Nat) (ident : Nat)
  | trimming
  | decided
  deriving DecidableEq, Repr

/-- A settle state (R67), with the outcome reported and not yet applied (log 12). -/
structure Settle where
  found : Nat
  missed : Nat
  sum : Int
  stage : SettleStage
  report : Option SettleOutcome
  deriving DecidableEq, Repr

/-- The Ranging Unit (R50), with the outcomes on their way to the RTB (log 12). -/
structure Rgu where
  queue : List RecIx
  attempt : Option Attempt
  ident : BitVec 8
  settles : Vector (Option Settle) 128
  reports : List RangingReport
  settleReports : List RecIx
  deriving DecidableEq, Repr

/-- The RGU after hardware reset (R50). -/
def Rgu.reset : Rgu :=
  { queue := [], attempt := none, ident := 0, settles := Vector.replicate 128 none, reports := [], settleReports := [] }

/-! ### Profile Expander -/

/-- A directory entry (R75). -/
structure DirEntry where
  offset : BitVec 16
  length : BitVec 16
  expanded : Nat
  sum : Nat
  deriving DecidableEq, Repr

/-- A block buffer (R80). -/
inductive Buffer where
  | empty
  | filling (bytes : List Byte)
  | full (k : Nat) (last : Bool) (bytes : List Byte)
  deriving DecidableEq, Repr

/-- The item in progress of a compressed image (R77): none, a literal run with bytes to come, a repeat whose value byte is to
come, or a repeat with bytes still to emit. -/
inductive ImageItem where
  | idle
  | literal (left : Nat)
  | awaitValue (count : Nat)
  | repeating (value : Byte) (left : Nat)
  deriving DecidableEq, Repr

/-- How a push ended (R89, R87, R78). -/
inductive PushOutcome where
  | complete | profileFailed | imageFailed
  deriving DecidableEq, Repr

/-- The stage of a channel (R82). `reported` is the model's own: the push has ended and its outcome has not reached the RTB (log 12). -/
inductive ChanStage where
  | free
  | scanning
  | filling
  | ready
  | sent (ct : Cycle) (j : Nat) (ident : Nat)
  | reported (outcome : PushOutcome)
  deriving DecidableEq, Repr

/-- A channel record (R80). `pos`, `item` and `next` are the expansion state, `pos` also the position of a pre-scan, whose totals
are `scanLen` and `scanSum`. -/
structure Channel where
  stage : ChanStage
  index : RecIx
  dir : DirIx
  blocks : Nat
  current : Nat
  retries : Nat
  bufA : Buffer
  bufB : Buffer
  pos : Nat
  item : ImageItem
  next : Nat
  scanLen : Nat
  scanSum : Nat
  deriving DecidableEq, Repr

/-- A channel after hardware reset (R80). -/
def Channel.reset : Channel :=
  { stage := .free, index := 0, dir := 0, blocks := 0, current := 0, retries := 0, bufA := .empty, bufB := .empty
    pos := 0, item := .idle, next := 0, scanLen := 0, scanSum := 0 }

/-- A push outcome on its way to the RTB: the record and the channel it concerns (log 12). -/
structure PushReport where
  index : RecIx
  chan : ChanIx
  deriving DecidableEq, Repr

/-- The Profile Expander (R80), with the outcomes on their way to the RTB (log 12). -/
structure Pex where
  dir : Vector DirEntry 16
  chans : Vector Channel 4
  waiting : List RecIx
  reports : List PushReport
  deriving DecidableEq, Repr

/-- The PEX after hardware reset (R75, R80). -/
def Pex.reset : Pex :=
  { dir := Vector.replicate 16 { offset := 0, length := 0, expanded := 0, sum := 0 }
    chans := Vector.replicate 4 Channel.reset, waiting := [], reports := [] }

/-! ### Line Timing Unit -/

/-- Who holds the quiet resource (R92). -/
inductive Purpose where
  | discovery
  | ranging (i : RecIx) (attempt : BitVec 8)
  deriving DecidableEq, Repr

/-- The window record (R92). `cq` has a meaning in GIVEN and OPEN; `passed` is the model's own: while GIVEN, an invalid FETCH has passed the
fetch of `cq` (R129; log 41). -/
structure Window where
  purpose : Purpose
  length : Nat
  notBefore : Cycle
  wait : Nat
  cq : Cycle
  passed : Bool := false
  deriving DecidableEq, Repr

/-- The quiet state with its window record (R92). -/
inductive Quiet where
  | idle
  | asked (w : Window)
  | given (w : Window)
  | opened (w : Window)
  deriving DecidableEq, Repr

/-- Who owns a booking (R105): the RGU, or a numbered profile channel. -/
inductive Owner where
  | rgu
  | channel (ch : ChanIx)
  deriving DecidableEq, Repr

/-- What occupies a span slot that is not free (R105). -/
inductive SlotUse where
  | booked (i : RecIx) (owner : Owner) (ident : Nat)
  | void
  deriving DecidableEq, Repr

/-- An entry of the span slot map that is not free (R105). -/
structure Slot where
  ct : Cycle
  j : Nat
  use : SlotUse
  deriving DecidableEq, Repr

/-- The identity of an armed interval (R112). -/
inductive Interval where
  | discovery (cq : Cycle)
  | ranging (cq : Cycle) (i : RecIx) (attempt : BitVec 8)
  | slot (ident : Nat) (ct : Cycle) (j : Nat) (i : RecIx) (owner : Owner)
  deriving DecidableEq, Repr

/-- The Line Timing Unit (R92). The arm line is high exactly when `armed` holds an identity. -/
structure Ltu where
  cycle : Cycle
  known : Bool
  offset : Nat
  latestFetch : Option Cycle
  nextFetched : Bool
  lineUp : Bool
  quiet : Quiet
  map : List Slot
  armed : Option Interval
  nextIdent : Nat
  deriving DecidableEq, Repr

/-- The LTU after hardware reset (R92). -/
def Ltu.reset : Ltu :=
  { cycle := 0, known := false, offset := 0, latestFetch := none, nextFetched := false, lineUp := false
    quiet := .idle, map := [], armed := none, nextIdent := 0 }

/-! ### Burst Receiver -/

/-- The hunt state (R111). -/
inductive HuntState where
  | disarmed | preamble | delimiter | body
  deriving DecidableEq, Repr

/-- The hunt record (R111), with the samples and phases its fields are still to be formed from. `passed` counts samples since
recognition, `phases` are those of the latest samples (newest first), `candidate` is the candidate delimiter start, `held` the
samples from it, `bits` the samples of the byte in progress, `expected` the bytes still to come once the kind is known. -/
structure HuntRecord where
  recognized : Int
  passed : Nat
  phases : List (BitVec 4)
  candidate : Option Int
  held : List Bool
  conv : Conv
  lineBit : Int
  phase : BitVec 4
  mark : Int
  bits : List Bool
  bytes : List Byte
  expected : Option Nat
  deriving DecidableEq, Repr

/-- An empty hunt record (R112). -/
def HuntRecord.empty : HuntRecord :=
  { recognized := 0, passed := 0, phases := [], candidate := none, held := [], conv := .unknown, lineBit := 0
    phase := 0, mark := 0, bits := [], bytes := [], expected := none }

/-- A capture entry (R111). -/
structure Capture where
  kind : BurstKind
  low : Nat
  payload : List Byte
  mark : Int
  conv : Conv
  interval : Interval
  deriving DecidableEq, Repr

/-- The Burst Receiver (R111); its arm state is the LTU's. `previous` is the sample before the next one (R113). -/
structure Brx where
  hunt : HuntState
  run : Nat
  previous : Option Bool
  record : HuntRecord
  queue : List Capture
  deriving DecidableEq, Repr

/-- The BRX after hardware reset (R111). -/
def Brx.reset : Brx :=
  { hunt := .disarmed, run := 0, previous := none, record := HuntRecord.empty, queue := [] }

/-! ### Downstream Queue -/

/-- The message of a given window (R133): INVITE with its exponent, or RANGE-ASK for a record with N. -/
inductive WindowMessage where
  | invite (e : Nat)
  | rangeAsk (i : RecIx) (count : Nat)
  deriving DecidableEq, Repr

/-- The window-message slot when filled: the cycle it is bound to and the message (R124). -/
structure BoundMessage where
  cq : Cycle
  message : WindowMessage
  deriving DecidableEq, Repr

/-- Kinds of the control list (R135). -/
inductive ControlKind where
  | assign | equalize | trim | commit
  deriving DecidableEq, Repr

/-- Kinds of the reply-bearing list (R136). -/
inductive ReplyKind where
  | profileBlock | confirmAsk
  deriving DecidableEq, Repr

/-- An entry of the control list (R124). -/
structure ControlEntry where
  index : RecIx
  kind : ControlKind
  deriving DecidableEq, Repr

/-- An entry of the reply-bearing list (R124). -/
structure ReplyEntry where
  index : RecIx
  kind : ReplyKind
  deriving DecidableEq, Repr

/-- The Downstream Queue (R124). -/
structure Dsq where
  window : Option BoundMessage
  urgent : List RecIx
  control : List ControlEntry
  reply : List ReplyEntry
  deriving DecidableEq, Repr

/-- The DSQ after hardware reset (R124). -/
def Dsq.reset : Dsq :=
  { window := none, urgent := [], control := [], reply := [] }

/-! ### Event Writer -/

/-- An event with all its fields (R152); `index` is the record index, 255 for none. -/
structure Event where
  seq : BitVec 16
  kind : EventKind
  index : Byte
  detail0 : Byte
  detail1 : Byte
  lostBefore : Nat
  cycle : Cycle
  value : Word
  deriving DecidableEq, Repr

/-- The Event Writer (R151); its settings stand in `Header`. `stage` 0 is none, 1 to 4 the word being written. -/
structure Evw where
  producer : Byte
  consumer : Byte
  written : List Cycle
  queue : List Event
  nextSeq : BitVec 16
  lost : Nat
  stage : Nat
  line : Bool
  deriving DecidableEq, Repr

/-- The EVW after hardware reset (R151, R158). -/
def Evw.reset : Evw :=
  { producer := 0, consumer := 0, written := [], queue := [], nextSeq := 0, lost := 0, stage := 0, line := false }

/-! ### Port Controller, Bus Pass-Through, links -/

/-- The Port Controller (R159); its settings stand in `Header`. -/
structure Pct where
  port : PortState
  refusal : RefusalCode
  load : Option Nat
  deriving DecidableEq, Repr

/-- The PCT after hardware reset (R159). -/
def Pct.reset : Pct :=
  { port := .off, refusal := .clear, load := none }

/-- The EVW's inserted write (R148). -/
structure WriteRequest where
  word : WinWord
  data : Word
  deriving DecidableEq, Repr

/-- A channel's inserted read; `dropped` when the channel has abandoned the work it was placed for (R90). -/
structure ReadRequest where
  word : WinWord
  dropped : Bool
  deriving DecidableEq, Repr

/-- The Bus Pass-Through: window base (R139), snapshots (R144, R146), inserted-access queue (R148), consecutive-access count (R149). -/
structure Bpt where
  base : BitVec 6
  snapHeld : Bool
  snapIndex : RecIx
  snap : Vector Word 12
  headerHeld : Bool
  headerSnap : Vector Word 64
  evwRequest : Option WriteRequest
  chanRequests : Vector (Option ReadRequest) 4
  loadRequest : Option WinWord
  consecutive : Nat
  deriving DecidableEq, Repr

/-- The BPT after hardware reset (R150); the window base before the first release is log 5. -/
def Bpt.reset : Bpt :=
  { base := 0, snapHeld := false, snapIndex := 0, snap := Vector.replicate 12 0, headerHeld := false
    headerSnap := Vector.replicate 64 0, evwRequest := none, chanRequests := Vector.replicate 4 none
    loadRequest := none, consecutive := 0 }

/-- What an ASK is for, as the scheduler link carries it (R98). -/
inductive AskPurpose where
  | discovery | ranging
  deriving DecidableEq, Repr

/-- Messages of the part on the scheduler link (10.7). -/
inductive SchedMessage where
  | ask (length : Nat) (notBefore : Cycle) (purpose : AskPurpose)
  | withdraw
  | done
  deriving DecidableEq, Repr

/-- The part's answer on the framer link (R129): none sent yet, NONE, or a 24-byte message. -/
inductive FramerAnswer where
  | silent
  | nothing
  | message (bytes : List Byte)
  deriving DecidableEq, Repr

/-- What the part puts out: the scheduler messages since hardware reset in order, the answer to the latest FETCH, and the data of the
latest processor read (log 15). -/
structure Links where
  sched : List SchedMessage
  framer : FramerAnswer
  readData : Word
  deriving DecidableEq, Repr

/-- The links after hardware reset: nothing sent (R92; log 15). -/
def Links.reset : Links :=
  { sched := [], framer := .silent, readData := 0 }

/-! ### The whole -/

/-- The state of the part, its SRAM and the commands that wait. `sram` lists (byte address, byte) in canonical form (Machine/Memory.lean). -/
structure State where
  records : Vector Record 128
  header : Header
  counters : Counters
  dsu : Dsu
  rgu : Rgu
  pex : Pex
  ltu : Ltu
  brx : Brx
  dsq : Dsq
  evw : Evw
  pct : Pct
  bpt : Bpt
  links : Links
  sram : List Host.Cell
  pending : List Instr
  deriving DecidableEq, Repr

/-- Reasons to fault. There is none: the spec gives the part no step that stops the machine, so no command raises a fault. -/
inductive Fault where
  deriving DecidableEq, Repr

/-- Reasons to refuse. -/
inductive Refusal where
  /-- Raised by an arm of `exec` whose command has no meaning in the model; safe. No arm raises it: every row is modelled. -/
  | notModelled (mnemonic : String)
  deriving DecidableEq, Repr

/-- The machine right after hardware reset is asserted: the port OFF, every block at its reset values (R27, R29, R50, R80, R92, R111,
R124, R150, R151, R159), nothing written in SRAM (log 4), no command waiting. -/
def State.reset : State :=
  { records := Vector.replicate 128 Record.reset, header := Header.reset, counters := Counters.zero
    dsu := Dsu.reset, rgu := Rgu.reset, pex := Pex.reset, ltu := Ltu.reset, brx := Brx.reset, dsq := Dsq.reset
    evw := Evw.reset, pct := Pct.reset, bpt := Bpt.reset, links := Links.reset, sram := [], pending := [] }

end Sys2Proof.Machine
end

