-- ==== Sys2Proof/Machine/Codes.lean ====
section
/-! DEFINITION. The codes of chapter 11: port states and refusals (11.3), record fields (11.4), event kinds, reasons and details (R152, 11.7). -/

namespace Sys2Proof.Machine

/-- Port state codes (11.3). -/
def portCode : PortState → Byte
  | .off => 0 | .loading => 1 | .config => 2 | .running => 3 | .draining => 4 | .halted => 5

/-- Refusal codes (11.3). -/
def refusalCode : RefusalCode → Byte
  | .clear => 0 | .target => 1 | .span => 2

/-- Activation state codes (11.4). -/
def actCode : ActState → Byte
  | .empty => 0 | .awaiting => 1 | .assigned => 2 | .ranging => 3 | .equalized => 4 | .profiling => 5
  | .settling => 6 | .committing => 7 | .inService => 8 | .releasing => 9 | .held => 10 | .failed => 11

/-- Failure reason codes (11.4). -/
def failCode : FailReason → Byte
  | .clear => 0 | .reach => 1 | .range => 2 | .profile => 3 | .image => 4 | .sum => 5

/-- Release destination codes (11.4). -/
def destCode : RelDest → Byte
  | .clear => 0 | .empty => 1 | .held => 2 | .failed => 3 | .awaiting => 4

/-- Convention codes (11.4). -/
def convCode : Conv → Byte
  | .unknown => 0 | .straight => 1 | .crossed => 2

/-- Reasons of a state change (11.7). -/
def changeCode : ChangeReason → Byte
  | .intent => 1 | .hello => 2 | .assignTaken => 3 | .ranged => 4 | .attemptFailed => 5 | .equalizeTaken => 6
  | .channel => 7 | .profileDone => 8 | .settled => 9 | .reRange => 10 | .commitTaken => 11 | .releaseTaken => 12
  | .reappear => 13 | .port => 14 | .failure => 15

/-- DISCARD reasons (11.7). -/
def discardCode : DiscardReason → Byte
  | .state => 1 | .port => 2 | .inUse => 3 | .range => 4 | .badIntent => 5

/-- QUIET details (11.7). -/
def quietCode : QuietDetail → Byte
  | .deny => 1 | .timeout => 2 | .lateGive => 3 | .revoked => 4 | .lateRevoke => 5

/-- LINE details (11.7). -/
def lineCode : LineDetail → Byte
  | .down => 1 | .up => 2 | .slip => 3

/-- Event kind codes (R152). -/
def kindCode : EventKind → Byte
  | .record => 1 | .stranger => 2 | .duplicate => 3 | .reappear => 4 | .admitRefused => 5 | .discard => 6
  | .image => 7 | .port => 8 | .quiet => 9 | .line => 10

/-- A record is live in AWAITING through RELEASING (R5). -/
def ActState.live : ActState → Bool
  | .awaiting | .assigned | .ranging | .equalized | .profiling | .settling | .committing | .inService | .releasing => true
  | .empty | .held | .failed => false

/-- A record is in activation in ASSIGNED through COMMITTING (R5). -/
def ActState.inActivation : ActState → Bool
  | .assigned | .ranging | .equalized | .profiling | .settling | .committing => true
  | .empty | .awaiting | .inService | .releasing | .held | .failed => false

/-- The states in which the setup fields other than the intent may be written (R3). -/
def ActState.writable : ActState → Bool
  | .empty | .held | .failed => true
  | .awaiting | .assigned | .ranging | .equalized | .profiling | .settling | .committing | .inService | .releasing => false

/-- The port states in which reads of held words are answered from the copies (R141). -/
def PortState.overlay : PortState → Bool
  | .config | .running | .draining | .halted => true
  | .off | .loading => false

/-- The flag bits of a record, bit 0 first (11.4); bits 6 and 7 read 0. -/
def Record.flags (r : Record) : Byte :=
  (0 : BitVec 2) ++ BitVec.ofBool r.assignTaken ++ BitVec.ofBool r.seenWhileHeld ++ BitVec.ofBool r.profileDelivered
    ++ BitVec.ofBool r.trimClamped ++ BitVec.ofBool r.trimSent ++ BitVec.ofBool r.eqValid

end Sys2Proof.Machine
end

