-- ==== Sys2Proof/Machine/Layout.lean ====
section
/-! DEFINITION. The layouts of the activation window (11.2 to 11.7): each held word as it is read, and each setup word as it is stored, clamped and rounded field by field. -/

namespace Sys2Proof.Machine

/-- The byte clamped into a range (R30, R51, R80, R93). -/
def clampByte (lo hi : Nat) (b : Byte) : Byte :=
  if b.toNat < lo then BitVec.ofNat 8 lo else if hi < b.toNat then BitVec.ofNat 8 hi else b

/-- The profile index as stored (R2): 0..15 and 255 as written, others as 255. -/
def storeProfile (b : Byte) : Byte := if b.toNat ≤ 15 then b else 255

/-- The range samples N as stored (R2): 1, 2 or 4. -/
def storeSamples (b : Byte) : Byte := if b.toNat ≤ 1 then 1 else if b.toNat ≤ 3 then 2 else 4

/-- The settle count K as stored (R2): 2..8. -/
def storeSettleCount (b : Byte) : Byte := clampByte 2 8 b

/-! ### Header setup (11.2) -/

/-- Header setup word `k` (window offset 4 k) as it reads; bytes of no field read 0 (R140). The consumer index is the EVW's. -/
def Header.word (h : Header) (consumer : Byte) : Nat → Word
  | 0 => word4 h.portIntent 0 0 0
  | 1 => h.targetLoop
  | 2 => h.spanStart
  | 3 => word4 (h.slotLen.extractLsb' 0 8) (h.slotLen.extractLsb' 8 8) h.slotCount h.replyLead
  | 4 => word4 h.quietWait h.rangeLimit h.spreadLimit h.tol
  | 5 => word4 h.blockRetries 0 0 0
  | 16 => word4 (h.discoveryPeriod.extractLsb' 0 8) (h.discoveryPeriod.extractLsb' 8 8) h.discoveryDefer h.parkRounds
  | 17 => word4 h.spreadMin h.spreadInit h.spreadMax h.openDiscovery
  | 18 => word4 h.filterAOn h.filterBOn h.rangeMode 0
  | 19 => h.filterAValue
  | 20 => h.filterAMask
  | 21 => h.filterBValue
  | 22 => h.filterBMask
  | 23 => h.rangeLower
  | 24 => h.rangeUpper
  | 32 => word4 h.irqEnable h.threshold (h.holdCycles.extractLsb' 0 8) (h.holdCycles.extractLsb' 8 8)
  | 33 => word4 consumer 0 0 0
  | _ => 0

/-- The byte lanes of header setup word `k` that hold fields (11.2). -/
def headerLanes : Nat → Enables
  | 0 => 0b0001
  | 1 => 0b1111
  | 2 => 0b1111
  | 3 => 0b1111
  | 4 => 0b1111
  | 5 => 0b0001
  | 16 => 0b1111
  | 17 => 0b1111
  | 18 => 0b0111
  | 19 => 0b1111
  | 20 => 0b1111
  | 21 => 0b1111
  | 22 => 0b1111
  | 23 => 0b1111
  | 24 => 0b1111
  | 32 => 0b1111
  | 33 => 0b0001
  | _ => 0

/-- A one-byte field in lane `k`: the written byte, put right by `f`, where the lane is enabled (R2, R30, R93). -/
def storeLane (old : Byte) (data : Word) (be : Enables) (k : Nat) (f : Byte → Byte) : Byte :=
  if be.getLsbD k then f (byteOf data k) else old

/-- A 16-bit field in lanes `k` and `k + 1`: the written bytes merged with the bytes held, put right by `f` (R166). -/
def storeHalf (old : BitVec 16) (data : Word) (be : Enables) (k : Nat) (f : BitVec 16 → BitVec 16) : BitVec 16 :=
  if be.getLsbD k || be.getLsbD (k + 1) then
    f ((if be.getLsbD (k + 1) then byteOf data (k + 1) else old.extractLsb' 8 8)
      ++ (if be.getLsbD k then byteOf data k else old.extractLsb' 0 8))
  else old

/-- Header setup word `k` stored from a write: each field written is merged, then clamped (R30, R51, R80, R93, R157, R161, R166). -/
def Header.store (h : Header) (k : Nat) (data : Word) (be : Enables) : Header :=
  match k with
  | 0 => { h with portIntent := storeLane h.portIntent data be 0 id }
  | 1 => { h with targetLoop := merge h.targetLoop data be }
  | 2 => { h with spanStart := merge h.spanStart data be }
  | 3 =>
    { h with
      slotLen := storeHalf h.slotLen data be 0 id
      slotCount := storeLane h.slotCount data be 2 id
      replyLead := storeLane h.replyLead data be 3 (clampByte 2 15) }
  | 4 =>
    { h with
      quietWait := storeLane h.quietWait data be 0 (clampByte 1 255)
      rangeLimit := storeLane h.rangeLimit data be 1 (clampByte 1 15)
      spreadLimit := storeLane h.spreadLimit data be 2 id
      tol := storeLane h.tol data be 3 (clampByte 1 64) }
  | 5 => { h with blockRetries := storeLane h.blockRetries data be 0 (clampByte 1 15) }
  | 16 =>
    { h with
      discoveryPeriod := storeHalf h.discoveryPeriod data be 0 (fun x => if x.toNat < 64 then 64 else x)
      discoveryDefer := storeLane h.discoveryDefer data be 2 (clampByte 1 15)
      parkRounds := storeLane h.parkRounds data be 3 id }
  | 17 =>
    { h with
      spreadMin := storeLane h.spreadMin data be 0 (clampByte 0 8)
      spreadInit := storeLane h.spreadInit data be 1 (clampByte 0 8)
      spreadMax := storeLane h.spreadMax data be 2 (clampByte 0 8)
      openDiscovery := storeLane h.openDiscovery data be 3 id }
  | 18 =>
    { h with
      filterAOn := storeLane h.filterAOn data be 0 id
      filterBOn := storeLane h.filterBOn data be 1 id
      rangeMode := storeLane h.rangeMode data be 2 id }
  | 19 => { h with filterAValue := merge h.filterAValue data be }
  | 20 => { h with filterAMask := merge h.filterAMask data be }
  | 21 => { h with filterBValue := merge h.filterBValue data be }
  | 22 => { h with filterBMask := merge h.filterBMask data be }
  | 23 => { h with rangeLower := merge h.rangeLower data be }
  | 24 => { h with rangeUpper := merge h.rangeUpper data be }
  | 32 =>
    { h with
      irqEnable := storeLane h.irqEnable data be 0 id
      threshold := storeLane h.threshold data be 1 (clampByte 1 255)
      holdCycles := storeHalf h.holdCycles data be 2 id }
  | _ => h

/-! ### Records (11.4) -/

/-- Setup word `k` (0..3) of a record as it reads. -/
def Record.setupWord (r : Record) : Nat → Word
  | 0 => word4 r.intent r.profileIx r.samples r.settleCount
  | 1 => r.serial.extractLsb' 0 32
  | 2 => r.serial.extractLsb' 32 32
  | 3 => r.tag
  | _ => 0

/-- Setup word `k` of a record stored from a write, field by field (R2). -/
def Record.store (r : Record) (k : Nat) (data : Word) (be : Enables) : Record :=
  match k with
  | 0 =>
    { r with
      intent := storeLane r.intent data be 0 id
      profileIx := storeLane r.profileIx data be 1 storeProfile
      samples := storeLane r.samples data be 2 storeSamples
      settleCount := storeLane r.settleCount data be 3 storeSettleCount }
  | 1 => { r with serial := r.serial.extractLsb' 32 32 ++ merge (r.serial.extractLsb' 0 32) data be }
  | 2 => { r with serial := merge (r.serial.extractLsb' 32 32) data be ++ r.serial.extractLsb' 0 32 }
  | 3 => { r with tag := merge r.tag data be }
  | _ => r

/-- Live word `k` (0..11, record offset 16 + 4 k) of a record as it reads (11.4). -/
def Record.liveWord (r : Record) : Nat → Word
  | 0 => word4 (actCode r.state) (failCode r.reason) (destCode r.dest) (BitVec.ofNat 8 r.line)
  | 1 => word4 (convCode r.conv) r.flags (BitVec.ofNat 8 r.rangeUsed) (BitVec.ofNat 8 r.restarts)
  | 2 => word2 ((0 : BitVec 8) ++ BitVec.ofNat 8 r.sightings) (BitVec.ofNat 16 r.resp)
  | 3 => BitVec.ofNat 32 r.loop
  | 4 => BitVec.ofNat 8 r.eqFine ++ BitVec.ofNat 24 r.eqCoarse
  | 5 => BitVec.ofInt 32 r.lastDeviation
  | 6 => word2 (BitVec.ofNat 16 r.blocksTotal) (BitVec.ofNat 16 r.blocksAcked)
  | 7 => word2 (BitVec.ofNat 16 r.retriesTotal) 0
  | 8 => r.lastChange
  | 9 => r.lastHello
  | _ => 0

/-- The 48 live bytes of a record, as the record snapshot copies them (R144). -/
def Record.liveWords (r : Record) : Vector Word 12 := Vector.ofFn (fun k => r.liveWord k.val)

/-! ### Directory, pop words, event records, header live -/

/-- The setup half of a directory entry as it reads (11.5). -/
def DirEntry.setupWord (e : DirEntry) : Word := word2 e.offset e.length

/-- The live half of a directory entry as it reads (11.5). -/
def DirEntry.liveWord (e : DirEntry) : Word := word2 (BitVec.ofNat 16 e.expanded) (BitVec.ofNat 16 e.sum)

/-- The setup half stored from a write: as written, merged by byte enables (R76). -/
def DirEntry.store (e : DirEntry) (data : Word) (be : Enables) : DirEntry :=
  { e with offset := storeHalf e.offset data be 0 id, length := storeHalf e.length data be 2 id }

/-- Pop word `k` (11.6). -/
def PopBuffer.word (p : PopBuffer) : Nat → Word
  | 0 =>
    word4 ((0 : BitVec 6) ++ BitVec.ofBool p.empty ++ BitVec.ofBool p.valid) (BitVec.ofNat 8 p.remaining)
      (convCode p.entry.conv) (BitVec.ofNat 8 p.entry.count)
  | 1 => p.entry.serial.extractLsb' 0 32
  | 2 => p.entry.serial.extractLsb' 32 32
  | 3 => word2 (BitVec.ofNat 16 p.entry.resp) 0
  | 4 => p.entry.first
  | 5 => p.entry.last
  | _ => 0

/-- Word `k` (0..3) of an event record (11.7). -/
def Event.word (e : Event) : Nat → Word
  | 0 => word4 (e.seq.extractLsb' 0 8) (e.seq.extractLsb' 8 8) (kindCode e.kind) e.index
  | 1 => word2 (e.detail1 ++ e.detail0) (BitVec.ofNat 16 e.lostBefore)
  | 2 => e.cycle
  | _ => e.value

/-- Two 16-bit counters of one header live word. -/
def counters2 (lo hi : Nat) : Word := word2 (BitVec.ofNat 16 lo) (BitVec.ofNat 16 hi)

/-- Header live word `k` (window offset 0x0100 + 4 k) as it stands (11.3). -/
def headerLiveWord (s : State) : Nat → Word
  | 0 => word4 (portCode s.pct.port) (if s.ltu.lineUp then 1 else 0) (refusalCode s.pct.refusal) (BitVec.ofNat 8 s.dsu.exponent)
  | 1 => s.ltu.cycle
  | 2 =>
    word2 (BitVec.ofNat 8 s.dsu.strangers.length ++ s.evw.producer) (BitVec.ofNat 16 s.counters.discoveryRounds)
  | 3 => counters2 s.counters.windowsClean s.counters.windowsGarbled
  | 4 => counters2 s.counters.windowsSilent s.counters.validHellos
  | 5 => counters2 s.counters.garbledBursts s.counters.captureOverruns
  | 6 => counters2 s.counters.strayBursts s.counters.wrongSender
  | 7 => counters2 s.counters.strangersDropped s.counters.strangersFiltered
  | 8 => counters2 s.counters.parkDrops s.counters.staleReplies
  | 9 => counters2 s.counters.rangingOk s.counters.rangingFailed
  | 10 => counters2 s.counters.quietAsks s.counters.quietDenies
  | 11 => counters2 s.counters.quietTimeouts s.counters.quietLateGives
  | 12 => counters2 s.counters.quietRevokes s.counters.quietLateRevokes
  | 13 => counters2 s.counters.quietStrays s.counters.discards
  | 14 => counters2 s.counters.eventsLost s.counters.stretched
  | _ => 0

/-- The whole header live region, as the header snapshot copies it (R146). -/
def headerLiveWords (s : State) : Vector Word 64 := Vector.ofFn (fun k => headerLiveWord s k.val)

end Sys2Proof.Machine
end

