-- ==== Sys2Proof/Machine/Memory.lean ====
section
/-! DEFINITION. The SRAM on the memory side (R138) as (byte address, byte) pairs in one canonical form: addresses strictly rising, no
entry equal to what an unlisted address reads as (log 4). -/

namespace Sys2Proof.Machine.Memory

/-- The canonical form. -/
abbrev wf (m : List Host.Cell) : Prop :=
  m.Pairwise (fun a b => a.1 < b.1) ∧ ∀ c ∈ m, c.2 ≠ Config.sramPowerOn

/-- The byte at an address. -/
def read : List Host.Cell → Nat → Byte
  | [], _ => Config.sramPowerOn
  | c :: m, x => if c.1 = x then c.2 else read m x

/-- An entry put in front, left out where the byte is what an unlisted address reads as. -/
def put (x : Nat) (v : Byte) (m : List Host.Cell) : List Host.Cell :=
  if v = Config.sramPowerOn then m else (x, v) :: m

/-- Store a byte, keeping the canonical form. -/
def write : List Host.Cell → Nat → Byte → List Host.Cell
  | [], x, v => put x v []
  | c :: m, x, v =>
    if x < c.1 then put x v (c :: m)
    else if x = c.1 then put x v m
    else c :: write m x v

/-- The byte address of lane `k` of a bus word. -/
def laneAddr (a : BusAddr) (k : Nat) : Nat := 4 * a.toNat + k

/-- The bus word at a word address (R148: a 32-bit read). -/
def readWord (m : List Host.Cell) (a : BusAddr) : Word :=
  word4 (read m (laneAddr a 0)) (read m (laneAddr a 1)) (read m (laneAddr a 2)) (read m (laneAddr a 3))

/-- One byte lane of a bus write: stored where its byte enable is set. -/
def writeLane (a : BusAddr) (data : Word) (be : Enables) (k : Nat) (m : List Host.Cell) : List Host.Cell :=
  if be.getLsbD k then write m (laneAddr a k) (byteOf data k) else m

/-- A bus write with its byte enables (R138). -/
def writeWord (m : List Host.Cell) (a : BusAddr) (data : Word) (be : Enables) : List Host.Cell :=
  writeLane a data be 3 (writeLane a data be 2 (writeLane a data be 1 (writeLane a data be 0 m)))

end Sys2Proof.Machine.Memory
end

