-- ==== Sys2Proof/Machine/Ops.lean ====
section
/-! DEFINITION. The named operations every block uses: records and their state changes (R6), header counters (R164), events (R153, R154), the interrupt line (R158), the scheduler link, the inserted-access queue (R148). -/

namespace Sys2Proof.Machine

/-! ### Counters -/

/-- A counter raised by 1, saturating at 65,535 (R164). -/
def Counters.inc (k : CounterId) (c : Counters) : Counters :=
  let up := satInc Config.counterMax
  match k with
  | .discoveryRounds => { c with discoveryRounds := up c.discoveryRounds }
  | .windowsClean => { c with windowsClean := up c.windowsClean }
  | .windowsGarbled => { c with windowsGarbled := up c.windowsGarbled }
  | .windowsSilent => { c with windowsSilent := up c.windowsSilent }
  | .validHellos => { c with validHellos := up c.validHellos }
  | .garbledBursts => { c with garbledBursts := up c.garbledBursts }
  | .captureOverruns => { c with captureOverruns := up c.captureOverruns }
  | .strayBursts => { c with strayBursts := up c.strayBursts }
  | .wrongSender => { c with wrongSender := up c.wrongSender }
  | .strangersDropped => { c with strangersDropped := up c.strangersDropped }
  | .strangersFiltered => { c with strangersFiltered := up c.strangersFiltered }
  | .parkDrops => { c with parkDrops := up c.parkDrops }
  | .staleReplies => { c with staleReplies := up c.staleReplies }
  | .rangingOk => { c with rangingOk := up c.rangingOk }
  | .rangingFailed => { c with rangingFailed := up c.rangingFailed }
  | .quietAsks => { c with quietAsks := up c.quietAsks }
  | .quietDenies => { c with quietDenies := up c.quietDenies }
  | .quietTimeouts => { c with quietTimeouts := up c.quietTimeouts }
  | .quietLateGives => { c with quietLateGives := up c.quietLateGives }
  | .quietRevokes => { c with quietRevokes := up c.quietRevokes }
  | .quietLateRevokes => { c with quietLateRevokes := up c.quietLateRevokes }
  | .quietStrays => { c with quietStrays := up c.quietStrays }
  | .discards => { c with discards := up c.discards }
  | .eventsLost => { c with eventsLost := up c.eventsLost }
  | .stretched => { c with stretched := up c.stretched }

/-- The part adds 1 to a header counter (R164). -/
def State.count (s : State) (k : CounterId) : State := { s with counters := s.counters.inc k }

/-! ### Records -/

/-- Record `i` (R1). -/
def State.record (s : State) (i : RecIx) : Record := s.records[i]

/-- Record `i` replaced. -/
def State.setRecord (s : State) (i : RecIx) (r : Record) : State := { s with records := s.records.set i r }

/-- A change of record `i` alone. -/
def State.onRecord (s : State) (i : RecIx) (f : Record → Record) : State := s.setRecord i (f (s.record i))

/-- The record indices in order. -/
def allRecords : List RecIx := List.finRange 128

/-- The channel indices in order. -/
def allChannels : List ChanIx := List.finRange 4

/-- A record moved to another activation state: on a change of it, the cycle of last state change is the current cycle (R6). -/
def Record.moveTo (r : Record) (st : ActState) (now : Cycle) : Record :=
  { r with state := st, lastChange := if r.state = st then r.lastChange else now }

/-- Record `i` moved to an activation state with no RECORD event (R6: the two changes that raise none). -/
def State.moveQuietly (s : State) (i : RecIx) (st : ActState) : State :=
  s.onRecord i (fun r => r.moveTo st s.ltu.cycle)

/-- The live fields at their reset values, the setup copy kept (R10, R27). -/
def Record.clearLive (r : Record) : Record :=
  { Record.reset with
    intent := r.intent, profileIx := r.profileIx, samples := r.samples, settleCount := r.settleCount
    serial := r.serial, tag := r.tag }

/-- The activation fields cleared, as an admission does (R9); sightings, the cycle of last HELLO, the state and the cycle of last
state change are kept. -/
def Record.clearActivation (r : Record) : Record :=
  { r with
    reason := .clear, dest := .clear, line := 0, conv := .unknown, resp := 0, loop := 0, eqCoarse := 0, eqFine := 0
    lastDeviation := 0, eqValid := false, trimSent := false, trimClamped := false, profileDelivered := false
    seenWhileHeld := false, assignTaken := false, rangeUsed := 0, restarts := 0, blocksTotal := 0, blocksAcked := 0
    retriesTotal := 0 }

/-- The live record that holds a serial, if there is one (R9, R37): the lowest-indexed, where R9 makes it the only one. -/
def State.liveHolder (s : State) (serial : Serial) : Option RecIx :=
  allRecords.find? (fun k => (s.record k).state.live && decide ((s.record k).serial = serial))

/-! ### Events -/

/-- An event before it is numbered (R153): kind, record index, two detail bytes, value. -/
structure Raise where
  kind : EventKind
  index : Byte
  detail0 : Byte
  detail1 : Byte
  value : Word
  deriving DecidableEq, Repr

/-- The event as the pending queue takes it (R152, R153): numbered with the next sequence, carrying the lost count and the cycle number. -/
def State.numbered (s : State) (e : Raise) : Event :=
  { seq := s.evw.nextSeq, kind := e.kind, index := e.index, detail0 := e.detail0, detail1 := e.detail1
    lostBefore := s.evw.lost, cycle := s.ltu.cycle, value := e.value }

/-- The EVW takes an event (R153): appended with the next sequence and the lost count while the queue holds fewer than 8, lost
otherwise (R154); none is taken in OFF and LOADING (R151). -/
def State.raise (s : State) (e : Raise) : State :=
  if s.pct.port.overlay = false then s
  else if s.evw.queue.length < Config.eventPlaces then
    { s with evw := { s.evw with
        queue := s.evw.queue ++ [s.numbered e]
        nextSeq := s.evw.nextSeq + 1
        lost := 0 } }
  else
    { s with
      evw := { s.evw with lost := satInc Config.counterMax s.evw.lost }
      counters := s.counters.inc .eventsLost }

/-- A record index as an event carries it. -/
def indexByte (i : RecIx) : Byte := BitVec.ofNat 8 i.val

/-- The record index of an event that concerns no record (R152). -/
def noIndex : Byte := 255

/-- The RECORD event of record `i` as it stands (R6). -/
def State.raiseRecord (s : State) (i : RecIx) (why : ChangeReason) : State :=
  s.raise { kind := .record, index := indexByte i, detail0 := actCode (s.record i).state, detail1 := changeCode why
            value := (s.record i).tag }

/-- Record `i` enters an activation state with its RECORD event (R6). -/
def State.enter (s : State) (i : RecIx) (st : ActState) (why : ChangeReason) : State :=
  (s.moveQuietly i st).raiseRecord i why

/-- A DISCARD event (R152) with its count (R164): the PCT counts it at the raise, whether or not it reaches the ring. -/
def State.discard (s : State) (index : Byte) (why : DiscardReason) (offset : Nat) : State :=
  if s.pct.port.overlay = false then s
  else
    (s.count .discards).raise
      { kind := .discard, index := index, detail0 := discardCode why, detail1 := 0, value := BitVec.ofNat 32 offset }

/-- The PORT event of the port as it stands (R159). -/
def State.raisePort (s : State) : State :=
  s.raise { kind := .port, index := noIndex, detail0 := portCode s.pct.port, detail1 := refusalCode s.pct.refusal, value := 0 }

/-- The port enters a state, with its PORT event (R159). -/
def State.enterPort (s : State) (p : PortState) : State :=
  State.raisePort { s with pct := { s.pct with port := p } }

/-- A LINE event; its value is the cycle number (R95, R96). -/
def State.raiseLine (s : State) (d : LineDetail) : State :=
  s.raise { kind := .line, index := noIndex, detail0 := lineCode d, detail1 := 0, value := s.ltu.cycle }

/-- The record index a QUIET event carries (R101). -/
def Purpose.indexByte : Purpose → Byte
  | .discovery => noIndex
  | .ranging i _ => Sys2Proof.Machine.indexByte i

/-- A QUIET event (R101). -/
def State.raiseQuiet (s : State) (p : Purpose) (d : QuietDetail) (value : Cycle) : State :=
  s.raise { kind := .quiet, index := p.indexByte, detail0 := quietCode d, detail1 := 0, value := value }

/-! ### The event ring and the interrupt line -/

/-- The unconsumed count (R151). -/
def Evw.unconsumed (e : Evw) : Nat := (e.producer - e.consumer).toNat

/-- The ring is full: 255 records are unconsumed (R151). -/
def Evw.full (e : Evw) : Bool := decide (e.producer + 1 = e.consumer)

/-- The hold condition (R158). -/
def State.holdCondition (s : State) : Bool :=
  decide (s.header.holdCycles ≠ 0) && decide (1 ≤ s.evw.unconsumed) &&
    (match s.evw.written with
      | [] => false
      | oldest :: _ => decide (s.header.holdCycles.toNat ≤ (s.ltu.cycle - oldest).toNat))

/-- The level the interrupt line follows (R158). -/
def State.interruptLevel (s : State) : Bool :=
  decide (s.header.irqEnable ≠ 0) &&
    (decide (s.header.threshold.toNat ≤ s.evw.unconsumed) || s.holdCondition)

/-- The interrupt line follows a change of its inputs (R158). -/
def State.followInterrupt (s : State) : State := { s with evw := { s.evw with line := s.interruptLevel } }

/-! ### Links -/

/-- The part sends a message on the scheduler link (10.7). -/
def State.send (s : State) (m : SchedMessage) : State := { s with links := { s.links with sched := s.links.sched ++ [m] } }

/-- The part answers a FETCH (R129). -/
def State.answerFetch (s : State) (a : FramerAnswer) : State := { s with links := { s.links with framer := a } }

/-- The part answers a processor read (R138, R141). -/
def State.answerRead (s : State) (w : Word) : State := { s with links := { s.links with readData := w } }

/-! ### Settings as numbers -/

/-- TargetLoop in line bits (R93). -/
def State.targetLoop (s : State) : Nat := s.header.targetLoop.toNat

/-- SpanStart in line bits (R93). -/
def State.spanStart (s : State) : Nat := s.header.spanStart.toNat

/-- SlotLen in line bits (R93). -/
def State.slotLen (s : State) : Nat := s.header.slotLen.toNat

/-- An enable byte of 0 is off, any other value on (R166). -/
def isOn (b : Byte) : Bool := decide (b ≠ 0)

/-! ### The window on the memory side -/

/-- The bus address of a window word: the window base and the word's place in the window (R139). -/
def State.busAddr (s : State) (w : WinWord) : BusAddr := s.bpt.base ++ w

/-- The SRAM word at a window word (R148). -/
def State.sramWord (s : State) (w : WinWord) : Word := Memory.readWord s.sram (s.busAddr w)

/-- Some inserted request waits (R149). -/
def Bpt.waiting (b : Bpt) : Bool :=
  b.evwRequest.isSome || b.chanRequests.toList.any Option.isSome || b.loadRequest.isSome

end Sys2Proof.Machine
end

