-- ==== Sys2Proof/Machine/LineTime.lean ====
section
/-! DEFINITION. Line time, the quiet resource and the span slot map (chapter 5): the operations of the Line Timing Unit that the other blocks use. -/

namespace Sys2Proof.Machine

/-! ### Instants -/

/-- Line bits from the start of cycle `c` to the present line bit, negative where `c` is still to come (R92, R112). -/
def Ltu.since (l : Ltu) (c : Cycle) : Int := (Config.cycleBits : Int) * cyclesFrom c l.cycle + (l.offset : Int)

/-- The fetch of cycle `c` is passed (R94): the latest fetch names `c` or a later cycle, or the cycle number is `c` or later. -/
def Ltu.fetchPassed (l : Ltu) (c : Cycle) : Bool :=
  (match l.latestFetch with
    | none => false
    | some f => atOrAfter f c) || atOrAfter l.cycle c

/-- The start of the arrival interval of slot index `j`, in line bits after the start of its transmit cycle (R105). -/
def State.arrivalStart (s : State) (j : Nat) : Nat := s.targetLoop + s.spanStart + j * s.slotLen

/-- The arrival end of slot index `j`, in line bits after the start of its transmit cycle (R98, R105). -/
def State.arrivalEnd (s : State) (j : Nat) : Nat := s.targetLoop + s.spanStart + (j + 1) * s.slotLen

/-! ### Arming -/

/-- The identity of the interval of a quiet window (R112). -/
def Window.interval (w : Window) : Interval :=
  match w.purpose with
  | .discovery => .discovery w.cq
  | .ranging i a => .ranging w.cq i a

/-- The reference cycle of an armed interval: its reference instant is that cycle's start (R112). -/
def Interval.ref : Interval → Cycle
  | .discovery cq => cq
  | .ranging cq _ _ => cq
  | .slot _ ct _ _ _ => ct

/-- The arm line rises for an interval (R110): the BRX takes the identity and its hunt begins afresh (R112). -/
def State.arm (s : State) (id : Interval) : State :=
  { s with
    ltu := { s.ltu with armed := some id }
    brx := { s.brx with hunt := .preamble, run := 0, previous := none, record := HuntRecord.empty } }

/-- The arm line drops (R110): the BRX is disarmed and a burst not yet complete is abandoned (R112). R112 names the hunt state alone; that
the run length and the hunt record are emptied at the drop, and not at the next rise, is the model's choice (DESIGN CHOICE, log 38). -/
def State.disarm (s : State) : State :=
  { s with
    ltu := { s.ltu with armed := none }
    brx := { s.brx with hunt := .disarmed, run := 0, previous := none, record := HuntRecord.empty } }

/-- The arm line drops if it is raised for this interval (R103, R107, R108). -/
def State.disarmFor (s : State) (id : Interval) : State := if s.ltu.armed = some id then s.disarm else s

/-! ### The quiet resource -/

/-- The quiet state replaced. -/
def State.setQuiet (s : State) (q : Quiet) : State := { s with ltu := { s.ltu with quiet := q } }

/-- The window-message slot emptied (R133). -/
def State.emptyWindowSlot (s : State) : State := { s with dsq := { s.dsq with window := none } }

/-- The window of an interval is OPEN (R103): it has not ended. -/
def State.windowRuns (s : State) (id : Interval) : Bool :=
  match s.ltu.quiet with
  | .opened w => decide (w.interval = id)
  | .idle => false
  | .asked _ => false
  | .given _ => false

/-- An OPEN window ends (R103): the arm line drops, DONE is sent, the quiet state is IDLE. -/
def State.endWindow (s : State) (w : Window) : State := ((s.disarmFor w.interval).send .done).setQuiet .idle

/-- The quiet resource is ended early (R104): WITHDRAW for an ask, DONE for a given or open window, whose message leaves the slot. -/
def State.endQuiet (s : State) : State :=
  match s.ltu.quiet with
  | .idle => s
  | .asked _ => (s.send .withdraw).setQuiet .idle
  | .given _ => ((s.send .done).setQuiet .idle).emptyWindowSlot
  | .opened w => s.endWindow w

/-- The quiet resource is held for a ranging attempt of record `i` (R104). -/
def State.quietIsFor (s : State) (i : RecIx) : Bool :=
  let names := fun (w : Window) =>
    match w.purpose with
    | .discovery => false
    | .ranging k _ => decide (k = i)
  match s.ltu.quiet with
  | .idle => false
  | .asked w => names w
  | .given w => names w
  | .opened w => names w

/-- A discovery round is abandoned (R43): an OPEN one resets the round base cycle; one whose window had not opened ends as R33 states. -/
def State.abandonRound (s : State) : State :=
  match s.dsu.round with
  | .idle => s
  | .asking _ => { s with dsu := { s.dsu with round := .idle } }
  | .opened _ => { s with dsu := { s.dsu with round := .idle, base := s.ltu.cycle } }

/-- A ranging attempt is abandoned with its record still to range (R16, R66): the attempt record is closed uncounted and the record at
the head of the queue, if it is RANGING, returns to ASSIGNED in its place with no event (log 6). -/
def State.abandonAttempt (s : State) : State :=
  let s' := { s with rgu := { s.rgu with attempt := none } }
  match s.rgu.queue with
  | [] => s'
  | i :: _ => if (s.record i).state = .ranging then s'.moveQuietly i .assigned else s'

/-- The demander is told that its ask has ended (R100): the DSU's round returns to NONE (R33), or the RGU's attempt is abandoned (R66);
the demander empties the window-message slot if it had filled it (R133). -/
def State.askEnded (s : State) (p : Purpose) : State :=
  match p with
  | .discovery => s.emptyWindowSlot.abandonRound
  | .ranging _ _ => s.emptyWindowSlot.abandonAttempt

/-! ### The span slot map -/

/-- The span slot map replaced. -/
def State.setMap (s : State) (m : List Slot) : State := { s with ltu := { s.ltu with map := m } }

/-- The map's entry of a slot, none where the slot is free (R105). -/
def State.slotAt (s : State) (ct : Cycle) (j : Nat) : Option Slot :=
  s.ltu.map.find? (fun e => decide (e.ct = ct) && decide (e.j = j))

/-- The entry is booked for record `i` (R105). -/
def Slot.isFor (e : Slot) (i : RecIx) : Bool :=
  match e.use with
  | .booked k _ _ => decide (k = i)
  | .void => false

/-- The entry is booked under an interval identity (R105). -/
def Slot.hasIdent (e : Slot) (n : Nat) : Bool :=
  match e.use with
  | .booked _ _ m => decide (m = n)
  | .void => false

/-- Record `i` holds a booking (R106). -/
def State.holdsBooking (s : State) (i : RecIx) : Bool := s.ltu.map.any (fun e => e.isFor i)

/-- The identity of the arrival interval of a booked entry (R112). -/
def Slot.interval (e : Slot) : Option Interval :=
  match e.use with
  | .booked i o n => some (.slot n e.ct e.j i o)
  | .void => none

/-- The entry as a void (R107). -/
def Slot.voided (e : Slot) : Slot := { e with use := .void }

/-- The arm line is raised for an entry that `p` picks. -/
def State.armedAmong (s : State) (p : Slot → Bool) : Bool :=
  match s.ltu.armed with
  | none => false
  | some id => s.ltu.map.any (fun e => p e && decide (e.interval = some id))

/-- The booked entries that `p` picks become void, and the arm line drops if it is raised for one of them (R107). -/
def State.voidSlots (s : State) (p : Slot → Bool) : State :=
  let s' := s.setMap (s.ltu.map.map (fun e => if p e then e.voided else e))
  if s.armedAmong p then s'.disarm else s'

/-- The booking of record `i`, if it holds one, becomes void (R11, R107). -/
def State.voidBookingOf (s : State) (i : RecIx) : State := s.voidSlots (fun e => e.isFor i)

/-- The booking under an interval identity becomes void (R107). -/
def State.voidIdent (s : State) (n : Nat) : State := s.voidSlots (fun e => e.hasIdent n)

/-- Every booking becomes void: the port returns of R24 cancel them all (R107). -/
def State.voidAllSlots (s : State) : State := s.voidSlots (fun e => decide (e.use ≠ .void))

/-- The transmit cycles of the map (R105): with cycle number `c`, cycles c - 4 to c + 16. -/
def inExtent (c : Cycle) (e : Slot) : Bool := decide ((e.ct - (c - 4)).toNat < 21)

/-- Cycles from the current cycle to the first cycle that starts no sooner than the arrival end of an entry (R98). -/
def State.slotNeeds (s : State) (e : Slot) : Int :=
  cyclesFrom s.ltu.cycle e.ct + ((s.arrivalEnd e.j + Config.cycleBits - 1) / Config.cycleBits : Nat)

/-- The not-before cycle of an ask (R98): the smallest cycle at or after c + 2 that begins no sooner than the arrival end of every slot
that is booked or void. -/
def State.notBefore (s : State) : Cycle :=
  s.ltu.cycle + BitVec.ofInt 32 ((s.ltu.map.map s.slotNeeds).foldl max 2)

/-- The quiet state allows a slot to be booked (R106). -/
def State.quietAllows (s : State) (ct : Cycle) (j : Nat) : Bool :=
  let overlaps := fun (w : Window) =>
    let at0 : Int := (Config.cycleBits : Int) * cyclesFrom w.cq ct
    decide (at0 + s.arrivalStart j < w.length) && decide (0 < at0 + s.arrivalEnd j)
  match s.ltu.quiet with
  | .idle => true
  | .asked w => decide ((s.arrivalEnd j : Int) ≤ (Config.cycleBits : Int) * cyclesFrom ct w.notBefore)
  | .given w => !overlaps w
  | .opened w => !overlaps w

/-- A slot is usable: free, and allowed by the quiet state (R106). -/
def State.usable (s : State) (ct : Cycle) (j : Nat) : Bool := (s.slotAt ct j).isNone && s.quietAllows ct j

/-- The reply fields scanned at a fetch, in order (R106): cycle deltas ReplyLead to 15, within each the slot indices from 0. -/
def State.replyFields (s : State) : List (Nat × Nat) :=
  ((List.range (Config.lastDelta + 1)).filter (fun d => decide (s.header.replyLead.toNat ≤ d))).flatMap
    (fun d => (List.range s.header.slotCount.toNat).map (fun j => (d, j)))

/-- The reply field (d, j) of the first usable slot from the fetch of cycle `c` (R106). -/
def State.findSlot (s : State) (c : Cycle) : Option (Nat × Nat) :=
  s.replyFields.find? (fun f => s.usable (c + BitVec.ofNat 32 f.1) f.2)

/-- A slot is booked for record `i` and its owner with a fresh interval identity (R106). -/
def State.book (s : State) (ct : Cycle) (j : Nat) (i : RecIx) (o : Owner) : State :=
  { s with
    ltu := { s.ltu with
      map := s.ltu.map ++ [{ ct := ct, j := j, use := .booked i o s.ltu.nextIdent }]
      nextIdent := s.ltu.nextIdent + 1 } }

/-- A slot leaves the map: it becomes free (R108). -/
def State.freeSlot (s : State) (ct : Cycle) (j : Nat) : State :=
  s.setMap (s.ltu.map.filter (fun e => !(decide (e.ct = ct) && decide (e.j = j))))

/-- The capture queue holds an entry that names the interval (R41, R58, R108). -/
def State.captured (s : State) (id : Interval) : Bool := s.brx.queue.any (fun e => decide (e.interval = id))

end Sys2Proof.Machine
end

