-- ==== Sys2Proof/Machine/Profile.lean ====
section
/-! DEFINITION. The Profile Expander (chapter 4): images and their pre-scan, blocks and buffers, channels and the profile-wait queue. -/

namespace Sys2Proof.Machine

/-! ### Directory and images -/

/-- Channel `ch` (R80). -/
def State.chan (s : State) (ch : ChanIx) : Channel := s.pex.chans[ch]

/-- Channel `ch` replaced. -/
def State.setChan (s : State) (ch : ChanIx) (c : Channel) : State :=
  { s with pex := { s.pex with chans := s.pex.chans.set ch c } }

/-- Directory entry `p` (R75). -/
def State.dirEntry (s : State) (p : DirIx) : DirEntry := s.pex.dir[p]

/-- Directory entry `p` replaced. -/
def State.setDir (s : State) (p : DirIx) (e : DirEntry) : State :=
  { s with pex := { s.pex with dir := s.pex.dir.set p e } }

/-- The window offset after the last byte of an entry's image (R75). -/
def DirEntry.past (e : DirEntry) : Nat := e.offset.toNat + e.length.toNat

/-- The image range lies wholly within window offsets 0x3400..0xFFFF (R78). -/
def DirEntry.inImageArea (e : DirEntry) : Bool := decide (13312 ≤ e.offset.toNat) && decide (e.past ≤ 65536)

/-- The window word that holds the byte at a window offset. -/
def wordOfOffset (x : Nat) : WinWord := BitVec.ofNat 14 (x / 4)

/-- The bytes of a word from the one at window offset `x` on. -/
def bytesFrom (w : Word) (x : Nat) : List Byte :=
  [byteOf w 0, byteOf w 1, byteOf w 2, byteOf w 3].drop (x % 4)

/-- A tag byte opens a literal run (R77). -/
def isLiteralTag (b : Byte) : Bool := decide (b.toNat < 128)

/-- The bytes the item of a tag byte expands to (R77). -/
def tagCount (b : Byte) : Nat := if isLiteralTag b then b.toNat + 1 else b.toNat - 128 + 2

/-- The item a tag byte opens (R77). -/
def tagItem (b : Byte) : ImageItem := if isLiteralTag b then .literal (tagCount b) else .awaitValue (tagCount b)

/-- The bytes that follow a tag byte in its item (R77). -/
def tagFollows (b : Byte) : Nat := if isLiteralTag b then tagCount b else 1

/-- A literal run after one of its bytes. -/
def literalNext (left : Nat) : ImageItem := if left ≤ 1 then .idle else .literal (left - 1)

/-- One image byte of a pre-scan (R78), none where the image is malformed: its item runs past the end, or the expanded length exceeds
4,096. `past` is the offset after the image. -/
def Channel.scanByte (past : Nat) (c : Channel) (b : Byte) : Option Channel :=
  match c.item with
  | .idle =>
    if past < c.pos + 1 + tagFollows b then none
    else if Config.imageLimit < c.scanLen + tagCount b then none
    else some { c with pos := c.pos + 1, item := tagItem b, scanLen := c.scanLen + tagCount b }
  | .literal left =>
    some { c with pos := c.pos + 1, item := literalNext left, scanSum := (c.scanSum + b.toNat) % 65536 }
  | .awaitValue n => some { c with pos := c.pos + 1, item := .idle, scanSum := (c.scanSum + n * b.toNat) % 65536 }
  | .repeating _ _ => none

/-- The bytes of one word pre-scanned in order, up to the end of the image (R78). -/
def Channel.scanBytes (past : Nat) : Channel → List Byte → Option Channel
  | c, [] => some c
  | c, b :: bs =>
    if past ≤ c.pos then some c
    else
      match c.scanByte past b with
      | none => none
      | some c' => Channel.scanBytes past c' bs

/-! ### Buffers -/

/-- The buffer of block `k`: A when k is even, B when k is odd (R80). -/
def Channel.buffer (c : Channel) (k : Nat) : Buffer := if k % 2 = 0 then c.bufA else c.bufB

/-- The buffer of block `k` replaced. -/
def Channel.setBuffer (c : Channel) (k : Nat) (b : Buffer) : Channel :=
  if k % 2 = 0 then { c with bufA := b } else { c with bufB := b }

/-- The number of blocks of an expanded length (R79). -/
def blockCount (len : Nat) : Nat := (len + 15) / 16

/-- Block `k` cut (R79, R83): padded with zero bytes to 16, with the last flag; its buffer is FULL and the next block is k + 1. -/
def Channel.cut (c : Channel) (k : Nat) (bytes : List Byte) : Channel :=
  { c.setBuffer k (.full k (decide (k + 1 = c.blocks)) (bytes ++ List.replicate (16 - bytes.length) 0)) with next := k + 1 }

/-- A byte expanded into the buffer being filled. -/
def Channel.emit (c : Channel) (bytes : List Byte) (b : Byte) (item : ImageItem) : Channel :=
  { c.setBuffer c.next (.filling (bytes ++ [b])) with item := item }

/-- What one step of the expander does: stop (wanting the word of the next image byte or not), or go on. -/
inductive FillStep where
  | stop (c : Channel) (wants : Bool)
  | go (c : Channel) (bytes : List Byte)
  deriving DecidableEq, Repr

/-- One step of the expander filling buffers (R83), with the image bytes at hand: a buffer that is EMPTY begins to fill while a block
remains to be cut; one that holds 16 bytes, or the last of the image, becomes FULL; else the item in progress gives a byte. -/
def Channel.fillStep (past : Nat) (c : Channel) (bytes : List Byte) : FillStep :=
  match c.buffer c.next with
  | .full _ _ _ => .stop c false
  | .empty => if c.next < c.blocks then .go (c.setBuffer c.next (.filling [])) bytes else .stop c false
  | .filling bs =>
    if 16 ≤ bs.length then .go (c.cut c.next bs) bytes
    else
      match c.item with
      | .repeating v left => .go (c.emit bs v (if left ≤ 1 then .idle else .repeating v (left - 1))) bytes
      | .literal left =>
        match bytes with
        | [] => .stop c true
        | b :: rest => .go { c.emit bs b (literalNext left) with pos := c.pos + 1 } rest
      | .awaitValue n =>
        match bytes with
        | [] => .stop c true
        | b :: rest => .go { c with pos := c.pos + 1, item := .repeating b n } rest
      | .idle =>
        if past ≤ c.pos then .go (c.cut c.next bs) bytes
        else
          match bytes with
          | [] => .stop c true
          | b :: rest => .go { c with pos := c.pos + 1, item := tagItem b } rest

/-- The expander runs until it stops. Between two stops it fills at most two buffers from at most four image bytes, well within 64 steps. -/
def Channel.fill (past : Nat) : Nat → Channel → List Byte → Channel × Bool
  | 0, c, _ => (c, false)
  | fuel + 1, c, bytes =>
    match c.fillStep past bytes with
    | .stop c' wants => (c', wants)
    | .go c' rest => Channel.fill past fuel c' rest

/-- A buffer is FULL. -/
def Buffer.isFull : Buffer → Bool
  | .full _ _ _ => true
  | .empty => false
  | .filling _ => false

/-- A FILLING channel whose current block's buffer is FULL becomes READY (R83). -/
def Channel.turnReady (c : Channel) : Channel :=
  if c.stage = .filling ∧ (c.buffer c.current).isFull then { c with stage := .ready } else c

/-- The 16 bytes and the last flag of the current block (R84). -/
def Channel.currentBlock (c : Channel) : List Byte × Bool :=
  match c.buffer c.current with
  | .full _ last bytes => (bytes, last)
  | .empty => ([], false)
  | .filling _ => ([], false)

/-! ### Requests -/

/-- A channel's inserted read (R148). -/
def State.chanRequest (s : State) (ch : ChanIx) : Option ReadRequest := s.bpt.chanRequests[ch]

/-- A channel's inserted read replaced. -/
def State.setRequest (s : State) (ch : ChanIx) (r : Option ReadRequest) : State :=
  { s with bpt := { s.bpt with chanRequests := s.bpt.chanRequests.set ch r } }

/-- A channel places the read of the word at its position (R83), unless its previous request still waits (R148). -/
def State.placeRead (s : State) (ch : ChanIx) : State :=
  match s.chanRequest ch with
  | none => s.setRequest ch (some { word := wordOfOffset (s.chan ch).pos, dropped := false })
  | some _ => s

/-- A read already queued for work that has ended is still served, and its data is discarded (R90). -/
def State.dropRead (s : State) (ch : ChanIx) : State :=
  match s.chanRequest ch with
  | none => s
  | some r => s.setRequest ch (some { r with dropped := true })

/-! ### Channels -/

/-- A record appended to the back of the reply-bearing list (R136). -/
def State.appendReply (s : State) (i : RecIx) (k : ReplyKind) : State :=
  { s with dsq := { s.dsq with reply := s.dsq.reply ++ [{ index := i, kind := k }] } }

/-- The channel that serves record `i`, if one does (R80). -/
def State.channelOf (s : State) (i : RecIx) : Option ChanIx :=
  allChannels.find? (fun ch => decide ((s.chan ch).stage ≠ .free) && decide ((s.chan ch).index = i))

/-- The channel SENT under an interval identity, if there is one (R86). -/
def State.channelSent (s : State) (n : Nat) : Option ChanIx :=
  allChannels.find? (fun ch =>
    match (s.chan ch).stage with
    | .sent _ _ m => decide (m = n)
    | _ => false)

/-- The channel uses directory entry `p` (R76): from its grant until it is freed (log 13). -/
def Channel.uses (c : Channel) (p : DirIx) : Bool := decide (c.stage ≠ .free) && decide (c.dir = p)

/-- Directory entry `p` is in use (R76). -/
def State.dirInUse (s : State) (p : DirIx) : Bool := allChannels.any (fun ch => (s.chan ch).uses p)

/-- The push of a channel ends: its outcome is on its way to the RTB (R78, R87, R89; log 12). -/
def State.reportPush (s : State) (ch : ChanIx) (o : PushOutcome) : State :=
  let s' := s.setChan ch { s.chan ch with stage := .reported o }
  { s' with pex := { s'.pex with reports := s'.pex.reports ++ [{ index := (s.chan ch).index, chan := ch }] } }

/-- The expander of a channel runs with the image bytes at hand (R83): a channel that becomes READY queues its PROFILE-BLOCK (R84), and
one that wants a byte places its read. R83 does not say what becomes of the bytes of a served word that are left over when no buffer is
filling: that they are dropped, and their word read again at the refill, is the model's choice (DESIGN CHOICE, log 45). -/
def State.runFill (s : State) (ch : ChanIx) (bytes : List Byte) : State :=
  let c := s.chan ch
  let out := c.fill (s.dirEntry c.dir).past 64 bytes
  let c' := out.1.turnReady
  let s1 := s.setChan ch c'
  let s2 := if c.stage ≠ .ready ∧ c'.stage = .ready then s1.appendReply c'.index .profileBlock else s1
  if out.2 then s2.placeRead ch else s2

/-- A pre-scan finds the image good (R78): the live half is stored and the record told; a push with no block is complete (R89), any
other begins to fill buffer A with block 0 (R83). -/
def State.scanGood (s : State) (ch : ChanIx) : State :=
  let c := s.chan ch
  let e := s.dirEntry c.dir
  let n := blockCount c.scanLen
  let s1 := s.setDir c.dir { e with expanded := c.scanLen, sum := c.scanSum }
  let s2 := s1.onRecord c.index (fun r => { r with blocksTotal := n, blocksAcked := 0 })
  if n = 0 then s2.reportPush ch .complete
  else
    (s2.setChan ch
      { c with
        stage := .filling, blocks := n, current := 0, retries := 0, bufA := .empty, bufB := .empty
        pos := e.offset.toNat, item := .idle, next := 0 }).runFill ch []

/-- A channel pre-scans its entry from the first byte (R78, R91): an entry of compressed length 0 is good without a read, a range outside
the image area is malformed and not read. -/
def State.startScan (s : State) (ch : ChanIx) : State :=
  let c := s.chan ch
  let e := s.dirEntry c.dir
  let s1 := s.setChan ch
    { c with
      stage := .scanning, blocks := 0, current := 0, retries := 0, bufA := .empty, bufB := .empty
      pos := e.offset.toNat, item := .idle, next := 0, scanLen := 0, scanSum := 0 }
  if e.length = 0 then s1.scanGood ch
  else if e.inImageArea then s1.placeRead ch
  else s1.reportPush ch .imageFailed

/-- The directory entry a record's profile index names (R78); a record granted a channel has an index of 0..15 (R18). -/
def profileDir (b : Byte) : DirIx := ⟨b.toNat % 16, Nat.mod_lt _ (by decide)⟩

/-- A channel is given to record `i` and pre-scans its entry (R78, R81). -/
def State.grantChannel (s : State) (ch : ChanIx) (i : RecIx) : State :=
  (s.setChan ch { Channel.reset with stage := .scanning, index := i, dir := profileDir (s.record i).profileIx }).startScan ch

/-- A channel becomes FREE; its buffers and expansion state are discarded (R82, R90). -/
def State.freeChannel (s : State) (ch : ChanIx) : State := (s.setChan ch Channel.reset).dropRead ch

/-- A freed channel goes to the record at the head of the profile-wait queue, which enters PROFILING with reason CHANNEL (R19, R81). -/
def State.grantWaiting (s : State) (ch : ChanIx) : State :=
  match s.pex.waiting with
  | [] => s
  | i :: rest =>
    ((({ s with pex := { s.pex with waiting := rest } } : State).enter i .profiling .channel)).grantChannel ch i

/-- The lowest-numbered FREE channel (R81). -/
def State.freeChan (s : State) : Option ChanIx := allChannels.find? (fun ch => decide ((s.chan ch).stage = .free))

/-- The block of a channel is offered again: READY, its record at the back of the reply-bearing list (R87, R88). -/
def State.offerAgain (s : State) (ch : ChanIx) : State :=
  (s.setChan ch { s.chan ch with stage := .ready }).appendReply (s.chan ch).index .profileBlock

/-- The current block has a negative outcome (R87): it is sent again, or the push fails when its retries reach BlockRetries. -/
def State.negativeOutcome (s : State) (ch : ChanIx) : State :=
  let c := s.chan ch
  let s1 := s.setChan ch { c with retries := c.retries + 1 }
  if c.retries + 1 < s.header.blockRetries.toNat then
    (s1.onRecord c.index (fun r => { r with retriesTotal := satInc Config.counterMax r.retriesTotal })).offerAgain ch
  else s1.reportPush ch .profileFailed

/-- The current block is acknowledged (R86): the push is complete with the last block (R89); otherwise the next block becomes the current
one with retries 0 and the released buffer begins to fill (R83). -/
def State.ackBlock (s : State) (ch : ChanIx) : State :=
  let c := s.chan ch
  let s1 := s.onRecord c.index (fun r => { r with blocksAcked := r.blocksAcked + 1 })
  if c.blocks ≤ c.current + 1 then s1.reportPush ch .complete
  else
    (s1.setChan ch { c.setBuffer c.current .empty with stage := .filling, current := c.current + 1, retries := 0 }).runFill ch []

/-- The data of a served image read reaches its channel (R83): the pre-scan while SCANNING, the buffer being filled otherwise. That a channel
whose push has failed goes on filling until its PROFILE_OUTCOME frees it is the model's choice (DESIGN CHOICE, log 44). -/
def State.deliver (s : State) (ch : ChanIx) (data : Word) : State :=
  let c := s.chan ch
  let e := s.dirEntry c.dir
  if c.stage = .scanning then
    match c.scanBytes e.past (bytesFrom data c.pos) with
    | none => s.reportPush ch .imageFailed
    | some c' => if e.past ≤ c'.pos then (s.setChan ch c').scanGood ch else (s.setChan ch c').placeRead ch
  else s.runFill ch (bytesFrom data c.pos)

/-- After a discarded read has been served, a channel at work places the read it wants (R90, R148). -/
def State.resume (s : State) (ch : ChanIx) : State :=
  match (s.chan ch).stage with
  | .free => s
  | .reported _ => s
  | .scanning => s.placeRead ch
  | .filling => s.runFill ch []
  | .ready => s.runFill ch []
  | .sent _ _ _ => s.runFill ch []

/-- A channel restarts for an image write (R91): IMAGE event, its PROFILE-BLOCK removed or its booking voided, its buffers discarded, the
record's blocks acked 0, and a new pre-scan. -/
def State.restartChannel (s : State) (ch : ChanIx) : State :=
  let c := s.chan ch
  let s1 := s.raise
    { kind := .image, index := indexByte c.index, detail0 := BitVec.ofNat 8 c.dir.val, detail1 := 0, value := (s.record c.index).tag }
  let s2 : State := { s1 with dsq := { s1.dsq with
    reply := s1.dsq.reply.filter (fun e => !(decide (e.index = c.index) && decide (e.kind = .profileBlock))) } }
  let s3 :=
    match c.stage with
    | .sent _ _ n => s2.voidIdent n
    | _ => s2
  let s4 := s3.onRecord c.index (fun r => { r with blocksAcked := 0 })
  (s4.dropRead ch).startScan ch

/-- A write enables a byte of the image range of directory entry `e` (R91). `w` is the window word written. -/
def DirEntry.touchedBy (e : DirEntry) (w : WinWord) (be : Enables) : Bool :=
  [0, 1, 2, 3].any (fun k =>
    be.getLsbD k && decide (e.offset.toNat ≤ 4 * w.toNat + k) && decide (4 * w.toNat + k < e.past))

/-- A processor write into the image area (R91): each channel that uses an entry whose image range it touches restarts, in channel index
order. -/
def State.imageTouched (s : State) (w : WinWord) (be : Enables) : State :=
  allChannels.foldl
    (fun t ch => if (t.chan ch).uses (t.chan ch).dir && (t.dirEntry (t.chan ch).dir).touchedBy w be then t.restartChannel ch else t) s

/-- Every channel FREE and the profile-wait queue empty (R81): the port events of R24; channels freed so are not granted. -/
def State.clearPex (s : State) : State :=
  let s' := allChannels.foldl (fun t ch => t.freeChannel ch) s
  { s' with pex := { s'.pex with waiting := [] } }

end Sys2Proof.Machine
end

