-- ==== Sys2Proof/Machine/Activation.lean ====
section
/-! DEFINITION. The Record Table (chapter 1): abandonment and release (R11, R12), intents (R7 to R10), the entry into SETTLING (R18), the return of the port events (R24), application of stored intents (R26). -/

namespace Sys2Proof.Machine

/-! ### Collections -/

/-- The settle state of record `i` (R67). -/
def State.settle (s : State) (i : RecIx) : Option Settle := s.rgu.settles[i]

/-- The settle state of record `i` replaced. -/
def State.setSettle (s : State) (i : RecIx) (x : Option Settle) : State :=
  { s with rgu := { s.rgu with settles := s.rgu.settles.set i x } }

/-- Record `i` joins the back of the ranging queue (R52). -/
def State.joinRanging (s : State) (i : RecIx) : State := { s with rgu := { s.rgu with queue := s.rgu.queue ++ [i] } }

/-- Record `i` leaves the ranging queue (R52). -/
def State.leaveRanging (s : State) (i : RecIx) : State :=
  { s with rgu := { s.rgu with queue := s.rgu.queue.filter (fun k => decide (k ≠ i)) } }

/-- Record `i` joins the back of the control list with a pending kind (R135). -/
def State.appendControl (s : State) (i : RecIx) (k : ControlKind) : State :=
  { s with dsq := { s.dsq with control := s.dsq.control ++ [{ index := i, kind := k }] } }

/-- Record `i` joins the back of the urgent list (R134). -/
def State.appendUrgent (s : State) (i : RecIx) : State := { s with dsq := { s.dsq with urgent := s.dsq.urgent ++ [i] } }

/-- A PARK is queued, or dropped and counted when 16 wait (R39). -/
def State.queuePark (s : State) (serial : Serial) (rounds : Byte) : State :=
  if s.dsu.parks.length < Config.parkPlaces then
    { s with dsu := { s.dsu with parks := s.dsu.parks ++ [{ serial := serial, rounds := rounds }] } }
  else s.count .parkDrops

/-- The stranger entry of a serial leaves the list (R45). -/
def State.unlist (s : State) (serial : Serial) : State :=
  { s with dsu := { s.dsu with strangers := s.dsu.strangers.filter (fun e => decide (e.serial ≠ serial)) } }

/-! ### Abandonment -/

/-- The DSQ removes every queued message of record `i`, its RANGE-ASK in the window-message slot with them (R11); the urgent list is kept. -/
def State.dropMessages (s : State) (i : RecIx) : State :=
  { s with dsq := { s.dsq with
    control := s.dsq.control.filter (fun e => decide (e.index ≠ i))
    reply := s.dsq.reply.filter (fun e => decide (e.index ≠ i))
    window :=
      match s.dsq.window with
      | some ⟨_, .rangeAsk k _⟩ => if k = i then none else s.dsq.window
      | other => other } }

/-- The attempt record is closed if it is that of record `i` (R66). -/
def State.closeAttemptOf (s : State) (i : RecIx) : State :=
  match s.rgu.attempt with
  | none => s
  | some a => if a.index = i then { s with rgu := { s.rgu with attempt := none } } else s

/-- The RGU and the LTU give up what they do for record `i` (R11): it leaves the ranging queue, its settle state and attempt are
discarded, and the quiet resource ends if it is held for it (R104). -/
def State.dropRanging (s : State) (i : RecIx) : State :=
  let s1 := ((s.leaveRanging i).setSettle i none).closeAttemptOf i
  if s1.quietIsFor i then s1.endQuiet else s1

/-- Record `i` leaves the profile-wait queue, and a channel it holds is freed and goes to the head of that queue (R11, R81, R90). -/
def State.dropPush (s : State) (i : RecIx) : State :=
  let s1 : State := { s with pex := { s.pex with waiting := s.pex.waiting.filter (fun k => decide (k ≠ i)) } }
  match s1.channelOf i with
  | none => s1
  | some ch => (s1.freeChannel ch).grantWaiting ch

/-- The work in flight for record `i` is abandoned by every block, as R11 lists. -/
def State.abandonWork (s : State) (i : RecIx) : State :=
  (((s.dropMessages i).dropRanging i).voidBookingOf i).dropPush i

/-- Record `i` enters RELEASING with a destination, and a failure reason where a failure is the cause (R11); its RELEASE joins the
urgent list (R134). -/
def State.release (s : State) (i : RecIx) (d : RelDest) (why : ChangeReason) (f : Option FailReason) : State :=
  let s1 := s.onRecord i (fun r => { r with dest := d, reason := f.getD r.reason })
  ((s1.enter i .releasing why).abandonWork i).appendUrgent i

/-- A failure reported for record `i`: RELEASING with destination FAILED (R11). -/
def State.fail (s : State) (i : RecIx) (f : FailReason) : State := s.release i .failed .failure (some f)

/-- Record `i` enters EMPTY (R10): every live field returns to its reset value. -/
def State.enterEmpty (s : State) (i : RecIx) (why : ChangeReason) : State :=
  (s.onRecord i (fun r => { r.clearLive with lastChange := s.ltu.cycle })).raiseRecord i why

/-! ### Intents -/

/-- An admission acted on in EMPTY, HELD or FAILED (R9). -/
def State.admission (s : State) (i : RecIx) : State :=
  match s.liveHolder (s.record i).serial with
  | some k =>
    s.raise { kind := .admitRefused, index := indexByte i, detail0 := indexByte k, detail1 := 0, value := (s.record i).tag }
  | none =>
    let s1 := (s.onRecord i Record.clearActivation).enter i .awaiting .intent
    let s2 := s1.unlist (s.record i).serial
    if s.header.parkRounds = 0 then s2 else s2.queuePark (s.record i).serial 0

/-- The release destination of a RELEASING record changes with no event (R12). -/
def State.redirect (s : State) (i : RecIx) (d : RelDest) : State := s.onRecord i (fun r => { r with dest := d })

/-- An ADMIT intent acted on (R8). -/
def State.actAdmit (s : State) (i : RecIx) : State :=
  match (s.record i).state with
  | .empty => s.admission i
  | .held => s.admission i
  | .failed => s.admission i
  | .releasing => s.redirect i .awaiting
  | .awaiting => s
  | .assigned => s
  | .ranging => s
  | .equalized => s
  | .profiling => s
  | .settling => s
  | .committing => s
  | .inService => s

/-- A HOLD intent acted on (R8). -/
def State.actHold (s : State) (i : RecIx) : State :=
  match (s.record i).state with
  | .empty => s.enter i .held .intent
  | .awaiting => s.enter i .held .intent
  | .failed => s.enter i .held .intent
  | .held => s
  | .releasing => s.redirect i .held
  | .assigned => s.release i .held .intent none
  | .ranging => s.release i .held .intent none
  | .equalized => s.release i .held .intent none
  | .profiling => s.release i .held .intent none
  | .settling => s.release i .held .intent none
  | .committing => s.release i .held .intent none
  | .inService => s.release i .held .intent none

/-- A VACANT intent acted on (R8). -/
def State.actVacant (s : State) (i : RecIx) : State :=
  match (s.record i).state with
  | .empty => s
  | .awaiting => s.enterEmpty i .intent
  | .held => s.enterEmpty i .intent
  | .failed => s.enterEmpty i .intent
  | .releasing => s.redirect i .empty
  | .assigned => s.release i .empty .intent none
  | .ranging => s.release i .empty .intent none
  | .equalized => s.release i .empty .intent none
  | .profiling => s.release i .empty .intent none
  | .settling => s.release i .empty .intent none
  | .committing => s.release i .empty .intent none
  | .inService => s.release i .empty .intent none

/-- The window offset of record `i` (R1); its intent word stands there. -/
def recordOffset (i : RecIx) : Nat := 1024 + 64 * i.val

/-- The stored intent of record `i` is acted on (R7): VACANT 0, ADMIT 1, HOLD 2; any other value raises DISCARD with reason BAD_INTENT and
acts as HOLD. -/
def State.actIntent (s : State) (i : RecIx) : State :=
  if (s.record i).intent = 0 then s.actVacant i
  else if (s.record i).intent = 1 then s.actAdmit i
  else if (s.record i).intent = 2 then s.actHold i
  else (s.discard (indexByte i) .badIntent (recordOffset i)).actHold i

/-- Every record's stored intent is acted on, in index order (R26). -/
def State.actAllIntents (s : State) : State := allRecords.foldl (fun t i => t.actIntent i) s

/-! ### Settling and the port events -/

/-- Record `i` enters SETTLING (R18, R67): trim flags cleared, a fresh settle state, its CONFIRM-ASK queued. -/
def State.enterSettling (s : State) (i : RecIx) (why : ChangeReason) : State :=
  let s1 := (s.onRecord i (fun r => { r with trimSent := false, trimClamped := false })).enter i .settling why
  (s1.setSettle i (some { found := 0, missed := 0, sum := 0, stage := .queued, report := none })).appendReply i .confirmAsk

/-- What the return to AWAITING by a port event does to a record's fields (R24). -/
def Record.portReturn (r : Record) : Record :=
  { r with
    line := 0, assignTaken := false, eqValid := false, profileDelivered := false, rangeUsed := 0, blocksAcked := 0 }

/-- Record `i` returns to AWAITING if it is in activation (R24); its work has been ended. -/
def State.returnRecord (s : State) (i : RecIx) : State :=
  if (s.record i).state.inActivation then (s.onRecord i Record.portReturn).enter i .awaiting .port else s

/-- Every block ends its activation work at the start of DRAINING, at entry into HALTED and at LINE-DOWN (R163, R96): the quiet resource
(R104), the round and the demand for one (R32, R43, R49), the lists and queues (R48, R50, R81, R137), and the bookings, which become voids
(R107). -/
def State.endAllWork (s : State) : State :=
  let s1 := s.endQuiet.abandonRound.voidAllSlots.clearPex
  { s1 with
    dsq := { s1.dsq with control := [], reply := [], window := none }
    dsu := { s1.dsu with parks := [], demand := false }
    rgu := { s1.rgu with queue := [], attempt := none, settles := Vector.replicate 128 none } }

/-- The port events of R24: all activation work ends, and every in-activation record returns to AWAITING in index order. -/
def State.portReturn (s : State) : State := allRecords.foldl (fun t i => t.returnRecord i) s.endAllWork

end Sys2Proof.Machine
end

