-- ==== Sys2Proof/Machine/Discovery.lean ====
section
/-! DEFINITION. The Discovery Unit (chapter 2): rounds and demand (R31, R32), HELLOs and what they match (R35 to R40), reappearance and sightings (R14, R22, R23), the end of a round (R41, R42), the stranger list and its pop reads (R44 to R47). -/

namespace Sys2Proof.Machine

/-! ### Demand -/

/-- A round is due (R31). -/
def State.roundDue (s : State) : Bool := decide (s.header.discoveryPeriod.toNat ≤ (s.ltu.cycle - s.dsu.base).toNat)

/-- A round is wanted (R31). -/
def State.roundWanted (s : State) : Bool :=
  allRecords.any (fun i => decide ((s.record i).state = .awaiting)) || isOn s.header.openDiscovery

/-- Discovery demand is present (R32). -/
def State.discoveryDemand (s : State) : Bool :=
  decide (s.pct.port = .running) && s.ltu.lineUp && decide (s.dsu.round = .idle) && s.roundDue && s.roundWanted

/-- The DSU presents its demand to the LTU (R32; log 19). -/
def State.presentDemand (s : State) : State := { s with dsu := { s.dsu with demand := s.discoveryDemand } }

/-! ### Captures -/

/-- The oldest capture that belongs to an owner (R123). -/
def State.oldestCapture (s : State) (mine : Capture → Bool) : Option Capture := s.brx.queue.find? mine

/-- An owner takes its oldest capture: it leaves the queue and the entries behind it close up (R123). -/
def State.takeCapture (s : State) (c : Capture) : State := { s with brx := { s.brx with queue := s.brx.queue.erase c } }

/-- A HELLO belongs to the DSU (R123). -/
def Capture.isHello (c : Capture) : Bool := decide (c.kind = .hello)

/-- The serial of a HELLO (11.9). -/
def Capture.serial (c : Capture) : Serial := BitVec.ofNat 64 (natLE (c.payload.take 8))

/-- The declared response time of a HELLO (11.9). -/
def helloResp (payload : List Byte) : Nat := natLE ((payload.drop 8).take 2)

/-- The slot field of a HELLO (11.9). -/
def Capture.slotField (c : Capture) : Nat := (byteAt c.payload 10).toNat

/-! ### The round's window record -/

/-- The round state replaced. -/
def State.setRound (s : State) (r : Round) : State := { s with dsu := { s.dsu with round := r } }

/-- The window's garbled mark set, if the window named is still open in the DSU (R34, R119). -/
def State.markGarbled (s : State) (id : Interval) : State :=
  match s.dsu.round with
  | .opened w => if id = .discovery w.ref then s.setRound (.opened { w with garbled := true }) else s
  | .idle => s
  | .asking _ => s

/-! ### Strangers -/

/-- A maker-code filter matches (R40). -/
def makerMatches (on : Byte) (value mask : Word) (maker : Word) : Bool := isOn on && decide (maker &&& mask = value &&& mask)

/-- The maker test (R40). -/
def Header.makerPasses (h : Header) (maker : Word) : Bool :=
  (!isOn h.filterAOn && !isOn h.filterBOn) || makerMatches h.filterAOn h.filterAValue h.filterAMask maker
    || makerMatches h.filterBOn h.filterBValue h.filterBMask maker

/-- The range test (R40); a stored mode of 3..255 is off (R166). -/
def Header.rangePasses (h : Header) (unit : Word) : Bool :=
  if h.rangeMode = 1 then decide (h.rangeLower.toNat ≤ unit.toNat) && decide (unit.toNat ≤ h.rangeUpper.toNat)
  else if h.rangeMode = 2 then decide (unit.toNat < h.rangeLower.toNat) || decide (h.rangeUpper.toNat < unit.toNat)
  else true

/-- A serial passes the stranger filters (R40). -/
def Header.filtersPass (h : Header) (serial : Serial) : Bool :=
  h.makerPasses (serial.extractLsb' 32 32) && h.rangePasses (serial.extractLsb' 0 32)

/-- The low 32 bits of a serial as an event value. -/
def serialLow (x : Serial) : Word := x.extractLsb' 0 32

/-- The stranger list replaced. -/
def State.setStrangers (s : State) (l : List Stranger) : State := { s with dsu := { s.dsu with strangers := l } }

/-- A listed stranger seen again (R38): it keeps its place and its first-seen cycle. -/
def Stranger.seenAgain (e : Stranger) (conv : Conv) (resp : Nat) (now : Cycle) : Stranger :=
  { e with count := satInc 255 e.count, last := now, conv := conv, resp := resp }

/-- A stranger's sighting listed, updated, dropped or filtered (R38, R44). -/
def State.listStranger (s : State) (serial : Serial) (conv : Conv) (resp : Nat) : State :=
  if isOn s.header.openDiscovery && s.header.filtersPass serial then
    if s.dsu.strangers.any (fun e => decide (e.serial = serial)) then
      s.setStrangers (s.dsu.strangers.map
        (fun e => if e.serial = serial then e.seenAgain conv resp s.ltu.cycle else e))
    else if s.dsu.strangers.length < Config.strangerPlaces then
      let s1 := s.setStrangers (s.dsu.strangers ++
        [{ serial := serial, conv := conv, resp := resp, first := s.ltu.cycle, last := s.ltu.cycle, count := 1 }])
      s1.raise
        { kind := .stranger, index := noIndex, detail0 := BitVec.ofNat 8 s1.dsu.strangers.length, detail1 := 0
          value := serialLow serial }
    else s.count .strangersDropped
  else s.count .strangersFiltered

/-- A PARK carrying the serial and ParkRounds is queued if ParkRounds is above 0 (R37, R38). -/
def State.parkSerial (s : State) (serial : Serial) : State :=
  if s.header.parkRounds = 0 then s else s.queuePark serial s.header.parkRounds

/-! ### What a HELLO matches -/

/-- A sighting: sightings +1 and the cycle of last HELLO (R14, R22, R23). -/
def Record.sighted (r : Record) (now : Cycle) : Record := { r with sightings := satInc 255 r.sightings, lastHello := now }

/-- What a reappearance changes in the record's fields (R22), the state and the sighting apart. -/
def Record.reappeared (r : Record) (conv : Conv) (resp : Nat) : Record :=
  { r with
    restarts := satInc 255 r.restarts, assignTaken := false, eqValid := false, profileDelivered := false
    line := 0, blocksAcked := 0, conv := conv, resp := resp }

/-- Record `i` reappears (R22): its work is abandoned, REAPPEAR is raised, and it is ASSIGNED anew. -/
def State.reappear (s : State) (i : RecIx) (conv : Conv) (resp : Nat) : State :=
  let was := (s.record i).state
  let s1 := s.abandonWork i
  let s2 := s1.raise
    { kind := .reappear, index := indexByte i, detail0 := actCode was, detail1 := 0, value := (s.record i).tag }
  let s3 := (s2.onRecord i (fun r => r.reappeared conv resp)).enter i .assigned .reappear
  s3.appendControl i .assign

/-- A HELLO matched to live record `i` (R14, R22). -/
def State.helloLive (s : State) (i : RecIx) (conv : Conv) (resp : Nat) : State :=
  let s1 := s.onRecord i (fun r => r.sighted s.ltu.cycle)
  match (s.record i).state with
  | .awaiting =>
    ((s1.onRecord i (fun r => { r with conv := conv, resp := resp })).enter i .assigned .hello).appendControl i .assign
  | .assigned => if (s.record i).assignTaken then s1.reappear i conv resp else s1
  | .releasing => s1
  | .ranging => s1.reappear i conv resp
  | .equalized => s1.reappear i conv resp
  | .profiling => s1.reappear i conv resp
  | .settling => s1.reappear i conv resp
  | .committing => s1.reappear i conv resp
  | .inService => s1.reappear i conv resp
  | .empty => s1
  | .held => s1
  | .failed => s1

/-- The lowest-indexed HELD or FAILED record that holds the serial (R23). -/
def State.stoppedHolder (s : State) (serial : Serial) : Option RecIx :=
  allRecords.find? (fun k =>
    (decide ((s.record k).state = .held) || decide ((s.record k).state = .failed)) && decide ((s.record k).serial = serial))

/-- A HELLO matched by the first case that applies (R37): a live record, a stopped record, or a stranger. -/
def State.matchHello (s : State) (serial : Serial) (conv : Conv) (resp : Nat) : State :=
  match s.liveHolder serial with
  | some i => s.helloLive i conv resp
  | none =>
    match s.stoppedHolder serial with
    | some i =>
      (s.onRecord i (fun r => { r.sighted s.ltu.cycle with seenWhileHeld := true })).parkSerial serial
    | none => (s.listStranger serial conv resp).parkSerial serial

/-- A duplicate in the window (R36): DUPLICATE is raised once for its serial. -/
def State.duplicateHello (s : State) (w : DiscWindow) (e : Seen) : State :=
  if e.reported then s
  else
    let idx := match s.liveHolder e.serial with
      | some i => indexByte i
      | none => noIndex
    (s.setRound (.opened { w with
      seen := w.seen.map (fun x => if x.serial = e.serial then { x with reported := true } else x) })).raise
      { kind := .duplicate, index := idx, detail0 := 0, detail1 := 0, value := serialLow e.serial }

/-- A HELLO of the open window (R35, R36): the spread, then the seen list, then the records. -/
def State.helloInWindow (s : State) (w : DiscWindow) (c : Capture) : State :=
  if w.spread ≤ c.slotField then s.count .strayBursts
  else
    let w1 := { w with valid := w.valid + 1 }
    let s1 := (s.setRound (.opened w1)).count .validHellos
    match w.seen.find? (fun x => decide (x.serial = c.serial)) with
    | some e => s1.duplicateHello w1 e
    | none =>
      let s2 :=
        if w.seen.length < Config.seenPlaces then
          s1.setRound (.opened { w1 with seen := w1.seen ++ [{ serial := c.serial, reported := false }] })
        else s1
      s2.matchHello c.serial c.conv (helloResp c.payload)

/-- The DSU takes a HELLO (R35, R43): one whose identity names the open window is handled; any other is discarded uncounted. -/
def State.handleHello (s : State) (c : Capture) : State :=
  match s.dsu.round with
  | .opened w => if c.interval = .discovery w.ref then s.helloInWindow w c else s
  | .idle => s
  | .asking _ => s

/-! ### The end of a round -/

/-- The spread exponent lowered by 1, but not below SpreadMin (R42). -/
def State.narrow (s : State) : Nat := max (s.dsu.exponent - 1) s.header.spreadMin.toNat

/-- The exponent of the next round (R42). -/
def State.adapted (s : State) (w : DiscWindow) : Nat :=
  if w.garbled then min (s.dsu.exponent + 1) s.header.spreadMax.toNat
  else if w.valid = 0 then s.narrow
  else if 4 * w.valid ≤ w.spread then s.narrow
  else s.dsu.exponent

/-- The counter of a window's class (R41). -/
def DiscWindow.classCounter (w : DiscWindow) : CounterId :=
  if w.garbled then .windowsGarbled else if 1 ≤ w.valid then .windowsClean else .windowsSilent

/-- A completed round (R41): classification, adaptation (R42), timer, release. -/
def State.completeRound (s : State) (w : DiscWindow) : State :=
  let s1 := s.count w.classCounter
  { s1 with dsu := { s1.dsu with exponent := s.adapted w, base := s.ltu.cycle, round := .idle } }

/-- The open round's window has ended and the capture queue holds no entry from it (R41). -/
def State.roundFinished (s : State) (w : DiscWindow) : Bool :=
  !s.windowRuns (.discovery w.ref) && !s.captured (.discovery w.ref)

/-! ### Pop reads -/

/-- A pop (R46, R47): the head entry moves into the pop buffer, or the empty result is recorded. -/
def State.pop (s : State) : State :=
  match s.dsu.strangers with
  | [] => { s with dsu := { s.dsu with pop := { s.dsu.pop with valid := false, empty := true, remaining := 0 } } }
  | e :: rest =>
    { s with dsu := { s.dsu with
        strangers := rest, pop := { entry := e, valid := true, empty := false, remaining := rest.length } } }

/-! ### RUN entry -/

/-- The spread settings put in order (R49): SpreadMax raised to SpreadMin, then SpreadInit clamped between them. -/
def Header.orderSpread (h : Header) : Header :=
  let top := if h.spreadMax.toNat < h.spreadMin.toNat then h.spreadMin else h.spreadMax
  { h with spreadMax := top, spreadInit := clampByte h.spreadMin.toNat top.toNat h.spreadInit }

/-- What every entry into RUNNING does in the DSU (R49): timer restarted, deferral count 0, round state NONE, no demand presented yet. -/
def State.restartDiscovery (s : State) : State :=
  { s with dsu := { s.dsu with base := s.ltu.cycle, deferral := 0, round := .idle, demand := false } }

/-- Discovery prepared at RUN entry from CONFIG (R49). -/
def State.prepareDiscovery (s : State) : State :=
  let h := s.header.orderSpread
  State.restartDiscovery { s with header := h, dsu := { s.dsu with exponent := h.spreadInit.toNat } }

end Sys2Proof.Machine
end

