-- ==== Sys2Proof/Machine/Ranging.lean ====
section
/-! DEFINITION. The Ranging Unit (chapter 3): attempts (R53), echoes (R57), the checks of an attempt (R59 to R64), settle sequences (R67 to R73), and the outcomes as the RTB applies them (R17, R20, R25). -/

namespace Sys2Proof.Machine

/-! ### Attempts -/

/-- Ranging demand (R53): the head of the queue, if it is ASSIGNED and there is no current attempt. -/
def State.rangingDemand (s : State) : Option RecIx :=
  match s.rgu.queue with
  | [] => none
  | i :: _ => if (s.record i).state = .assigned ∧ s.rgu.attempt = none then some i else none

/-- The length of a ranging window for N echoes (R53). -/
def State.rangingLength (s : State) (n : Nat) : Nat := s.targetLoop + n * Config.echoPitch + Config.windowMargin

/-- The length of a discovery window for spread exponent e (R33). -/
def State.discoveryLength (s : State) (e : Nat) : Nat := s.targetLoop + 2 ^ e * Config.helloPitch + Config.windowMargin

/-- An attempt is started for record `i` (R53): a new identity, the sample places empty, stage ASKING; the record is RANGING (R16). -/
def State.startAttempt (s : State) (i : RecIx) : State :=
  let n := (s.record i).samples.toNat
  let ident := s.rgu.ident + 1
  State.moveQuietly
    { s with rgu := { s.rgu with
        ident := ident
        attempt := some
          { index := i, ident := ident, count := n, length := s.rangingLength n, ref := none, stage := .asking
            places := List.replicate n { mark := none, doubled := false } } } } i .ranging

/-- The attempt record replaced. -/
def State.setAttempt (s : State) (a : Option Attempt) : State := { s with rgu := { s.rgu with attempt := a } }

/-- The identity of an attempt's window (R112); before the window is given there is none. -/
def Attempt.interval (a : Attempt) : Option Interval := a.ref.map (fun cq => .ranging cq a.index a.ident)

/-- A capture belongs to the RGU (R123): an ECHO, or a STATUS of code SETTLE. -/
def Capture.isRanging (c : Capture) : Bool := decide (c.kind = .echo) || (decide (c.kind = .status) && decide (c.low = 3))

/-- A capture fills its sample place, or marks it doubled (R57). -/
def Place.take (p : Place) (mark : Int) : Place :=
  match p.mark with
  | some _ => { p with doubled := true }
  | none => { p with mark := some mark }

/-- Every sample place holds a mark (R57). -/
def Attempt.complete (a : Attempt) : Bool := a.places.all (fun p => p.mark.isSome)

/-- An early end by the RGU (R57, R103): the window of the filled attempt, if it still runs, ends with DONE. -/
def State.endFilled (s : State) (id : Interval) : State :=
  match s.ltu.quiet with
  | .opened w => if w.interval = id then s.endWindow w else s
  | .idle => s
  | .asked _ => s
  | .given _ => s

/-- An ECHO of the open attempt (R57): index outside the train, wrong line number, wrong convention, place already filled, or filled now;
with every place filled the attempt is JUDGING and its window ends. -/
def State.echoInAttempt (s : State) (a : Attempt) (c : Capture) : State :=
  if a.count ≤ c.low then s.count .strayBursts
  else if (byteAt c.payload 0).toNat ≠ (s.record a.index).line then s.count .wrongSender
  else if c.conv ≠ (s.record a.index).conv then s
  else
    let a' := { a with places := a.places.modify c.low (fun p => p.take c.mark) }
    if a'.complete then (s.setAttempt (some { a' with stage := .judging })).endFilled c.interval
    else s.setAttempt (some a')

/-- The RGU handles an ECHO (R57, R66): one that names the open attempt's window is handled; any other is discarded uncounted. -/
def State.handleEcho (s : State) (c : Capture) : State :=
  match s.rgu.attempt with
  | none => s
  | some a => if a.stage = .opened ∧ a.interval = some c.interval then s.echoInAttempt a c else s

/-! ### Judging -/

/-- The loop times of the samples, in order from echo `i` (R59): none where a place is empty or doubled. -/
def loopTimes : Nat → List Place → Option (List Int)
  | _, [] => some []
  | i, p :: ps =>
    match p.mark, loopTimes (i + 1) ps with
    | some a, some rest =>
      if p.doubled then none else some ((a - Config.preambleSixteenths - (i : Int) * (16 * Config.echoPitch : Nat)) :: rest)
    | _, _ => none

/-- The spread of the samples (R60): the largest less the smallest. -/
def sampleSpread : List Int → Int
  | [] => 0
  | x :: xs => xs.foldl max x - xs.foldl min x

/-- The averaged loop time (R61): halves rounded up, the division rounding toward the more negative value. -/
def averageLoop (xs : List Int) : Int := (xs.sum + (xs.length / 2 : Nat)) / (xs.length : Int)

/-- The outcome of an attempt, by the checks in order (R59 to R64). `target16` is 16 × TargetLoop. -/
def judgeSamples (places : List Place) (spreadLimit : Nat) (target16 resp : Nat) : RangingOutcome :=
  match loopTimes 0 places with
  | none => .failed .miss
  | some xs =>
    if (spreadLimit : Int) < sampleSpread xs then .failed .spread
    else
      let l := averageLoop xs
      if (target16 : Int) < l then .reach
      else if l < 16 * (resp : Int) then .failed .early
      else .success l.toNat ((target16 - l.toNat) / 16) ((target16 - l.toNat) % 16)

/-- The header counter of an outcome (R65). -/
def RangingOutcome.counter : RangingOutcome → CounterId
  | .success _ _ _ => .rangingOk
  | .failed _ => .rangingFailed
  | .reach => .rangingFailed

/-- The attempt is judged and closed, its outcome on its way to the RTB (R58 to R65). -/
def State.judge (s : State) (a : Attempt) : State :=
  let o := judgeSamples a.places s.header.spreadLimit.toNat (16 * s.targetLoop) (s.record a.index).resp
  let s1 := s.count o.counter
  { s1 with rgu := { s1.rgu with
      attempt := none
      reports := s1.rgu.reports ++ [{ index := a.index, ident := a.ident, outcome := o }] } }

/-- The attempt may be judged (R57, R58, R123): JUDGING, or OPEN with its window ended, and no entry of it in the capture queue. -/
def State.attemptFinished (s : State) (a : Attempt) : Bool :=
  match a.stage with
  | .judging => !(a.interval.any s.captured)
  | .asking => false
  | .opened =>
    match a.interval with
    | none => false
    | some id => !s.windowRuns id && !s.captured id

/-! ### Outcomes at the RTB -/

/-- A counted attempt of record `i` fails (R17, R20): back of the ranging queue below RangeLimit, FAILED with reason RANGE at it. The count
never exceeds RangeLimit (R17), also where a lowered limit had left it there (log 37). -/
def State.countAttempt (s : State) (i : RecIx) (why : ChangeReason) : State :=
  let s1 := s.onRecord i (fun r => { r with rangeUsed := min (r.rangeUsed + 1) s.header.rangeLimit.toNat })
  if (s.record i).rangeUsed + 1 < s.header.rangeLimit.toNat then
    (((s1.leaveRanging i).setSettle i none).joinRanging i).enter i .assigned why
  else s1.fail i .range

/-- A ranging outcome applied (R17). -/
def State.applyRanging (s : State) (i : RecIx) (o : RangingOutcome) : State :=
  match o with
  | .success l coarse fine =>
    let s1 := (s.leaveRanging i).onRecord i (fun r => { r with loop := l, eqCoarse := coarse, eqFine := fine, eqValid := true })
    (s1.enter i .equalized .ranged).appendControl i .equalize
  | .failed _ => s.countAttempt i .attemptFailed
  | .reach => s.fail i .reach

/-- A ranging outcome is current (R25): its record is RANGING and it names the latest attempt started. -/
def State.rangingCurrent (s : State) (p : RangingReport) : Bool :=
  decide ((s.record p.index).state = .ranging) && decide (p.ident = s.rgu.ident)

/-- A settle outcome applied (R20). -/
def State.applySettle (s : State) (i : RecIx) (x : Settle) (o : SettleOutcome) : State :=
  match o with
  | .sumMismatch => s.fail i .sum
  | .trim avg coarse fine clamped =>
    let s1 := s.onRecord i (fun r =>
      { r with
        lastDeviation := avg, eqCoarse := coarse, eqFine := fine, trimSent := true
        trimClamped := r.trimClamped || clamped })
    (s1.setSettle i (some { x with report := none })).appendControl i .trim
  | .pass avg =>
    let s1 := (s.onRecord i (fun r => { r with lastDeviation := avg })).setSettle i none
    (s1.enter i .committing .settled).appendControl i .commit
  | .reRange avg => (s.onRecord i (fun r => { r with lastDeviation := avg.getD r.lastDeviation })).countAttempt i .reRange

/-! ### Settling -/

/-- The interval identity of a capture in a span slot (R112). -/
def Capture.slotIdent (c : Capture) : Option Nat :=
  match c.interval with
  | .slot n _ _ _ _ => some n
  | .discovery _ => none
  | .ranging _ _ _ => none

/-- The record whose ask is OUTSTANDING under an interval identity (R70). -/
def State.askOutstanding (s : State) (n : Nat) : Option RecIx :=
  allRecords.find? (fun i =>
    match s.settle i with
    | some ⟨_, _, _, .outstanding _ _ m, _⟩ => decide (m = n)
    | _ => false)

/-- The sum a SETTLE reply must carry (R70): 0 with profile index 255, else that of the record's directory entry. -/
def State.expectedSum (s : State) (i : RecIx) : Nat :=
  if (s.record i).profileIx = 255 then 0 else (s.dirEntry (profileDir (s.record i).profileIx)).sum

/-- The instant, in line bits after its transmit cycle's start, at which the delimiter of a perfectly equalized reply begins (R70). -/
def State.expectedDelimiter (s : State) (j : Nat) : Nat := s.arrivalStart j + 64

/-- The average deviation (R72): halves rounded away from zero. -/
def averageDeviation (sum : Int) (k : Nat) : Int := sum.sign * (((sum.natAbs + k / 2) / k : Nat) : Int)

/-- The trimmed equalization, clamped into 0..16 × TargetLoop, and whether the clamp acted (R73). -/
def trimmed (eq16 : Nat) (avg : Int) (target16 : Nat) : Nat × Bool :=
  let x : Int := (eq16 : Int) - avg
  if x < 0 then (0, true) else if (target16 : Int) < x then (target16, true) else (x.toNat, false)

/-- The decision of a settle sequence (R72, R73), with the stage afterwards. -/
def decideSettle (avg : Int) (tol : Nat) (trimSent : Bool) (eq16 target16 : Nat) : SettleOutcome × SettleStage :=
  if avg.natAbs ≤ tol then (.pass avg, .decided)
  else if avg.natAbs ≤ 4 * tol ∧ trimSent = false then
    let t := trimmed eq16 avg target16
    (.trim avg (t.1 / 16) (t.1 % 16) t.2, .trimming)
  else (.reRange (some avg), .decided)

/-- A settle outcome on its way to the RTB (R74; log 12): held in the settle state with its stage. -/
def State.reportSettle (s : State) (i : RecIx) (x : Settle) (o : SettleOutcome) (stage : SettleStage) : State :=
  let s1 := s.setSettle i (some { x with stage := stage, report := some o })
  { s1 with rgu := { s1.rgu with settleReports := s1.rgu.settleReports ++ [i] } }

/-- The ask of record `i` is queued again (R70, R71): stage QUEUED, a CONFIRM-ASK at the back of the reply-bearing list. -/
def State.askAgain (s : State) (i : RecIx) (x : Settle) : State :=
  (s.setSettle i (some { x with stage := .queued })).appendReply i .confirmAsk

/-- An accepted SETTLE reply (R70, R72): its booking is answered and becomes a void (R107); a wrong sum ends the sequence, a right one adds
its deviation, and the found count reaching K decides. -/
def State.settleReply (s : State) (i : RecIx) (x : Settle) (n j : Nat) (c : Capture) : State :=
  let s1 := s.voidIdent n
  if natLE ((c.payload.drop 2).take 2) ≠ s.expectedSum i then s1.reportSettle i x .sumMismatch .decided
  else
    let r := s.record i
    let x' := { x with found := x.found + 1, sum := x.sum + (c.mark - 16 * (s.expectedDelimiter j : Int)) }
    if r.settleCount.toNat ≤ x'.found then
      let d := decideSettle (averageDeviation x'.sum r.settleCount.toNat) s.header.tol.toNat r.trimSent
        (16 * r.eqCoarse + r.eqFine) (16 * s.targetLoop)
      s1.reportSettle i x' d.1 d.2
    else s1.askAgain i x'

/-- The RGU handles a SETTLE capture (R70): with no ask OUTSTANDING for its slot it is stray; one of another convention is discarded. -/
def State.handleSettle (s : State) (c : Capture) : State :=
  match c.slotIdent.bind s.askOutstanding with
  | none => s.count .strayBursts
  | some i =>
    match s.settle i with
    | some x =>
      match x.stage with
      | .outstanding _ j n => if c.conv ≠ (s.record i).conv then s else s.settleReply i x n j c
      | .queued => s
      | .trimming => s
      | .decided => s
    | none => s

/-- An unanswered settle slot (R71): a miss; the ask is queued again, or the sequence ends in re-range at K misses. -/
def State.settleMiss (s : State) (i : RecIx) : State :=
  match s.settle i with
  | none => s
  | some x =>
    let x' := { x with missed := x.missed + 1 }
    if x'.missed < (s.record i).settleCount.toNat then s.askAgain i x'
    else s.reportSettle i x' (.reRange none) .decided

/-- The sequence restarts when its TRIM is taken (R73). -/
def State.restartSettle (s : State) (i : RecIx) : State :=
  (s.setSettle i (some { found := 0, missed := 0, sum := 0, stage := .queued, report := none })).appendReply i .confirmAsk

/-! ### Block replies -/

/-- A STATUS of code ACK or NAK belongs to the PEX (R123). -/
def Capture.isBlockReply (c : Capture) : Bool := decide (c.kind = .status) && (decide (c.low = 1) || decide (c.low = 2))

/-- The PEX takes an ACK or NAK (R86), by the first case that applies: stray, wrong convention, stale, NAK, ACK. -/
def State.handleBlockReply (s : State) (c : Capture) : State :=
  match c.slotIdent with
  | none => s.count .strayBursts
  | some n =>
    match s.channelSent n with
    | none => s.count .strayBursts
    | some ch =>
      if c.conv ≠ (s.record (s.chan ch).index).conv then s
      else if (byteAt c.payload 1).toNat ≠ (s.chan ch).current then s.count .staleReplies
      else if c.low = 2 then (s.voidIdent n).negativeOutcome ch
      else (s.voidIdent n).ackBlock ch

/-- A push outcome applied (R19): completion sets profile-delivered, frees the channel and enters SETTLING, and the channel goes to the head
of the profile-wait queue; a failure releases the record. -/
def State.applyPush (s : State) (i : RecIx) (ch : ChanIx) (o : PushOutcome) : State :=
  match o with
  | .complete =>
    (((s.onRecord i (fun r => { r with profileDelivered := true })).freeChannel ch).enterSettling i .profileDone).grantWaiting ch
  | .profileFailed => s.fail i .profile
  | .imageFailed => s.fail i .image

end Sys2Proof.Machine
end

