-- ==== Sys2Proof/Machine/Timeline.lean ====
section
/-! DEFINITION. The Line Timing Unit's steps (chapter 5): cycle starts and slips (R94, R95), line down and up (R96), arbitration and asks (R97, R98), the scheduler's answers (R100 to R102), the armed intervals and their ends (R103, R108, R110). -/

namespace Sys2Proof.Machine

/-! ### Asking for a window -/

/-- The purpose an ASK carries (R98). -/
def Purpose.ask : Purpose → AskPurpose
  | .discovery => .discovery
  | .ranging _ _ => .ranging

/-- The LTU asks for a window (R98): ASK is sent, the window record filled, the quiet state ASKED. -/
def State.ask (s : State) (p : Purpose) (length : Nat) : State :=
  let n := s.notBefore
  ((s.send (.ask length n p.ask)).setQuiet
    (.asked { purpose := p, length := length, notBefore := n, wait := 0, cq := 0 })).count .quietAsks

/-- The quiet resource is granted to ranging (R53, R97): an attempt for the head of the queue is started and its window asked for. -/
def State.grantRanging (s : State) (i : RecIx) : State :=
  (s.startAttempt i).ask (.ranging i (s.rgu.ident + 1)) (s.rangingLength (s.record i).samples.toNat)

/-- The quiet resource is granted to discovery (R32, R33): deferral count 0, the round ASKING with its spread fixed, its window asked for. -/
def State.grantDiscovery (s : State) : State :=
  let e := s.dsu.exponent
  (({ s with dsu := { s.dsu with deferral := 0, round := .asking e, demand := false } } : State)).ask
    .discovery (s.discoveryLength e)

/-- A grant to ranging over discovery demand raises the deferral count (R32). -/
def State.deferDiscovery (s : State) : State := { s with dsu := { s.dsu with deferral := s.dsu.deferral + 1 } }

/-- Arbitration at a normal advance (R97), when the port is RUNNING and the line up. -/
def State.arbitrate (s : State) : State :=
  if s.pct.port = .running ∧ s.ltu.lineUp = true then
    match s.rangingDemand with
    | some i =>
      if s.discoveryDemand then
        if s.header.discoveryDefer.toNat ≤ s.dsu.deferral then s.grantDiscovery else s.deferDiscovery.grantRanging i
      else s.grantRanging i
    | none => if s.discoveryDemand then s.grantDiscovery else s
  else s

/-! ### Cycle starts -/

/-- The cycle number and line offset at a cycle start (R94); no fetch of the next cycle has come since (R129). -/
def State.startCycle (s : State) (c : Cycle) : State :=
  { s with ltu := { s.ltu with cycle := c, offset := 0, known := true, nextFetched := false } }

/-- Asks OUTSTANDING at a slip are queued again, neither found nor missed, in record index order (R71; log 11). -/
def State.requeueAsks (s : State) : State :=
  allRecords.foldl
    (fun t i =>
      match t.settle i with
      | some x =>
        match x.stage with
        | .outstanding _ _ _ => t.askAgain i x
        | .queued => t
        | .trimming => t
        | .decided => t
      | none => t) s

/-- Channels SENT at a slip offer their block again with nothing counted, in channel index order (R88; log 11). -/
def State.requeueBlocks (s : State) : State :=
  allChannels.foldl
    (fun t ch =>
      match (t.chan ch).stage with
      | .sent _ _ _ => t.offerAgain ch
      | _ => t) s

/-- What a slip and LINE-DOWN end alike (R95, R96): the quiet resource, the round, the attempt, the span map, the arm line, the latest
fetch. -/
def State.dropTimeline (s : State) : State :=
  let s1 := (s.endQuiet.abandonRound.abandonAttempt.setMap []).disarm
  { s1 with ltu := { s1.ltu with latestFetch := none } }

/-- A slip (R95), the cycle number already taken: LINE SLIP, everything timed against the old count abandoned, cleared bookings queued
again by their owners. -/
def State.slip (s : State) : State := ((s.raiseLine .slip).dropTimeline.requeueAsks).requeueBlocks

/-- A GIVEN window whose fetch was missed (R102) or passed by an invalid FETCH (R129): DONE, quiet state IDLE, the demander told that the ask has ended. -/
def State.missWindow (s : State) (w : Window) : State := ((s.send .done).setQuiet .idle).askEnded w.purpose

/-- What a normal advance finds the quiet resource in (R94): an outstanding ask counts its wait (R101), a GIVEN window is tested (R102, R129),
and an IDLE resource is arbitrated (R97; log 7). -/
def State.advanceQuiet (s : State) : State :=
  match s.ltu.quiet with
  | .asked w => s.setQuiet (.asked { w with wait := w.wait + 1 })
  | .given w => if atOrAfter s.ltu.cycle w.cq || w.passed then s.missWindow w else s
  | .opened _ => s
  | .idle => s.arbitrate

/-- The span map moves on by one cycle (R105): the transmit cycle that leaves its extent is dropped. -/
def State.advanceMap (s : State) : State := s.setMap (s.ltu.map.filter (inExtent s.ltu.cycle))

/-- CYCLE(c) (R94): taken without judgement while the cycle is not known or the line is down, a normal advance at the next cycle number, a
slip otherwise. The DSU presents its demand and the interrupt line follows (R32, R158). -/
def State.cycleStart (s : State) (c : Cycle) : State :=
  let s1 := (s.startCycle c).presentDemand
  let s2 :=
    if s.ltu.known = false ∨ s.ltu.lineUp = false then s1
    else if c = s.ltu.cycle + 1 then s1.advanceMap.advanceQuiet
    else s1.slip
  s2.followInterrupt

/-! ### The line -/

/-- LINE-DOWN (R96): taken while the line is up. -/
def State.lineFalls (s : State) : State :=
  if s.ltu.lineUp then
    let s1 := ({ s with ltu := { s.ltu with lineUp := false } } : State).raiseLine .down
    s1.dropTimeline.portReturn
  else s

/-- LINE-UP (R96): taken while the line is down; cycle known is cleared and there is no latest fetch (R92). -/
def State.lineRises (s : State) : State :=
  if s.ltu.lineUp then s
  else
    ({ s with ltu := { s.ltu with lineUp := true, known := false, latestFetch := none } } : State).raiseLine .up

/-! ### The scheduler's answers -/

/-- The demander is told that its window is given (R100): it places its message in the window-message slot (R33, R54, R133). -/
def State.windowGiven (s : State) (w : Window) : State :=
  match w.purpose with
  | .discovery =>
    match s.dsu.round with
    | .asking e => { s with dsq := { s.dsq with window := some { cq := w.cq, message := .invite e } } }
    | .idle => s
    | .opened _ => s
  | .ranging _ _ =>
    match s.rgu.attempt with
    | some a =>
      { s with
        rgu := { s.rgu with attempt := some { a with ref := some w.cq } }
        dsq := { s.dsq with window := some { cq := w.cq, message := .rangeAsk a.index a.count } } }
    | none => s

/-- A stray answer (R100, R103). -/
def State.strayAnswer (s : State) : State := s.count .quietStrays

/-- A late GIVE (R100). -/
def State.lateGive (s : State) (w : Window) (cq : Cycle) : State :=
  ((((s.send .withdraw).raiseQuiet w.purpose .lateGive cq).count .quietLateGives).setQuiet .idle).askEnded w.purpose

/-- GIVE(c_q) (R100). -/
def State.takeGive (s : State) (cq : Cycle) : State :=
  match s.ltu.quiet with
  | .asked w =>
    if atOrAfter cq w.notBefore && !s.ltu.fetchPassed cq then
      (s.setQuiet (.given { w with cq := cq })).windowGiven { w with cq := cq }
    else s.lateGive w cq
  | .idle => s.strayAnswer
  | .given _ => s.strayAnswer
  | .opened _ => s.strayAnswer

/-- DENY (R100). -/
def State.takeDeny (s : State) : State :=
  match s.ltu.quiet with
  | .asked w => (((s.raiseQuiet w.purpose .deny w.notBefore).count .quietDenies).setQuiet .idle).askEnded w.purpose
  | .idle => s.strayAnswer
  | .given _ => s.strayAnswer
  | .opened _ => s.strayAnswer

/-- REVOKE (R102, R103). -/
def State.takeRevoke (s : State) : State :=
  match s.ltu.quiet with
  | .given w => (((s.raiseQuiet w.purpose .revoked w.cq).count .quietRevokes).setQuiet .idle).askEnded w.purpose
  | .opened w => (s.raiseQuiet w.purpose .lateRevoke w.cq).count .quietLateRevokes
  | .idle => s.strayAnswer
  | .asked _ => s.strayAnswer

/-- The timeout of an ask whose wait count has reached QuietWait (R101). -/
def State.timeOutAsk (s : State) : State :=
  match s.ltu.quiet with
  | .asked w =>
    if s.header.quietWait.toNat ≤ w.wait then
      ((((s.send .withdraw).raiseQuiet w.purpose .timeout w.notBefore).count .quietTimeouts).setQuiet .idle).askEnded w.purpose
    else s
  | .idle => s
  | .given _ => s
  | .opened _ => s

/-! ### Armed intervals -/

/-- The OPEN window whose interval the present line bit lies in (R102, R110). -/
def State.windowNow (s : State) : Option Interval :=
  match s.ltu.quiet with
  | .opened w => if 0 ≤ s.ltu.since w.cq ∧ s.ltu.since w.cq < w.length then some w.interval else none
  | .idle => none
  | .asked _ => none
  | .given _ => none

/-- The present line bit lies in the arrival interval of an entry (R105). -/
def State.slotNow (s : State) (e : Slot) : Bool :=
  decide ((s.arrivalStart e.j : Int) ≤ s.ltu.since e.ct) && decide (s.ltu.since e.ct < (s.arrivalEnd e.j : Int))

/-- The interval to be armed at the present line bit (R110): the OPEN window's, or that of a booked slot. -/
def State.intervalNow (s : State) : Option Interval :=
  match s.windowNow with
  | some id => some id
  | none => (s.ltu.map.find? (fun e => decide (e.use ≠ .void) && s.slotNow e)).bind Slot.interval

/-- The start of an armed interval (R110): the arm line rises, unless it is up for this interval already. -/
def State.startInterval (s : State) : State :=
  match s.intervalNow with
  | none => s
  | some id => if s.ltu.armed = some id then s else s.arm id

/-- The window length runs out (R103). -/
def State.windowRunsOut (s : State) : State :=
  match s.ltu.quiet with
  | .opened w => if (w.length : Int) ≤ s.ltu.since w.cq then s.endWindow w else s
  | .idle => s
  | .asked _ => s
  | .given _ => s

/-- The arrival end of slot (ct, j) has passed (R108). -/
def State.slotOver (s : State) (ct : Cycle) (j : Nat) : Bool := decide ((s.arrivalEnd j : Int) ≤ s.ltu.since ct)

/-- The arrival end of an entry (R108, R110): the arm line drops; a void becomes free; a booked entry waits for its report. -/
def State.slotEnds (s : State) (e : Slot) : State :=
  match e.interval with
  | none => s.freeSlot e.ct e.j
  | some id => s.disarmFor id

/-- The wait of R108 is over for an entry whose arrival end has passed: the arm line drops if it is still up for it (R110) and the entry
becomes free. A booked one ended without a reply, and its owner is told: the RGU counts a miss (R71), a channel has a negative outcome (R87).
One voided during the wait has no report. -/
def State.slotUnanswered (s : State) (e : Slot) : State :=
  match e.use with
  | .void => s.freeSlot e.ct e.j
  | .booked i o n =>
    let s1 := (s.disarmFor (.slot n e.ct e.j i o)).freeSlot e.ct e.j
    match o with
    | .rgu => if s1.askOutstanding n = some i then s1.settleMiss i else s1
    | .channel ch => if s1.channelSent n = some ch then s1.negativeOutcome ch else s1

/-- The wait of R108 is over for an entry: its arrival end has passed, and it is a void or the capture queue holds no entry that names
it. -/
def State.slotJudged (s : State) (e : Slot) : Bool :=
  s.slotOver e.ct e.j &&
    (match e.interval with
      | none => true
      | some id => !s.captured id)

end Sys2Proof.Machine
end

