-- ==== Sys2Proof/Machine/Messages.lean ====
section
/-! DEFINITION. The Downstream Queue (chapter 7): messages and their bytes (R125, 11.10), the choice at a fetch (R129 to R132), and what the taking of each message does (R13, R15, R18, R21, R34, R54, R68, R73, R84). -/

namespace Sys2Proof.Machine

/-! ### Message bytes -/

/-- The bytes of a message (R125, 11.10): kind, line number, reply, aux, 18 payload bytes, check over the 22 bytes before it. -/
def messageBytes (kind line reply aux : Byte) (payload : List Byte) : List Byte :=
  let body := [kind, line, reply, aux] ++ (payload ++ List.replicate (18 - payload.length) 0)
  body ++ bytesLE 2 (crc16 body).toNat

/-- The bytes of a serial, first byte least significant. -/
def serialBytes (x : Serial) : List Byte := bytesLE 8 x.toNat

/-- The reply byte (11.10): bits 7..4 the cycle delta, bits 2..0 the slot index. -/
def replyByte (d j : Nat) : Byte := BitVec.ofNat 8 (16 * d + j)

/-- The line number of record `i` as a message carries it. -/
def State.lineByte (s : State) (i : RecIx) : Byte := BitVec.ofNat 8 (s.record i).line

/-- INVITE and RANGE-ASK (R133). -/
def State.windowMessageBytes (s : State) : WindowMessage → List Byte
  | .invite e => messageBytes 1 0 0 (BitVec.ofNat 8 e) []
  | .rangeAsk i n => messageBytes 4 (s.lineByte i) 0 (BitVec.ofNat 8 n) []

/-- PARK (R48). -/
def parkBytes (p : Park) : List Byte := messageBytes 2 0 0 0 (serialBytes p.serial ++ [p.rounds])

/-- RELEASE (R134): the record's line number where its ASSIGN was taken, 0 where not. -/
def State.releaseBytes (s : State) (i : RecIx) : List Byte :=
  messageBytes 10 (if (s.record i).assignTaken then s.lineByte i else 0) 0 0 (serialBytes (s.record i).serial)

/-- The payload of EQUALIZE and TRIM (11.10): coarse, fine, SpanStart, SlotLen. -/
def State.timingPayload (s : State) (i : RecIx) : List Byte :=
  bytesLE 3 (s.record i).eqCoarse ++ bytesLE 1 (s.record i).eqFine ++ bytesLE 3 s.spanStart ++ bytesLE 2 s.slotLen

/-- The messages of the control list (R135). -/
def State.controlBytes (s : State) (e : ControlEntry) : List Byte :=
  match e.kind with
  | .assign => messageBytes 3 (BitVec.ofNat 8 (e.index.val + 1)) 0 0 (serialBytes (s.record e.index).serial)
  | .equalize => messageBytes 5 (s.lineByte e.index) 0 0 (s.timingPayload e.index)
  | .trim => messageBytes 6 (s.lineByte e.index) 0 0 (s.timingPayload e.index)
  | .commit => messageBytes 9 (s.lineByte e.index) 0 0 []

/-- PROFILE-BLOCK (R84): aux the block sequence, the 16 bytes of the block, the last flag. -/
def State.blockBytes (s : State) (ch : ChanIx) (d j : Nat) : List Byte :=
  let c := s.chan ch
  messageBytes 7 (s.lineByte c.index) (replyByte d j) (BitVec.ofNat 8 c.current)
    (c.currentBlock.1 ++ [if c.currentBlock.2 then 1 else 0])

/-- CONFIRM-ASK (R68). -/
def State.confirmBytes (s : State) (i : RecIx) (d j : Nat) : List Byte := messageBytes 8 (s.lineByte i) (replyByte d j) 0 []

/-! ### The choice -/

/-- Who would own the booking of a reply-bearing entry (R105): the RGU for a CONFIRM-ASK of a settle sequence, the READY channel for a
PROFILE-BLOCK. -/
def State.replyOwner (s : State) (e : ReplyEntry) : Option Owner :=
  match e.kind with
  | .confirmAsk => (s.settle e.index).map (fun _ => .rgu)
  | .profileBlock =>
    (s.channelOf e.index).bind (fun ch => if (s.chan ch).stage = .ready then some (.channel ch) else none)

/-- A reply-bearing entry that a slot can be asked for (R106): its record holds no booking. -/
def State.replyWants (s : State) (e : ReplyEntry) : Option (ReplyEntry × Owner) :=
  if s.holdsBooking e.index then none else (s.replyOwner e).map (fun o => (e, o))

/-- What a fetch takes (R131). -/
inductive Choice where
  | nothing
  | window (m : BoundMessage)
  | release (i : RecIx)
  | control (e : ControlEntry)
  | park (p : Park)
  | reply (e : ReplyEntry) (o : Owner) (d j : Nat)
  deriving DecidableEq, Repr

/-- The fifth case of R131 (R132): the first reply-bearing entry for which a span slot can be booked. -/
def State.chooseReply (s : State) (c : Cycle) : Choice :=
  match s.dsq.reply.findSome? s.replyWants, s.findSlot c with
  | some (e, o), some (d, j) => .reply e o d j
  | _, _ => .nothing

/-- The cases of R131 after the window message, in order. -/
def State.chooseLists (s : State) (c : Cycle) : Choice :=
  match s.dsq.urgent with
  | i :: _ => .release i
  | [] =>
    match s.dsq.control with
    | e :: _ => .control e
    | [] =>
      match s.dsu.parks with
      | p :: _ => .park p
      | [] => s.chooseReply c

/-- The choice among all collections (R131). -/
def State.chooseAll (s : State) (c : Cycle) : Choice :=
  match s.dsq.window with
  | some m => if m.cq = c then .window m else s.chooseLists c
  | none => s.chooseLists c

/-- The choice where only the urgent list may be drawn on (R130). -/
def State.chooseUrgent (s : State) : Choice :=
  match s.dsq.urgent with
  | i :: _ => .release i
  | [] => .nothing

/-- The choice at a valid FETCH(c), by the port gating (R130). -/
def State.choose (s : State) (c : Cycle) : Choice :=
  if s.ltu.lineUp = false then .nothing
  else
    match s.pct.port with
    | .running => s.chooseAll c
    | .config => s.chooseUrgent
    | .draining => s.chooseUrgent
    | .halted => .nothing
    | .off => .nothing
    | .loading => .nothing

/-! ### The taking of each message -/

/-- INVITE taken (R34): the window record of the round starts afresh and the round is counted. -/
def State.inviteTaken (s : State) (c : Cycle) (e : Nat) : State :=
  (s.setRound (.opened { ref := c, spread := 2 ^ e, valid := 0, garbled := false, seen := [] })).count .discoveryRounds

/-- RANGE-ASK taken (R54): the attempt is OPEN. -/
def State.rangeAskTaken (s : State) : State :=
  match s.rgu.attempt with
  | some a => s.setAttempt (some { a with stage := .opened })
  | none => s

/-- The window message taken (R102): the quiet state is OPEN and the round or attempt with it. -/
def State.windowTaken (s : State) (m : BoundMessage) : State :=
  let s1 := s.emptyWindowSlot
  let s2 :=
    match s1.ltu.quiet with
    | .given w => s1.setQuiet (.opened w)
    | .idle => s1
    | .asked _ => s1
    | .opened _ => s1
  match m.message with
  | .invite e => s2.inviteTaken m.cq e
  | .rangeAsk _ _ => s2.rangeAskTaken

/-- The fields every RELEASE taken clears (R13). -/
def Record.released (r : Record) : Record := { r with line := 0, assignTaken := false, eqValid := false, dest := .clear }

/-- RELEASE taken (R13): the record leaves RELEASING for its destination. A RELEASING record always holds one; were it none, the record
would be HELD (log 23). -/
def State.releaseTaken (s : State) (i : RecIx) : State :=
  let s1 : State := { s with dsq := { s.dsq with urgent := s.dsq.urgent.drop 1 } }
  match (s.record i).dest with
  | .empty => s1.enterEmpty i .releaseTaken
  | .held => (s1.onRecord i Record.released).enter i .held .releaseTaken
  | .failed => (s1.onRecord i Record.released).enter i .failed .releaseTaken
  | .awaiting => (s1.onRecord i Record.clearActivation).enter i .awaiting .releaseTaken
  | .clear => (s1.onRecord i Record.released).enter i .held .releaseTaken

/-- ASSIGN taken (R15): line number given, the record joins the ranging queue. -/
def State.assignTaken (s : State) (i : RecIx) : State :=
  ((s.onRecord i (fun r => { r with assignTaken := true, line := i.val + 1 })).joinRanging i).raiseRecord i .assignTaken

/-- The record needs a profile (R18). -/
def Record.needsProfile (r : Record) : Bool := decide (r.profileIx ≠ 255) && !r.profileDelivered

/-- EQUALIZE taken (R18, R81): a channel at once, the profile-wait queue, or SETTLING. -/
def State.equalizeTaken (s : State) (i : RecIx) : State :=
  if (s.record i).needsProfile then
    match s.pex.waiting, s.freeChan with
    | [], some ch => (s.enter i .profiling .equalizeTaken).grantChannel ch i
    | _, _ => ({ s with pex := { s.pex with waiting := s.pex.waiting ++ [i] } } : State).raiseRecord i .equalizeTaken
  else s.enterSettling i .equalizeTaken

/-- A control message taken (R135). -/
def State.controlTaken (s : State) (e : ControlEntry) : State :=
  let s1 : State := { s with dsq := { s.dsq with control := s.dsq.control.drop 1 } }
  match e.kind with
  | .assign => s1.assignTaken e.index
  | .equalize => s1.equalizeTaken e.index
  | .trim => s1.restartSettle e.index
  | .commit => s1.enter e.index .inService .commitTaken

/-- A PARK taken: the head entry leaves the park queue (R48). -/
def State.parkTaken (s : State) : State := { s with dsu := { s.dsu with parks := s.dsu.parks.drop 1 } }

/-- A reply-bearing message taken (R68, R84, R132): its slot is booked, the ask OUTSTANDING or the channel SENT. -/
def State.replyTaken (s : State) (c : Cycle) (e : ReplyEntry) (o : Owner) (d j : Nat) : State :=
  let ct := c + BitVec.ofNat 32 d
  let n := s.ltu.nextIdent
  let s1 : State := { s with dsq := { s.dsq with reply := s.dsq.reply.erase e } }
  let s2 := s1.book ct j e.index o
  match o with
  | .rgu => s2.setSettle e.index ((s2.settle e.index).map (fun x => { x with stage := .outstanding ct j n }))
  | .channel ch => s2.setChan ch { s2.chan ch with stage := .sent ct j n }

/-- The bytes of a reply-bearing message. -/
def State.replyBytes (s : State) (e : ReplyEntry) (o : Owner) (d j : Nat) : List Byte :=
  match o with
  | .rgu => s.confirmBytes e.index d j
  | .channel ch => s.blockBytes ch d j

/-- The answer a choice gives the framer: its message, built from the part as it stands at the fetch (R124), or NONE. -/
def State.choiceAnswer (s : State) : Choice → FramerAnswer
  | .nothing => .nothing
  | .window m => .message (s.windowMessageBytes m.message)
  | .release i => .message (s.releaseBytes i)
  | .control e => .message (s.controlBytes e)
  | .park p => .message (parkBytes p)
  | .reply e o d j => .message (s.replyBytes e o d j)

/-- The effects of the taking (R131). -/
def State.takeChoice (s : State) (c : Cycle) : Choice → State
  | .nothing => s
  | .window m => s.windowTaken m
  | .release i => s.releaseTaken i
  | .control e => s.controlTaken e
  | .park _ => s.parkTaken
  | .reply e o d j => s.replyTaken c e o d j

/-- A FETCH is valid (R129): the cycle is known, it names the next cycle, and no earlier FETCH has named it since the cycle start. -/
def State.fetchValid (s : State) (c : Cycle) : Bool :=
  s.ltu.known && decide (c = s.ltu.cycle + 1) && !s.ltu.nextFetched

/-- The LTU records a FETCH as the latest fetch, valid or not (R94, R129). -/
def State.recordFetch (s : State) (c : Cycle) : State :=
  { s with ltu := { s.ltu with
      latestFetch := some c, nextFetched := s.ltu.nextFetched || decide (c = s.ltu.cycle + 1) } }

/-- An invalid FETCH(c) passes the fetch of a GIVEN window whose c_q is `c` or earlier (R94, R129; log 41). -/
def State.passFetch (s : State) (c : Cycle) : State :=
  match s.ltu.quiet with
  | .given w => s.setQuiet (.given { w with passed := w.passed || atOrAfter c w.cq })
  | .idle => s
  | .asked _ => s
  | .opened _ => s

/-- FETCH(c) (R129 to R132): answered with the chosen message, whose taking has its effects at once, or with NONE. -/
def State.takeFetch (s : State) (c : Cycle) : State :=
  let s1 := s.recordFetch c
  if s.fetchValid c then
    let choice := s1.choose c
    (s1.takeChoice c choice).answerFetch (s1.choiceAnswer choice)
  else (s1.passFetch c).answerFetch .nothing

end Sys2Proof.Machine
end

