-- ==== Sys2Proof/Machine/Port.lean ====
section
/-! DEFINITION. The Port Controller (chapter 10): the port intent (R161), RUN validation and entry (R162), draining and halting (R163), the start-up load (R160). -/

namespace Sys2Proof.Machine

/-! ### RUN -/

/-- The TARGET test of RUN validation (R162). -/
def State.targetOk (s : State) : Bool := decide (16384 ≤ s.targetLoop) && decide (s.targetLoop ≤ 524287)

/-- The SPAN test of RUN validation (R93, R162). -/
def State.spanOk (s : State) : Bool :=
  decide (512 ≤ s.slotLen) && decide (s.slotLen ≤ 4096) && decide (1 ≤ s.header.slotCount.toNat)
    && decide (s.header.slotCount.toNat ≤ 8)
    && decide (s.spanStart + s.header.slotCount.toNat * s.slotLen ≤ Config.cycleBits)

/-- The refusal code replaced (R162). -/
def State.setRefusal (s : State) (r : RefusalCode) : State := { s with pct := { s.pct with refusal := r } }

/-- Every header counter zeroed (R164). -/
def State.zeroCounters (s : State) : State := { s with counters := Counters.zero }

/-- Entry into RUNNING from CONFIG (R162): PORT, counters zeroed, discovery prepared, the stored intents acted on last. -/
def State.runFromConfig (s : State) : State :=
  ((((s.setRefusal .clear).enterPort .running).zeroCounters).prepareDiscovery).actAllIntents

/-- Entry into RUNNING from DRAINING (R162): without validation and without zeroing. -/
def State.runFromDraining (s : State) : State := ((s.enterPort .running).restartDiscovery).actAllIntents

/-- A RUN refused in CONFIG (R162): the refusal code and a PORT event. -/
def State.refuseRun (s : State) (r : RefusalCode) : State := (s.setRefusal r).raisePort

/-- A RUN intent acted on in CONFIG (R162): TARGET first, then SPAN. -/
def State.validateRun (s : State) : State :=
  if s.targetOk = false then s.refuseRun .target
  else if s.spanOk = false then s.refuseRun .span
  else s.runFromConfig

/-! ### CONFIG, DRAINING, HALTED -/

/-- Entry into CONFIG (R109, R161, R163): the span map is cleared. -/
def State.enterConfig (s : State) : State := (s.setMap []).enterPort .config

/-- The draining is complete (R163): the urgent list is empty and the quiet state IDLE. -/
def State.drained (s : State) : Bool := decide (s.dsq.urgent = []) && decide (s.ltu.quiet = .idle)

/-- DRAINING starts (R163): activation work ends; with the urgent list empty the port passes on to CONFIG at once. -/
def State.startDraining (s : State) : State :=
  let s1 := (s.enterPort .draining).portReturn
  if s1.drained then s1.enterConfig else s1

/-- Entry into HALTED (R163). -/
def State.halt (s : State) : State := (s.enterPort .halted).portReturn

/-- A CONFIG intent acted on (R161). -/
def State.actConfig (s : State) : State :=
  match s.pct.port with
  | .running => s.startDraining
  | .halted => s.enterConfig
  | .config => s
  | .draining => s
  | .off => s
  | .loading => s

/-- A RUN intent acted on (R161). -/
def State.actRun (s : State) : State :=
  match s.pct.port with
  | .config => s.validateRun
  | .draining => s.runFromDraining
  | .running => s
  | .halted => s
  | .off => s
  | .loading => s

/-- A HALT intent acted on (R161). -/
def State.actHalt (s : State) : State :=
  match s.pct.port with
  | .config => s.halt
  | .running => s.halt
  | .draining => s.halt
  | .halted => s
  | .off => s
  | .loading => s

/-- The stored port intent is acted on (R161): CONFIG 1, RUN 2, any other value as HALT. -/
def State.actPortIntent (s : State) : State :=
  if s.header.portIntent = 1 then s.actConfig
  else if s.header.portIntent = 2 then s.actRun
  else s.actHalt

/-! ### The start-up load -/

/-- The window word of step `n` of the load (R160; log 10): the header setup words but 0x0084, the directory setup halves, the record setup
words, then 0x0084. -/
def loadWord (n : Nat) : WinWord :=
  if n < 33 then BitVec.ofNat 14 n
  else if n < 63 then BitVec.ofNat 14 (n + 1)
  else if n < 79 then BitVec.ofNat 14 (128 + 2 * (n - 63))
  else if n < 591 then BitVec.ofNat 14 (256 + 16 * ((n - 79) / 4) + (n - 79) % 4)
  else 33

/-- The step of the load that reads a window word (R160); `none` where the load does not read it. -/
def loadStep (w : Nat) : Option Nat :=
  if w < 33 then some w
  else if w = 33 then some 591
  else if w < 64 then some (w - 1)
  else if 128 ≤ w ∧ w < 160 ∧ w % 2 = 0 then some (63 + (w - 128) / 2)
  else if 256 ≤ w ∧ w < 2304 ∧ w % 16 < 4 then some (79 + 4 * ((w - 256) / 16) + w % 16)
  else none

/-- The load has already read a window word (R3, R143). -/
def State.loadHasRead (s : State) (w : WinWord) : Bool :=
  match s.pct.load, loadStep w.toNat with
  | some n, some k => decide (k < n)
  | _, _ => false

/-- A record index from a number below 128. -/
def recordOf (n : Nat) : RecIx := ⟨n % 128, Nat.mod_lt _ (by decide)⟩

/-- A directory index from a number below 16. -/
def dirOf (n : Nat) : DirIx := ⟨n % 16, Nat.mod_lt _ (by decide)⟩

/-- A RangeLimit stored lowers to the new limit every record's attempts used that exceeds it (R17). -/
def State.lowerRangeUsed (s : State) : State :=
  { s with records := s.records.map (fun r => { r with rangeUsed := min r.rangeUsed s.header.rangeLimit.toNat }) }

/-- A header setup word stored in its owner's copy (R2, R30, R93, R156, R157): the consumer index in the EVW, the rest in the header copy. -/
def State.storeHeader (s : State) (k : Nat) (data : Word) (be : Enables) : State :=
  if k = 33 then
    if be.getLsbD 0 then { s with evw := { s.evw with consumer := byteOf data 0 } } else s
  else
    let s1 : State := { s with header := s.header.store k data be }
    if k = 4 ∧ be.getLsbD 1 then s1.lowerRangeUsed else s1

/-- A setup word stored in its owner's copy as an accepted write stores it, with no event and no intent acted on (R27, R143, R160). -/
def State.storeSetup (s : State) (w : Nat) (data : Word) (be : Enables) : State :=
  if w < 64 then s.storeHeader w data be
  else if w < 160 then s.setDir (dirOf ((w - 128) / 2)) ((s.dirEntry (dirOf ((w - 128) / 2))).store data be)
  else s.onRecord (recordOf ((w - 256) / 16)) (fun r => r.store (w % 16) data be)

/-- The load's read of step `n` waits in the inserted-access queue (R148, R160). -/
def State.placeLoad (s : State) (n : Nat) : State :=
  { s with pct := { s.pct with load := some n }, bpt := { s.bpt with loadRequest := some (loadWord n) } }

/-- The load ends (R160): P takes the value of C, the span map is cleared, the port enters CONFIG, the stored port intent is acted on. -/
def State.completeLoad (s : State) : State :=
  let s1 : State := { s with
    pct := { s.pct with load := none }, bpt := { s.bpt with loadRequest := none }
    evw := { s.evw with producer := s.evw.consumer, written := [] } }
  (s1.enterConfig.actPortIntent).followInterrupt

/-- A word of the load reaches its owner (R160), and the next read is placed. -/
def State.loadServed (s : State) (data : Word) : State :=
  match s.pct.load with
  | none => { s with bpt := { s.bpt with loadRequest := none } }
  | some n =>
    let s1 := s.storeSetup (loadWord n).toNat data 0b1111
    if n + 1 < Config.loadWords then s1.placeLoad (n + 1) else s1.completeLoad

end Sys2Proof.Machine
end

