-- ==== Sys2Proof/Machine/Bus.lean ====
section
/-! DEFINITION. The Bus Pass-Through (chapter 8) with the Event Writer's ring (chapter 9): writes offered to their owners (R142), reads overlaid (R141), snapshots (R144 to R146), the served inserted accesses (R148) and the memory-side arbiter (R149). -/

namespace Sys2Proof.Machine

/-! ### Writes -/

/-- The window offset of a window word (R139). -/
def offsetOf (w : WinWord) : Nat := 4 * w.toNat

/-- The record whose words hold a window word of the record region (R1). -/
def recordOfWord (w : WinWord) : RecIx := recordOf ((w.toNat - 256) / 16)

/-- The window word lies in the record region (R140). -/
def isRecordWord (w : WinWord) : Bool := decide (256 ≤ w.toNat) && decide (w.toNat < 2304)

/-- A write clears the holding flag of the snapshot it concerns (R145, R146). -/
def State.endSnapshots (s : State) (w : WinWord) : State :=
  { s with bpt := { s.bpt with
      headerHeld := s.bpt.headerHeld && !decide (w.toNat < 128)
      snapHeld := s.bpt.snapHeld && !(isRecordWord w && decide (recordOfWord w = s.bpt.snapIndex)) } }

/-- Some record's eq-valid flag is set (R93). -/
def State.anyEqValid (s : State) : Bool := allRecords.any (fun i => (s.record i).eqValid)

/-- A write of consumer index `v` (R156): accepted in the circular range from C to P, rejected with DISCARD reason RANGE outside it. -/
def State.writeConsumer (s : State) (v : Byte) : State :=
  let n := (v - s.evw.consumer).toNat
  if n ≤ s.evw.unconsumed then
    State.followInterrupt { s with evw := { s.evw with consumer := v, written := s.evw.written.drop n } }
  else s.discard noIndex .range 132

/-- A header setup word offered to its owner in an overlay state: the port intent (R161), the PCT's settings (R93, R164), the discovery
settings (R30), the interrupt settings (R157), the consumer index (R156). `k` is the word, some field of it written. -/
def State.writeHeader (s : State) (k : Nat) (data : Word) (be : Enables) : State :=
  if k = 0 then (s.storeHeader 0 data be).actPortIntent
  else if k < 16 then
    if s.pct.port ≠ .config then s.discard noIndex .port (4 * k)
    else if k = 1 ∧ s.anyEqValid = true then s.discard noIndex .state (4 * k)
    else s.storeHeader k data be
  else if k < 32 then
    if s.pct.port ≠ .config then s.discard noIndex .state (4 * k) else s.storeHeader k data be
  else if k = 33 then s.writeConsumer (byteOf data 0)
  else (s.storeHeader k data be).followInterrupt

/-- Setup word `k` of record `i` offered to the RTB (R3, R7): the intent is stored in every state, the other fields where the record is
EMPTY, HELD or FAILED, as it stands at the write (log 9); a discarded field raises one DISCARD with reason STATE; while RUNNING a written
intent is acted on at once. -/
def State.writeRecord (s : State) (i : RecIx) (k : Nat) (data : Word) (be : Enables) : State :=
  let open_ := (s.record i).state.writable
  let intentLane : Enables := if k = 0 then 0b0001 else 0
  let kept : Enables := if open_ then be else be &&& intentLane
  let s1 := s.onRecord i (fun r => r.store k data kept)
  let s2 := if kept = be then s1 else s1.discard (indexByte i) .state (recordOffset i + 4 * k)
  if k = 0 ∧ be.getLsbD 0 ∧ s.pct.port = .running then s2.actIntent i else s2

/-- The setup half of directory entry `p` offered to the PEX (R76). -/
def State.writeDirectory (s : State) (p : DirIx) (data : Word) (be : Enables) : State :=
  if s.dirInUse p then s.discard noIndex .inUse (512 + 8 * p.val)
  else s.setDir p ((s.dirEntry p).store data be)

/-- A write in an overlay state, by the region of its word (R140, R142). -/
def State.offerWrite (s : State) (w : WinWord) (data : Word) (be : Enables) : State :=
  let n := w.toNat
  if be = 0 then s
  else if n < 64 then
    if be &&& headerLanes n = 0 then s else s.writeHeader n data (be &&& headerLanes n)
  else if n < 128 then s
  else if n < 160 then
    if n % 2 = 0 then s.writeDirectory (dirOf ((n - 128) / 2)) data be else s
  else if n < 256 then s
  else if n < 2304 then
    if n % 16 < 4 then s.writeRecord (recordOfWord w) (n % 16) data be else s
  else if n < 3328 then s
  else s.imageTouched w be

/-- A write to a window word as the part takes it, the SRAM apart (R142, R143): offered in the overlay states; in LOADING taken into the copy
if the load has already read the word; not offered in OFF. -/
def State.windowWrite (s : State) (w : WinWord) (data : Word) (be : Enables) : State :=
  if s.pct.port.overlay then (s.endSnapshots w).offerWrite w data be
  else if s.loadHasRead w then s.storeSetup w.toNat data be
  else s

/-- The window word of a bus address, if the address lies in the window (R139). -/
def State.windowWord (s : State) (a : BusAddr) : Option WinWord :=
  if a.extractLsb' 14 6 = s.bpt.base then some (a.extractLsb' 0 14) else none

/-- A processor write on the memory side (R138): it reaches SRAM unchanged, whatever the part does with it. -/
def State.sramWrite (s : State) (a : BusAddr) (data : Word) (be : Enables) : State :=
  { s with sram := Memory.writeWord s.sram a data be }

/-- A processor write: passed to SRAM (R138), and taken by the part if it lies in the window (R139). -/
def State.busWrite (s : State) (a : BusAddr) (data : Word) (be : Enables) : State :=
  let s1 := s.sramWrite a data be
  match s.windowWord a with
  | some w => s1.windowWrite w data be
  | none => s1

/-! ### Reads -/

/-- A read of word 0 of record `i` in an overlay state latches its live bytes (R144). -/
def State.latchRecord (s : State) (i : RecIx) : State :=
  { s with bpt := { s.bpt with snapHeld := true, snapIndex := i, snap := (s.record i).liveWords } }

/-- A read of header live word 0 in an overlay state latches the header live region (R146). -/
def State.latchHeader (s : State) : State :=
  { s with bpt := { s.bpt with headerHeld := true, headerSnap := headerLiveWords s } }

/-- Live word `k` of record `i` as a read in an overlay state answers it (R145). -/
def State.recordLiveAnswer (s : State) (i : RecIx) (k : Nat) : Word :=
  if s.bpt.snapHeld ∧ s.bpt.snapIndex = i then s.bpt.snap.toList.getD k 0 else (s.record i).liveWord k

/-- Header live word `k` above 0 as a read in an overlay state answers it (R146). -/
def State.headerLiveAnswer (s : State) (k : Nat) : Word :=
  if s.bpt.headerHeld then s.bpt.headerSnap.toList.getD k 0 else headerLiveWord s k

/-- A read of a window word in an overlay state, by its region (R140, R141, R144 to R147). -/
def State.overlayRead (s : State) (w : WinWord) : State :=
  let n := w.toNat
  if n < 64 then s.answerRead (s.header.word s.evw.consumer n)
  else if n < 128 then
    if n = 64 then s.latchHeader.answerRead (headerLiveWord s 0) else s.answerRead (s.headerLiveAnswer (n - 64))
  else if n < 160 then
    let e := s.dirEntry (dirOf ((n - 128) / 2))
    s.answerRead (if n % 2 = 0 then e.setupWord else e.liveWord)
  else if n < 168 then
    if n = 160 then s.pop.answerRead (s.pop.dsu.pop.word 0) else s.answerRead (s.dsu.pop.word (n - 160))
  else if n < 256 then s.answerRead (s.sramWord w)
  else if n < 2304 then
    let i := recordOfWord w
    let k := n % 16
    if k = 0 then (s.latchRecord i).answerRead ((s.record i).setupWord 0)
    else if k < 4 then s.answerRead ((s.record i).setupWord k)
    else s.answerRead (s.recordLiveAnswer i (k - 4))
  else s.answerRead (s.sramWord w)

/-- A processor read (R138, R141): what SRAM returns, or the part's answer inside the window in an overlay state. -/
def State.busRead (s : State) (a : BusAddr) : State :=
  match s.windowWord a with
  | some w => if s.pct.port.overlay then s.overlayRead w else s.answerRead (Memory.readWord s.sram a)
  | none => s.answerRead (Memory.readWord s.sram a)

/-! ### The event ring -/

/-- The window word of word `k` of ring slot `p` (11.7). -/
def ringWord (p : Byte) (k : Nat) : WinWord := BitVec.ofNat 14 (2304 + 4 * p.toNat + k)

/-- The EVW's inserted write of word `k` of an event to slot P waits, with write stage `k + 1` (R155). -/
def State.placeEventWord (s : State) (e : Event) (k : Nat) : State :=
  { s with
    evw := { s.evw with stage := k + 1 }
    bpt := { s.bpt with evwRequest := some { word := ringWord s.evw.producer k, data := e.word k } } }

/-- The head event begins to be written (R155): it waits, the ring is not full, and no write is in progress. -/
def State.startEvent (s : State) : State :=
  match s.evw.queue with
  | [] => s
  | e :: _ => if s.evw.full = false ∧ s.evw.stage = 0 then s.placeEventWord e 0 else s

/-- The fourth write of the head event has been served (R155): it leaves the queue, its cycle number joins the written cycles, P advances, and
the interrupt line follows (R158). -/
def State.finishEvent (s : State) (e : Event) : State :=
  State.followInterrupt
    { s with
      evw := { s.evw with
        queue := s.evw.queue.drop 1, written := s.evw.written ++ [e.cycle], producer := s.evw.producer + 1, stage := 0 }
      bpt := { s.bpt with evwRequest := none } }

/-- After a served event word: the next word's write is placed, or the record is finished (R155). -/
def State.eventServed (s : State) : State :=
  match s.evw.queue with
  | [] => { s with evw := { s.evw with stage := 0 }, bpt := { s.bpt with evwRequest := none } }
  | e :: _ => if s.evw.stage < 4 then s.placeEventWord e s.evw.stage else s.finishEvent e

/-! ### Served inserted accesses -/

/-- An inserted request has been served: the consecutive-access count becomes 0 (R149). -/
def State.servedOne (s : State) : State := { s with bpt := { s.bpt with consecutive := 0 } }

/-- The EVW's request served (R148, R155): the SRAM word takes the event word. -/
def State.serveEvent (s : State) (r : WriteRequest) : State :=
  ((s.sramWrite (s.busAddr r.word) r.data 0b1111).servedOne).eventServed

/-- A channel's request served (R148, R83): the SRAM word as it stands reaches the channel, or is discarded (R90). -/
def State.serveChannel (s : State) (ch : ChanIx) (r : ReadRequest) : State :=
  let s1 := (s.setRequest ch none).servedOne
  if r.dropped then s1.resume ch else s1.deliver ch (s.sramWord r.word)

/-- The PCT's request served (R148, R160). -/
def State.serveLoad (s : State) (w : WinWord) : State := s.servedOne.loadServed (s.sramWord w)

/-- The lowest-indexed channel whose request waits (R148). -/
def State.firstChannelWaiting (s : State) : Option (ChanIx × ReadRequest) :=
  allChannels.findSome? (fun ch => (s.chanRequest ch).map (fun r => (ch, r)))

/-- The request that ranks highest is served (R148): the EVW's, then the channels' in index order, then the PCT's. -/
def State.serveHighest (s : State) : State :=
  match s.bpt.evwRequest with
  | some r => s.serveEvent r
  | none =>
    match s.firstChannelWaiting with
    | some (ch, r) => s.serveChannel ch r
    | none =>
      match s.bpt.loadRequest with
      | some w => s.serveLoad w
      | none => s

/-! ### The arbiter -/

/-- A 17th consecutive processor access would be held (R149). -/
def State.holdDue (s : State) : Bool := s.bpt.waiting && decide (Config.holdAfter ≤ s.bpt.consecutive)

/-- A processor access is held for one bus cycle (R149): the highest-ranked request is served, the count is 0, the stretch is counted. -/
def State.holdAccess (s : State) : State := s.serveHighest.servedOne.count .stretched

/-- A processor access reaches the memory side (R149): the count rises by 1 while a request waits, and is 0 while none does. -/
def State.passAccess (s : State) : State :=
  { s with bpt := { s.bpt with consecutive := if s.bpt.waiting then s.bpt.consecutive + 1 else 0 } }

/-- The memory-side arbiter before a processor access has its effects (R149). -/
def State.arbiter (s : State) : State := if s.holdDue then s.holdAccess.passAccess else s.passAccess

/-- A processor access, whole (R138, R141, R142, R149). -/
def State.access (s : State) (a : Access) : State :=
  match a with
  | .read addr => s.arbiter.busRead addr
  | .write addr data be => s.arbiter.busWrite addr data be

/-- A processor write to a window word. -/
def State.accessWord (s : State) (w : WinWord) (data : Word) (be : Enables) : State := s.access (.write (s.busAddr w) data be)

/-- A processor read of a window word. -/
def State.readWindow (s : State) (w : WinWord) : State := s.access (.read (s.busAddr w))

/-- The intent word of record `i` (R1). -/
def intentWord (i : RecIx) : WinWord := BitVec.ofNat 14 (256 + 16 * i.val)

end Sys2Proof.Machine
end

