-- ==== Sys2Proof/Machine/PortCommands.lean ====
section
/-! DEFINITION. The meanings of the commands of reset, load, port and interrupt (chapters 9 and 10). -/

namespace Sys2Proof.Machine

/-- What a command answers. -/
abbrev Result := Host.Outcome State Fault Refusal

/-- HARDWARE_RESET (R150, R160): the port is OFF and every block takes its reset values; SRAM keeps its contents, the commands that wait stay,
and the window base is held until the release (R139; log 5). -/
def execHardwareReset (s : State) : Result :=
  .next { State.reset with sram := s.sram, pending := s.pending, bpt := { Bpt.reset with base := s.bpt.base } }

/-- RESET_RELEASE (R139, R160): in OFF, the straps become the window base, the port is LOADING and the first load read waits. -/
def execResetRelease (straps : BitVec 6) (s : State) : Result :=
  if s.pct.port = .off then
    .next (State.placeLoad { s with pct := { s.pct with port := .loading }, bpt := { s.bpt with base := straps } } 0)
  else .next s

/-- LOAD_READ (R148, R160): the load's read is served in LOADING when no request that ranks above it waits. -/
def execLoadRead (s : State) : Result :=
  if s.pct.port = .loading ∧ s.bpt.evwRequest = none ∧ s.firstChannelWaiting = none then
    match s.bpt.loadRequest with
    | some w => .next (s.serveLoad w)
    | none => .next s
  else .next s

/-- PORT_INTENT_CONFIG (R161): a processor write of CONFIG to the port intent. -/
def execPortIntentConfig (high : BitVec 24) (he : BitVec 3) (s : State) : Result :=
  .next (s.accessWord 0 (withLane0 1 high) (enableLane0 he))

/-- PORT_INTENT_RUN (R161, R162): a processor write of RUN to the port intent. -/
def execPortIntentRun (high : BitVec 24) (he : BitVec 3) (s : State) : Result :=
  .next (s.accessWord 0 (withLane0 2 high) (enableLane0 he))

/-- PORT_INTENT_HALT (R161, R163): a processor write of HALT, or of a value that is acted on as HALT, to the port intent. -/
def execPortIntentHalt (value : Byte) (high : BitVec 24) (he : BitVec 3) (s : State) : Result :=
  .next (s.accessWord 0 (withLane0 value high) (enableLane0 he))

/-- DRAIN_COMPLETE (R163): in DRAINING, with the urgent list empty and the quiet state IDLE, the port enters CONFIG. -/
def execDrainComplete (s : State) : Result :=
  if s.pct.port = .draining ∧ s.drained = true then .next s.enterConfig else .next s

/-- CONSUMER_INDEX_WRITE (R156): a processor write of the consumer index. -/
def execConsumerIndexWrite (value : Byte) (high : BitVec 24) (he : BitVec 3) (s : State) : Result :=
  .next (s.accessWord 33 (withLane0 value high) (enableLane0 he))

/-- INTERRUPT_HOLD (R158): while the hold condition holds, the interrupt line follows it. -/
def execInterruptHold (s : State) : Result := if s.holdCondition then .next s.followInterrupt else .next s

/-- EVENT_WRITE_START (R155): the head event begins to be written. -/
def execEventWriteStart (s : State) : Result := .next s.startEvent

/-- EVENT_WORD_WRITTEN (R148, R155): the EVW's request is served. -/
def execEventWordWritten (s : State) : Result :=
  match s.bpt.evwRequest with
  | some r => .next (s.serveEvent r)
  | none => .next s

end Sys2Proof.Machine
end

