-- ==== Sys2Proof/Machine/Reception.lean ====
section
/-! DEFINITION. The Burst Receiver (chapter 6): preamble, delimiter and mark (R113 to R115), bytes and kinds (R116, R117), complete bursts (R118 to R122), and the line bits of the sample lane. -/

namespace Sys2Proof.Machine

/-! ### Forms on the line -/

/-- The straight delimiter 1011010000011101 in the order sent (R114). -/
def straightDelimiter : List Bool :=
  [true, false, true, true, false, true, false, false, false, false, false, true, true, true, false, true]

/-- The crossed delimiter 0100011111010010 in the order sent (R114). -/
def crossedDelimiter : List Bool :=
  [false, true, false, false, false, true, true, true, true, true, false, true, false, false, true, false]

/-- The convention whose delimiter the 16 samples match (R114). -/
def delimiterConv (xs : List Bool) : Option Conv :=
  if xs = straightDelimiter then some .straight else if xs = crossedDelimiter then some .crossed else none

/-- The number whose bits are given least significant first. -/
def natOfBits : List Bool → Nat
  | [] => 0
  | b :: bs => b.toNat + 2 * natOfBits bs

/-- The byte of a group of 8 samples (R116): straight, bit 0 first and level 1 a 1; crossed, bit 7 first and level 0 a 1. -/
def byteOfSamples (conv : Conv) (xs : List Bool) : Byte :=
  match conv with
  | .crossed => BitVec.ofNat 8 (natOfBits (xs.reverse.map (fun b => !b)))
  | .straight => BitVec.ofNat 8 (natOfBits xs)
  | .unknown => BitVec.ofNat 8 (natOfBits xs)

/-- The low nibble of a kind byte (R117). -/
def kindLow (b : Byte) : Nat := b.toNat % 16

/-- The kind a kind byte is accepted as (R117). -/
def kindOf (b : Byte) : Option BurstKind :=
  let high := b.toNat / 16
  if high = 1 then (if kindLow b = 0 then some .hello else none)
  else if high = 2 then some .echo
  else if high = 3 then (if 1 ≤ kindLow b ∧ kindLow b ≤ 3 then some .status else none)
  else none

/-- The payload bytes of a kind (R117). -/
def BurstKind.payloadBytes : BurstKind → Nat
  | .hello => 11
  | .echo => 1
  | .status => 4

/-- The kind an armed interval expects (R120). -/
def Interval.expects : Interval → BurstKind
  | .discovery _ => .hello
  | .ranging _ _ _ => .echo
  | .slot _ _ _ _ _ => .status

/-- The line number a STATUS must carry in an interval: that of the record of a slot's booking, its index plus 1 (R121). -/
def Interval.senderOk (id : Interval) (line : Nat) : Bool :=
  match id with
  | .slot _ _ _ i _ => decide (line = i.val + 1)
  | .discovery _ => true
  | .ranging _ _ _ => true

/-! ### Hunting -/

/-- The sample alternates: its value differs from that of the sample before it (R113). -/
def Brx.alternates (b : Brx) (x : Sample) : Bool :=
  match b.previous with
  | none => false
  | some v => decide (v ≠ x.value)

/-- The phases of the latest four samples, newest first, with a sample's own. -/
def HuntRecord.withPhase (h : HuntRecord) (x : Sample) : HuntRecord := { h with phases := (x.phase :: h.phases).take 4 }

/-- A sample in PREAMBLE (R113) at line bit `p` from the reference: the run grows or starts anew, and at 32 the preamble is recognized. -/
def Brx.preambleSample (b : Brx) (p : Int) (x : Sample) : Brx :=
  let run := if b.alternates x then b.run + 1 else 1
  let h := b.record.withPhase x
  if Config.recognizeRun ≤ run then
    { b with
      hunt := .delimiter, run := Config.recognizeRun, previous := some x.value
      record := { h with recognized := p, passed := 0, candidate := none, held := [] } }
  else { b with run := run, previous := some x.value, record := h }

/-- The break at line bit `p` (R114): on a 0 the candidate delimiter start is p, on a 1 it is p - 3; the sample before it is the last
preamble bit, whose line bit and phase are B and φ (R115). -/
def HuntRecord.atBreak (h : HuntRecord) (p : Int) (x : Sample) : HuntRecord :=
  if x.value then
    { h with candidate := some (p - 3), held := [true, false, true, true], lineBit := p - 4, phase := h.phases.getD 3 0 }
  else { h with candidate := some p, held := [false], lineBit := p - 1, phase := h.phases.getD 0 0 }

/-- The arrival mark of a delimiter (R115). -/
def arrivalMark (lineBit : Int) (phase : BitVec 4) : Int := 16 * lineBit + (phase.toNat : Int) + 16

/-- The delimiter matched a form (R114, R115): the convention and the mark are fixed and the body begins. -/
def HuntRecord.matched (h : HuntRecord) (conv : Conv) : HuntRecord :=
  { h with conv := conv, mark := arrivalMark h.lineBit h.phase, bits := [], bytes := [], expected := none }

/-- The BRX replaced. -/
def State.setBrx (s : State) (b : Brx) : State := { s with brx := b }

/-- After a garble or a complete burst: PREAMBLE with run length 0 (R114, R117, R118). These rules do not say what becomes of the hunt record,
at a garble before completion (no delimiter, bad delimiter, unknown kind) or after a complete burst: that it is emptied is the model's
choice (DESIGN CHOICE, log 38). -/
def State.rehunt (s : State) : State :=
  s.setBrx { s.brx with hunt := .preamble, run := 0, record := HuntRecord.empty }

/-- A garbled burst (R119): counted, reported to the DSU with the interval's identity, and the hunt resumes. -/
def State.garble (s : State) (id : Interval) : State := ((s.rehunt).count .garbledBursts).markGarbled id

/-- A sample in DELIMITER before the break (R114): the break, or one of at most 128 alternating samples. -/
def State.seekBreak (s : State) (id : Interval) (p : Int) (x : Sample) : State :=
  let h := s.brx.record
  if s.brx.alternates x then
    if h.passed + 1 < Config.breakLimit then
      s.setBrx { s.brx with previous := some x.value, record := { h.withPhase x with passed := h.passed + 1 } }
    else (s.setBrx { s.brx with previous := some x.value }).garble id
  else s.setBrx { s.brx with previous := some x.value, record := (h.atBreak p x).withPhase x }

/-- A sample in DELIMITER from the break on (R114): the 16 samples from the candidate start are compared with both forms. -/
def State.compareDelimiter (s : State) (id : Interval) (x : Sample) : State :=
  let h := s.brx.record
  let held := h.held ++ [x.value]
  let s1 := s.setBrx { s.brx with previous := some x.value, record := { h with held := held } }
  if held.length < 16 then s1
  else
    match delimiterConv held with
    | some conv => s1.setBrx { s1.brx with hunt := .body, record := HuntRecord.matched { h with held := held } conv }
    | none => s1.garble id

/-! ### Complete bursts -/

/-- The body without its check: the kind byte and the payload. -/
def HuntRecord.checked (h : HuntRecord) : List Byte := h.bytes.take (h.bytes.length - 2)

/-- The check field, least significant byte first (R118). -/
def HuntRecord.checkField (h : HuntRecord) : Nat := natLE (h.bytes.drop (h.bytes.length - 2))

/-- The check of a complete burst agrees (R118). -/
def HuntRecord.checkOk (h : HuntRecord) : Bool := decide ((crc16 h.checked).toNat = h.checkField)

/-- The declared response time of a HELLO lies in 1,024..8,191 (R118). -/
def respOk (kind : BurstKind) (payload : List Byte) : Bool :=
  decide (kind ≠ .hello) || (decide (1024 ≤ helloResp payload) && decide (helloResp payload ≤ 8191))

/-- The capture entry of a valid burst (R122). -/
def HuntRecord.capture (h : HuntRecord) (kind : BurstKind) (id : Interval) : Capture :=
  { kind := kind, low := kindLow (byteAt h.bytes 0), payload := h.checked.drop 1, mark := h.mark, conv := h.conv, interval := id }

/-- A valid burst goes to the capture queue, or is stray, of the wrong sender, or lost to an overrun (R120 to R122). -/
def State.queueCapture (s : State) (c : Capture) : State :=
  if c.kind ≠ c.interval.expects then s.count .strayBursts
  else if c.interval.senderOk (byteAt c.payload 0).toNat = false then s.count .wrongSender
  else if s.brx.queue.length < Config.capturePlaces then s.setBrx { s.brx with queue := s.brx.queue ++ [c] }
  else s.count .captureOverruns

/-- A complete burst (R118): its check, then its response time, then where it goes; the hunt resumes. -/
def State.completeBurst (s : State) (id : Interval) (kind : BurstKind) (h : HuntRecord) : State :=
  if h.checkOk && respOk kind (h.checked.drop 1) then (s.rehunt).queueCapture (h.capture kind id) else s.garble id

/-- A byte of the body (R117, R118): the kind byte fixes what is to come, the last byte completes the burst. -/
def State.bodyByte (s : State) (id : Interval) (b : Byte) : State :=
  let h := s.brx.record
  let h1 := { h with bits := [], bytes := h.bytes ++ [b] }
  match h.expected with
  | none =>
    match kindOf b with
    | none => s.garble id
    | some kind => s.setBrx { s.brx with record := { h1 with expected := some (kind.payloadBytes + 2) } }
  | some n =>
    if 1 < n then s.setBrx { s.brx with record := { h1 with expected := some (n - 1) } }
    else
      match kindOf (byteAt h1.bytes 0) with
      | some kind => s.completeBurst id kind h1
      | none => s.garble id

/-- A sample in BODY (R116): every eighth makes a byte. -/
def State.bodySample (s : State) (id : Interval) (x : Sample) : State :=
  let h := s.brx.record
  let bits := h.bits ++ [x.value]
  let s1 := s.setBrx { s.brx with previous := some x.value }
  if bits.length < 8 then s1.setBrx { s1.brx with record := { h with bits := bits } }
  else s1.bodyByte id (byteOfSamples h.conv bits)

/-! ### Line bits -/

/-- The length of the OPEN window of this identity has run out (R103). -/
def State.quietLengthOver (s : State) (id : Interval) : Bool :=
  match s.ltu.quiet with
  | .opened w => decide (w.interval = id) && decide ((w.length : Int) ≤ s.ltu.since w.cq)
  | .idle => false
  | .asked _ => false
  | .given _ => false

/-- The end of an armed interval has come (R103, R105): no later line bit belongs to it. -/
def State.intervalOver (s : State) (id : Interval) : Bool :=
  match id with
  | .slot _ ct j _ _ => decide ((s.arrivalEnd j : Int) ≤ s.ltu.since ct)
  | .discovery _ => s.quietLengthOver id
  | .ranging _ _ _ => s.quietLengthOver id

/-- A sample of the lane at the present line bit, as the BRX takes it (R112, R113): no effect while disarmed. -/
def State.brxSample (s : State) (x : Sample) : State :=
  match s.ltu.armed with
  | none => s
  | some id =>
    if s.intervalOver id then s
    else
      match s.brx.hunt with
      | .disarmed => s
      | .preamble => s.setBrx (s.brx.preambleSample (s.ltu.since id.ref) x)
      | .delimiter =>
        match s.brx.record.candidate with
        | none => s.seekBreak id (s.ltu.since id.ref) x
        | some _ => s.compareDelimiter id x
      | .body => s.bodySample id x

/-- The present line bit passes (R92): the line offset rises by 1. -/
def State.nextLineBit (s : State) : State := { s with ltu := { s.ltu with offset := s.ltu.offset + 1 } }

/-- A line bit of the lane: the BRX takes its sample and the line bit passes. -/
def State.laneSample (s : State) (x : Sample) : State := (s.brxSample x).nextLineBit

/-- A dark line bit: level 0, no transition (log 2). -/
def darkSample : Sample := { value := false, phase := 0 }

/-! ### The reception steps -/

/-- Where the hunt stands, as the rows of the reception steps divide it: in the preamble, before the break, comparing the delimiter, at the
kind byte, in the rest of the body. -/
inductive HuntPhase where
  | preamble | seeking | comparing | kind | rest
  deriving DecidableEq, Repr

/-- The phase of the hunt, none while disarmed. -/
def Brx.phase (b : Brx) : Option HuntPhase :=
  match b.hunt with
  | .disarmed => none
  | .preamble => some .preamble
  | .delimiter => if b.record.candidate.isSome then some .comparing else some .seeking
  | .body => if b.record.expected.isSome then some .rest else some .kind

/-- The BRX is armed, in its interval, and in one of the phases. -/
def State.huntsIn (s : State) (ps : List HuntPhase) : Bool :=
  (match s.ltu.armed with
    | none => false
    | some id => !s.intervalOver id) &&
    (match s.brx.phase with
      | none => false
      | some p => ps.contains p)

/-- Samples taken one by one while the hunt stays in the phases of the step (log 17). -/
def State.feed (ps : List HuntPhase) : List Sample → State → State
  | [], s => s
  | x :: xs, s => if s.huntsIn ps then State.feed ps xs (s.laneSample x) else s

end Sys2Proof.Machine
end

