-- ==== Sys2Proof/Machine/LineCommands.lean ====
section
/-! DEFINITION. The meanings of the commands of the framer, the scheduler, line time and the sample lane (chapters 2, 5, 6, 7). -/

namespace Sys2Proof.Machine

/-- CYCLE(c) (R94, R95). -/
def execCycle (c : Cycle) (s : State) : Result := .next (s.cycleStart c)

/-- ROUND_DUE (R31, R32): with a round due and wanted in a RUNNING port with the line up and the round state NONE, the DSU presents
discovery demand (log 19). -/
def execRoundDue (s : State) : Result := if s.discoveryDemand then .next s.presentDemand else .next s

/-- QUIET_TIMEOUT (R101). -/
def execQuietTimeout (s : State) : Result := .next s.timeOutAsk

/-- FETCH(c) (R129 to R132). -/
def execFetch (c : Cycle) (s : State) : Result := .next (s.takeFetch c)

/-- LINE_DOWN (R96). -/
def execLineDown (s : State) : Result := .next s.lineFalls

/-- LINE_UP (R96). -/
def execLineUp (s : State) : Result := .next s.lineRises

/-- GIVE(c_q) (R100). -/
def execGive (cq : Cycle) (s : State) : Result := .next (s.takeGive cq)

/-- DENY (R100). -/
def execDeny (s : State) : Result := .next s.takeDeny

/-- REVOKE (R102, R103). -/
def execRevoke (s : State) : Result := .next s.takeRevoke

/-- ARM_INTERVAL_START (R110, R112): the interval of the present line bit begins. -/
def execArmIntervalStart (s : State) : Result := .next s.startInterval

/-- QUIET_WINDOW_END (R103). -/
def execQuietWindowEnd (s : State) : Result := .next s.windowRunsOut

/-- SLOT_ARRIVAL_END (R108): the arrival end of slot (c_t, j) has passed. -/
def execSlotArrivalEnd (ct : Cycle) (j : Fin 8) (s : State) : Result :=
  match s.slotAt ct j.val with
  | some e => if s.slotOver ct j.val then .next (s.slotEnds e) else .next s
  | none => .next s

/-- SLOT_END_REPORT (R108): slot (c_t, j) past its arrival end, booked with no capture of it waiting, or voided meanwhile. -/
def execSlotEndReport (ct : Cycle) (j : Fin 8) (s : State) : Result :=
  match s.slotAt ct j.val with
  | some e => if s.slotJudged e then .next (s.slotUnanswered e) else .next s
  | none => .next s

/-- PREAMBLE_RECOGNIZED (R113): samples in PREAMBLE, up to the recognition line bit. -/
def execPreambleRecognized (samples : List Sample) (s : State) : Result := .next (State.feed [.preamble] samples s)

/-- NO_DELIMITER (R114): samples in DELIMITER before a break, up to the 128th after recognition, which garbles the burst. -/
def execNoDelimiter (samples : List Sample) (s : State) : Result := .next (State.feed [.seeking] samples s)

/-- DELIMITER_COMPARED (R114, R115): samples in DELIMITER, up to the sixteenth from the candidate start, which is compared. -/
def execDelimiterCompared (samples : List Sample) (s : State) : Result :=
  .next (State.feed [.seeking, .comparing] samples s)

/-- KIND_BYTE (R117): samples in BODY, up to the eighth, which completes the kind byte. -/
def execKindByte (samples : List Sample) (s : State) : Result := .next (State.feed [.kind] samples s)

/-- BURST_COMPLETE (R118 to R122): samples in BODY after the kind byte, up to the last check bit, which completes the burst. -/
def execBurstComplete (samples : List Sample) (s : State) : Result := .next (State.feed [.rest] samples s)

end Sys2Proof.Machine
end

