-- ==== Sys2Proof/Machine/UnitCommands.lean ====
section
/-! DEFINITION. The meanings of the internal steps of the units: captures taken (R123), rounds and attempts ended, outcomes applied (R25; chapters 2, 3, 4). -/

namespace Sys2Proof.Machine

/-- HELLO_TAKE (R35, R123): the DSU takes its oldest capture. -/
def execHelloTake (s : State) : Result :=
  match s.oldestCapture Capture.isHello with
  | some c => .next ((s.takeCapture c).handleHello c)
  | none => .next s

/-- DISCOVERY_ROUND_COMPLETE (R41, R42): the window has ended and its captures are handled. -/
def execDiscoveryRoundComplete (s : State) : Result :=
  match s.dsu.round with
  | .opened w => if s.roundFinished w then .next (s.completeRound w) else .next s
  | .idle => .next s
  | .asking _ => .next s

/-- ECHO_TAKE (R57, R123): the RGU takes its oldest capture, where that is an ECHO. -/
def execEchoTake (s : State) : Result :=
  match s.oldestCapture Capture.isRanging with
  | some c => if c.kind = .echo then .next ((s.takeCapture c).handleEcho c) else .next s
  | none => .next s

/-- ATTEMPT_JUDGE (R58 to R65). -/
def execAttemptJudge (s : State) : Result :=
  match s.rgu.attempt with
  | some a => if s.attemptFinished a then .next (s.judge a) else .next s
  | none => .next s

/-- SETTLE_REPLY (R70, R123): the RGU takes its oldest capture, where that is a SETTLE. -/
def execSettleReply (s : State) : Result :=
  match s.oldestCapture Capture.isRanging with
  | some c => if c.kind = .status then .next ((s.takeCapture c).handleSettle c) else .next s
  | none => .next s

/-- BLOCK_REPLY (R86, R123): the PEX takes its oldest ACK or NAK. -/
def execBlockReply (s : State) : Result :=
  match s.oldestCapture Capture.isBlockReply with
  | some c => .next ((s.takeCapture c).handleBlockReply c)
  | none => .next s

/-- RANGING_OUTCOME (R17, R25): the oldest ranging outcome on its way is applied, or dropped as stale. -/
def execRangingOutcome (s : State) : Result :=
  match s.rgu.reports with
  | p :: rest =>
    let s1 : State := { s with rgu := { s.rgu with reports := rest } }
    if s.rangingCurrent p then .next (s1.applyRanging p.index p.outcome) else .next s1
  | [] => .next s

/-- The settle state and outcome of record `i` that is current (R25): the record is SETTLING and its sequence has reported. -/
def State.settleCurrent (s : State) (i : RecIx) : Option (Settle × SettleOutcome) :=
  if (s.record i).state = .settling then
    match s.settle i with
    | some x => x.report.map (fun o => (x, o))
    | none => none
  else none

/-- SETTLE_OUTCOME (R20, R25): the oldest settle outcome on its way is applied, or dropped as stale. -/
def execSettleOutcome (s : State) : Result :=
  match s.rgu.settleReports with
  | i :: rest =>
    let s1 : State := { s with rgu := { s.rgu with settleReports := rest } }
    match s.settleCurrent i with
    | some (x, o) => .next (s1.applySettle i x o)
    | none => .next s1
  | [] => .next s

/-- The push outcome of a report that is current (R25): its channel still holds the ended push of a PROFILING record. -/
def State.pushCurrent (s : State) (p : PushReport) : Option PushOutcome :=
  if (s.record p.index).state = .profiling ∧ (s.chan p.chan).index = p.index then
    match (s.chan p.chan).stage with
    | .reported o => some o
    | .free => none
    | .scanning => none
    | .filling => none
    | .ready => none
    | .sent _ _ _ => none
  else none

/-- PROFILE_OUTCOME (R19, R25): the oldest push outcome on its way is applied, or dropped as stale. -/
def execProfileOutcome (s : State) : Result :=
  match s.pex.reports with
  | p :: rest =>
    let s1 : State := { s with pex := { s.pex with reports := rest } }
    match s.pushCurrent p with
    | some o => .next (s1.applyPush p.index p.chan o)
    | none => .next s1
  | [] => .next s

end Sys2Proof.Machine
end

