-- ==== Sys2Proof/Machine/WindowCommands.lean ====
section
/-! DEFINITION. The meanings of the commands of the processor's bus: record intents, setup and image writes, reads with effects, the arbiter (chapters 1, 8). -/

namespace Sys2Proof.Machine

/-- INTENT_ADMIT (R7, R9): a processor write of ADMIT to the intent of record `i`. -/
def execIntentAdmit (i : RecIx) (high : BitVec 24) (he : BitVec 3) (s : State) : Result :=
  .next (s.accessWord (intentWord i) (withLane0 1 high) (enableLane0 he))

/-- INTENT_HOLD (R7, R8): a processor write of HOLD to the intent of record `i`. -/
def execIntentHold (i : RecIx) (high : BitVec 24) (he : BitVec 3) (s : State) : Result :=
  .next (s.accessWord (intentWord i) (withLane0 2 high) (enableLane0 he))

/-- INTENT_VACANT (R7, R8): a processor write of VACANT to the intent of record `i`. -/
def execIntentVacant (i : RecIx) (high : BitVec 24) (he : BitVec 3) (s : State) : Result :=
  .next (s.accessWord (intentWord i) (withLane0 0 high) (enableLane0 he))

/-- SETUP_WRITE (R142, R143): a processor write to a held word. -/
def execSetupWrite (w : WinWord) (data : Word) (be : Enables) (s : State) : Result := .next (s.accessWord w data be)

/-- IMAGE_WRITE (R91): a processor write into the image area. -/
def execImageWrite (w : WinWord) (data : Word) (be : Enables) (s : State) : Result := .next (s.accessWord w data be)

/-- RECORD_SNAPSHOT_READ (R144): a processor read of word 0 of record `i`. -/
def execRecordSnapshotRead (i : RecIx) (s : State) : Result := .next (s.readWindow (intentWord i))

/-- HEADER_SNAPSHOT_READ (R146): a processor read of header live word 0. -/
def execHeaderSnapshotRead (s : State) : Result := .next (s.readWindow 64)

/-- POP_READ (R46): a processor read of pop word 0. -/
def execPopRead (s : State) : Result := .next (s.readWindow 160)

/-- IMAGE_READ (R83, R148): the read of channel `ch` is served when no request that ranks above it waits. -/
def execImageRead (ch : ChanIx) (s : State) : Result :=
  if s.bpt.evwRequest = none then
    match s.firstChannelWaiting with
    | some (k, r) => if k = ch then .next (s.serveChannel ch r) else .next s
    | none => .next s
  else .next s

/-- ACCESS_HOLD (R149): a 17th consecutive access is held for one bus cycle, then reaches the memory side; while no hold is due there is
nothing to hold (log 14). -/
def execAccessHold (acc : Access) (s : State) : Result := if s.holdDue then .next (s.access acc) else .next s

/-- CONSECUTIVE_ACCESS (R149): a processor access, through the memory-side arbiter (log 14). -/
def execConsecutiveAccess (acc : Access) (s : State) : Result := .next (s.access acc)

end Sys2Proof.Machine
end

