-- ==== Sys2Proof/Machine/Dispatch.lean ====
section
/-! DEFINITION. Which meaning each command has: one arm per row of spec/opcode_table.json. -/

namespace Sys2Proof.Machine

/-- The effect of a command on everything but the queue of commands. -/
def exec (i : Instr) (s : State) : Host.Outcome State Fault Refusal :=
  match i with
  | .hardwareReset => Sys2Proof.Machine.execHardwareReset s
  | .resetRelease straps => Sys2Proof.Machine.execResetRelease straps s
  | .loadRead => Sys2Proof.Machine.execLoadRead s
  | .intentAdmit k high he => Sys2Proof.Machine.execIntentAdmit k high he s
  | .intentHold k high he => Sys2Proof.Machine.execIntentHold k high he s
  | .intentVacant k high he => Sys2Proof.Machine.execIntentVacant k high he s
  | .setupWrite w data be => Sys2Proof.Machine.execSetupWrite w data be s
  | .portIntentConfig high he => Sys2Proof.Machine.execPortIntentConfig high he s
  | .portIntentRun high he => Sys2Proof.Machine.execPortIntentRun high he s
  | .portIntentHalt value high he => Sys2Proof.Machine.execPortIntentHalt value high he s
  | .drainComplete => Sys2Proof.Machine.execDrainComplete s
  | .consumerIndexWrite value high he => Sys2Proof.Machine.execConsumerIndexWrite value high he s
  | .imageWrite w data be => Sys2Proof.Machine.execImageWrite w data be s
  | .recordSnapshotRead k => Sys2Proof.Machine.execRecordSnapshotRead k s
  | .headerSnapshotRead => Sys2Proof.Machine.execHeaderSnapshotRead s
  | .popRead => Sys2Proof.Machine.execPopRead s
  | .cycle c => Sys2Proof.Machine.execCycle c s
  | .roundDue => Sys2Proof.Machine.execRoundDue s
  | .quietTimeout => Sys2Proof.Machine.execQuietTimeout s
  | .interruptHold => Sys2Proof.Machine.execInterruptHold s
  | .fetch c => Sys2Proof.Machine.execFetch c s
  | .lineDown => Sys2Proof.Machine.execLineDown s
  | .lineUp => Sys2Proof.Machine.execLineUp s
  | .give cq => Sys2Proof.Machine.execGive cq s
  | .deny => Sys2Proof.Machine.execDeny s
  | .revoke => Sys2Proof.Machine.execRevoke s
  | .armIntervalStart => Sys2Proof.Machine.execArmIntervalStart s
  | .quietWindowEnd => Sys2Proof.Machine.execQuietWindowEnd s
  | .slotArrivalEnd ct j => Sys2Proof.Machine.execSlotArrivalEnd ct j s
  | .slotEndReport ct j => Sys2Proof.Machine.execSlotEndReport ct j s
  | .noDelimiter samples => Sys2Proof.Machine.execNoDelimiter samples s
  | .burstComplete samples => Sys2Proof.Machine.execBurstComplete samples s
  | .helloTake => Sys2Proof.Machine.execHelloTake s
  | .discoveryRoundComplete => Sys2Proof.Machine.execDiscoveryRoundComplete s
  | .echoTake => Sys2Proof.Machine.execEchoTake s
  | .attemptJudge => Sys2Proof.Machine.execAttemptJudge s
  | .settleReply => Sys2Proof.Machine.execSettleReply s
  | .blockReply => Sys2Proof.Machine.execBlockReply s
  | .imageRead ch => Sys2Proof.Machine.execImageRead ch s
  | .rangingOutcome => Sys2Proof.Machine.execRangingOutcome s
  | .settleOutcome => Sys2Proof.Machine.execSettleOutcome s
  | .profileOutcome => Sys2Proof.Machine.execProfileOutcome s
  | .eventWriteStart => Sys2Proof.Machine.execEventWriteStart s
  | .eventWordWritten => Sys2Proof.Machine.execEventWordWritten s
  | .accessHold acc => Sys2Proof.Machine.execAccessHold acc s
  | .preambleRecognized samples => Sys2Proof.Machine.execPreambleRecognized samples s
  | .delimiterCompared samples => Sys2Proof.Machine.execDelimiterCompared samples s
  | .kindByte samples => Sys2Proof.Machine.execKindByte samples s
  | .consecutiveAccess acc => Sys2Proof.Machine.execConsecutiveAccess acc s

end Sys2Proof.Machine
end

