-- ==== Sys2Proof/Machine/Terminal.lean ====
section
/-! DEFINITION. The terminal's side as far as the part relies on it (R28, R55, R69, R85, R125 to R128), as plain functions outside State (log 21), and a burst as it stands on the line (11.9). -/

namespace Sys2Proof.Machine

/-- What a terminal holds: its own serial, response time and convention; its line number (0 while unassigned), whether it is in service,
its skip count (R28), equalization in sixteenths and span geometry (R127), profile sum and next block (R85), orphan count (R128). -/
structure Terminal where
  serial : Serial
  resp : Nat
  conv : Conv
  line : Nat
  inService : Bool
  skip : Nat
  eq16 : Nat
  spanStart : Nat
  slotLen : Nat
  sum : Nat
  nextBlock : Nat
  orphan : Nat
  deriving DecidableEq, Repr

/-- A terminal at power-up: unassigned, skip count 0 (R28). -/
def Terminal.powerUp (serial : Serial) (resp : Nat) (conv : Conv) : Terminal :=
  { serial := serial, resp := resp, conv := conv, line := 0, inService := false, skip := 0, eq16 := 0
    spanStart := 0, slotLen := 0, sum := 0, nextBlock := 0, orphan := 0 }

/-- The terminal is assigned (R28). -/
def Terminal.assigned (t : Terminal) : Bool := decide (t.line ≠ 0)

/-- A burst a terminal sends: the cycle after that of the message, the sixteenths after that cycle's start is received, and the kind byte with
its payload. -/
structure TerminalReply where
  delta : Nat
  start16 : Nat
  body : List Byte
  deriving DecidableEq, Repr

/-- A kind byte (11.9). -/
def kindByteOf (kind low : Nat) : Byte := BitVec.ofNat 8 (16 * kind + low)

/-- The HELLO of a terminal in slot `r` (R28). -/
def Terminal.hello (t : Terminal) (r : Nat) : TerminalReply :=
  { delta := 0, start16 := 16 * (t.resp + r * Config.helloPitch)
    body := kindByteOf 1 0 :: (bytesLE 8 t.serial.toNat ++ bytesLE 2 t.resp ++ [BitVec.ofNat 8 r]) }

/-- ECHO `i` of a terminal (R55): the equalization delay is not added. -/
def Terminal.echo (t : Terminal) (i : Nat) : TerminalReply :=
  { delta := 0, start16 := 16 * (t.resp + i * Config.echoPitch), body := [kindByteOf 2 i, BitVec.ofNat 8 t.line] }

/-- A STATUS of a terminal in the slot a reply byte names (R69, R85). -/
def Terminal.status (t : Terminal) (code : Nat) (sequence : Byte) (reply : Byte) : TerminalReply :=
  { delta := reply.toNat / 16
    start16 := 16 * t.resp + t.eq16 + 16 * (t.spanStart + reply.toNat % 8 * t.slotLen)
    body := kindByteOf 3 code :: BitVec.ofNat 8 t.line :: sequence :: bytesLE 2 t.sum }

/-- The terminal becomes unassigned with skip count 0, and clears what a RELEASE clears (R126). That its span geometry goes with its
equalization is the model's choice: the rules name the equalization alone (DESIGN CHOICE, log 39). -/
def Terminal.unassign (t : Terminal) : Terminal :=
  { t with line := 0, inService := false, skip := 0, eq16 := 0, spanStart := 0, slotLen := 0, sum := 0, nextBlock := 0, orphan := 0 }

/-- A message is received: 24 bytes whose check agrees (R125). -/
def messageReceived (m : List Byte) : Bool := decide (m.length = 24) && decide ((crc16 (m.take 22)).toNat = natLE (m.drop 22))

/-- The serial in a message's payload (11.10). -/
def messageSerial (m : List Byte) : Serial := BitVec.ofNat 64 (natLE ((m.drop 4).take 8))

/-- A message carries the terminal's line number. -/
def Terminal.named (t : Terminal) (m : List Byte) : Bool := t.assigned && decide ((byteAt m 1).toNat = t.line)

/-- A message is addressed to the terminal (R125): its line number field names it, or it is an ASSIGN or a RELEASE with line number 0 and
its serial. That the line number 0 is asked of the ASSIGN as of the RELEASE is a reading (DEDUCED, log 40). -/
def Terminal.addressed (t : Terminal) (m : List Byte) : Bool :=
  let kind := (byteAt m 0).toNat
  t.named m || ((decide (kind = 3) || decide (kind = 10)) && decide (byteAt m 1 = 0) && decide (messageSerial m = t.serial))

/-- INVITE (R28): `r` is the slot the terminal chooses. -/
def Terminal.takeInvite (t : Terminal) (m : List Byte) (r : Nat) : Terminal × List TerminalReply :=
  if t.assigned then (t, [])
  else if 0 < t.skip then ({ t with skip := t.skip - 1 }, [])
  else (t, [t.hello (r % 2 ^ (byteAt m 3).toNat)])

/-- The bytes of a profile block, summed. -/
def blockSum (m : List Byte) : Nat := ((m.drop 4).take 16).foldl (fun n b => n + b.toNat) 0

/-- PROFILE-BLOCK (R85), by the first case that applies; `stores` is false where the terminal cannot store the block at that moment. -/
def Terminal.takeBlock (t : Terminal) (m : List Byte) (stores : Bool) : Terminal × List TerminalReply :=
  let k := (byteAt m 3).toNat
  let taken : Option Terminal :=
    if k = 0 then some { t with sum := blockSum m % 65536, nextBlock := 1 }
    else if k = t.nextBlock then some { t with sum := (t.sum + blockSum m) % 65536, nextBlock := t.nextBlock + 1 }
    else none
  match taken with
  | some t' => if stores then (t', [t'.status 1 (byteAt m 3) (byteAt m 2)]) else (t, [t.status 2 (byteAt m 3) (byteAt m 2)])
  | none =>
    if k + 1 = t.nextBlock then (t, [t.status 1 (byteAt m 3) (byteAt m 2)]) else (t, [t.status 2 (byteAt m 3) (byteAt m 2)])

/-- EQUALIZE and TRIM are handled alike (R127). -/
def Terminal.equalized (t : Terminal) (m : List Byte) : Terminal :=
  if t.named m then
    { t with
      eq16 := 16 * natLE ((m.drop 4).take 3) + (byteAt m 7).toNat
      spanStart := natLE ((m.drop 8).take 3), slotLen := natLE ((m.drop 11).take 2) }
  else t

/-- A received message taken (R28, R55, R69, R85, R126, R127), with the bursts the terminal sends. -/
def Terminal.take (t : Terminal) (m : List Byte) (r : Nat) (stores : Bool) : Terminal × List TerminalReply :=
  match (byteAt m 0).toNat with
  | 1 => t.takeInvite m r
  | 2 => if !t.assigned && decide (messageSerial m = t.serial) then ({ t with skip := (byteAt m 12).toNat }, []) else (t, [])
  | 3 => if messageSerial m = t.serial then ({ t.unassign with line := (byteAt m 1).toNat }, []) else (t, [])
  | 4 => if t.named m then (t, (List.range (byteAt m 3).toNat).map t.echo) else (t, [])
  | 5 => (t.equalized m, [])
  | 6 => (t.equalized m, [])
  | 7 => if t.named m then t.takeBlock m stores else (t, [])
  | 8 => if t.named m then (t, [t.status 3 0 (byteAt m 2)]) else (t, [])
  | 9 => (if t.named m then { t with inService := true } else t, [])
  | 10 => (if t.addressed m then t.unassign else t, [])
  | _ => (t, [])

/-- A message sets the orphan count to 0 (R128): one addressed to the terminal, or an ASSIGN it takes (R126). -/
def Terminal.reached (t : Terminal) (m : List Byte) : Bool :=
  t.addressed m || (decide ((byteAt m 0).toNat = 3) && decide (messageSerial m = t.serial))

/-- One cycle at a terminal (R125, R128): the message it carries, if it is received, then the orphan count, which at 4,096 drops the
assignment. That the message comes before the drop is the model's choice (DESIGN CHOICE, log 43). -/
def Terminal.cycle (t : Terminal) (m : Option (List Byte)) (r : Nat) (stores : Bool) : Terminal × List TerminalReply :=
  let heard := m.filter messageReceived
  let (t1, sent) :=
    match heard with
    | some x => t.take x r stores
    | none => (t, [])
  let hit := (heard.map t.reached).getD false
  if t1.assigned = false ∨ t1.inService = true ∨ t.assigned = false ∨ hit = true then ({ t1 with orphan := 0 }, sent)
  else if t1.orphan + 1 < 4096 then ({ t1 with orphan := t1.orphan + 1 }, sent)
  else (t1.unassign, sent)

/-! ### A burst on the line -/

/-- The line levels of a byte in the order sent (R116, 11.9). -/
def levelsOfByte (conv : Conv) (b : Byte) : List Bool :=
  let bits := (List.range 8).map (fun k => b.getLsbD k)
  match conv with
  | .crossed => bits.reverse.map (fun x => !x)
  | .straight => bits
  | .unknown => bits

/-- The delimiter of a convention (R114). -/
def delimiterOf : Conv → List Bool
  | .crossed => crossedDelimiter
  | .straight => straightDelimiter
  | .unknown => straightDelimiter

/-- The line levels of a burst (11.9): preamble, delimiter, body, check. -/
def burstLevels (conv : Conv) (body : List Byte) : List Bool :=
  (List.range 64).map (fun k => decide (k % 2 = 0)) ++ delimiterOf conv
    ++ (body ++ bytesLE 2 (crc16 body).toNat).flatMap (levelsOfByte conv)

/-- The samples of a burst whose transitions fall at phase `φ` of their line bits. -/
def burstSamples (conv : Conv) (phase : BitVec 4) (body : List Byte) : List Sample :=
  (burstLevels conv body).map (fun v => { value := v, phase := phase })

end Sys2Proof.Machine
end

