-- ==== Sys2Proof/Safety.lean ====
section
/-! DEFINITION. The terms the statements use: what a sound state is (the capacities of the queues, the law of serial numbers, the event
ring, the span slot map), what a command stores, and what the memory side, an event and the end of activation work leave behind. -/

namespace Sys2Proof.Safety

open Sys2Proof.Machine

/-- Every queue and list within its places, every saturating count within its maximum, SRAM in its canonical form (R39, R44, R111, R149,
R151, R154). -/
structure Bounded (s : State) : Prop where
  sram : Memory.wf s.sram
  events : s.evw.queue.length ≤ Config.eventPlaces
  lost : s.evw.lost ≤ Config.counterMax
  strangers : s.dsu.strangers.length ≤ Config.strangerPlaces
  parks : s.dsu.parks.length ≤ Config.parkPlaces
  captures : s.brx.queue.length ≤ Config.capturePlaces
  consecutive : s.bpt.consecutive ≤ Config.holdAfter

/-- No two live records hold the same serial (R9). -/
def SerialsDistinct (s : State) : Prop :=
  ∀ i k : RecIx, (s.record i).state.live = true → (s.record k).state.live = true → (s.record i).serial = (s.record k).serial → i = k

/-- The law of serial numbers with what carries it: before the first CONFIG every record is EMPTY, no load is under way from then on (R160),
and the lists whose taking moves a record name only records in activation or in service (R11, R22, R24), the urgent list each RELEASING
record once (R134). -/
structure Lawful (s : State) : Prop where
  distinct : SerialsDistinct s
  vacant : s.pct.port.overlay = false → ∀ i : RecIx, (s.record i).state = .empty
  loaded : s.pct.port.overlay = true → s.pct.load = none
  control : ∀ e ∈ s.dsq.control, (s.record e.index).state.inActivation = true ∨ (s.record e.index).state = .inService
  waiting : ∀ i ∈ s.pex.waiting, (s.record i).state.inActivation = true ∨ (s.record i).state = .inService
  urgent : ∀ i ∈ s.dsq.urgent, (s.record i).state = .releasing
  once : s.dsq.urgent.Nodup

/-- The event ring (R151, R155): while the port reads the window, the written cycles are those of the unconsumed records; while a record is
being written, the ring has a slot for it, its event waits, and the EVW's request is queued; in OFF and LOADING nothing is raised. -/
structure RingSound (s : State) : Prop where
  written : s.pct.port.overlay = true → s.evw.written.length = s.evw.unconsumed
  loaded : s.pct.port.overlay = true → s.pct.load = none
  silent : s.pct.port.overlay = false → s.evw.queue = [] ∧ s.evw.stage = 0
  room : s.evw.stage ≠ 0 → s.evw.queue ≠ [] ∧ s.evw.unconsumed < 255
  request : s.bpt.evwRequest.isSome = true ↔ s.evw.stage ≠ 0

/-- Two entries of the span slot map hold bookings of one record. -/
def sameBooking (a b : Slot) : Prop := ∃ i, a.isFor i = true ∧ b.isFor i = true

/-- The span slot map (R105): each slot has at most one entry, and no record holds more than one booking. -/
structure MapSound (s : State) : Prop where
  single : s.ltu.map.Pairwise (fun a b => ¬(a.ct = b.ct ∧ a.j = b.j))
  booked : s.ltu.map.Pairwise (fun a b => ¬sameBooking a b)

/-! ### Memory -/

/-- The processor access a command makes, ACCESS_HOLD apart: its bus address, data and byte enables (R139, R142). -/
def accessOf (s : State) : Instr → Option Access
  | .intentAdmit i high he => some (.write (s.busAddr (intentWord i)) (withLane0 1 high) (enableLane0 he))
  | .intentHold i high he => some (.write (s.busAddr (intentWord i)) (withLane0 2 high) (enableLane0 he))
  | .intentVacant i high he => some (.write (s.busAddr (intentWord i)) (withLane0 0 high) (enableLane0 he))
  | .setupWrite w data be => some (.write (s.busAddr w) data be)
  | .portIntentConfig high he => some (.write (s.busAddr 0) (withLane0 1 high) (enableLane0 he))
  | .portIntentRun high he => some (.write (s.busAddr 0) (withLane0 2 high) (enableLane0 he))
  | .portIntentHalt value high he => some (.write (s.busAddr 0) (withLane0 value high) (enableLane0 he))
  | .consumerIndexWrite value high he => some (.write (s.busAddr 33) (withLane0 value high) (enableLane0 he))
  | .imageWrite w data be => some (.write (s.busAddr w) data be)
  | .recordSnapshotRead i => some (.read (s.busAddr (intentWord i)))
  | .headerSnapshotRead => some (.read (s.busAddr 64))
  | .popRead => some (.read (s.busAddr 160))
  | .consecutiveAccess acc => some acc
  | _ => none

/-- A word stored on the memory side: its bus address, its data and the byte enables. -/
abbrev Store := BusAddr × Word × Enables

/-- The store of a processor access (R138): a read stores nothing. -/
def storeOf : Access → List Store
  | .read _ => []
  | .write a data be => [(a, data, be)]

/-- The event word that waits to be stored (R155). -/
def eventStore (s : State) : List Store := (s.bpt.evwRequest.map (fun r => (s.busAddr r.word, r.data, (0b1111 : Enables)))).toList

/-- What a command stores, in order (R138, R148, R149, R155): a processor access its own store, behind the event word that a hold lets pass
first; EVENT_WORD_WRITTEN the event word. Every other command stores nothing. -/
def storesOf (s : State) : Instr → List Store
  | .eventWordWritten => eventStore s
  | .accessHold acc => if s.holdDue then eventStore s ++ storeOf acc else []
  | c =>
    match accessOf s c with
    | some acc => (if s.holdDue then eventStore s else []) ++ storeOf acc
    | none => []

/-- The byte a store gives byte address `x`, if it enables one there. -/
def byteStored (w : Store) (x : Nat) : Option Byte :=
  if x / 4 = w.1.toNat ∧ w.2.2.getLsbD (x % 4) = true then some (byteOf w.2.1 (x % 4)) else none

/-- A processor access has passed to the memory side, no hold being due (R149). -/
def passed (s : State) : State :=
  { s with bpt := { s.bpt with consecutive := if s.bpt.waiting then s.bpt.consecutive + 1 else 0 } }

/-- A processor write has passed: SRAM holds its enabled bytes (R138). -/
def written (s : State) (a : BusAddr) (data : Word) (be : Enables) : State :=
  { passed s with sram := Memory.writeWord s.sram a data be }

/-- A write of header word `k` has passed, and the header snapshot is no longer held (R146). -/
def headerWritten (s : State) (k : WinWord) (data : Word) (be : Enables) : State :=
  { written s (s.busAddr k) data be with
    bpt := { (passed s).bpt with headerHeld := false } }

/-- The window word of setup word `k` of record `i` (R1). -/
def setupWordOf (i : RecIx) (k : Nat) : WinWord := BitVec.ofNat 14 (256 + 16 * i.val + k)

/-- A write of setup word `k` of record `i` has passed, and the record snapshot is no longer held if it is of that record (R145). -/
def recordWritten (s : State) (i : RecIx) (k : Nat) (data : Word) (be : Enables) : State :=
  { written s (s.busAddr (setupWordOf i k)) data be with
    bpt := { (passed s).bpt with snapHeld := s.bpt.snapHeld && !decide (s.bpt.snapIndex = i) } }

/-! ### Events -/

/-- The PORT event of a port state and refusal code (R159). -/
def portEvent (p : PortState) (r : RefusalCode) : Raise :=
  { kind := .port, index := 255, detail0 := portCode p, detail1 := refusalCode r, value := 0 }

/-- The RECORD event of a record entering a state for a reason (R6). -/
def recordEvent (i : RecIx) (st : ActState) (why : ChangeReason) (tag : Word) : Raise :=
  { kind := .record, index := BitVec.ofNat 8 i.val, detail0 := actCode st, detail1 := changeCode why, value := tag }

/-- A LINE event (R95, R96). -/
def lineEvent (d : LineDetail) (c : Cycle) : Raise :=
  { kind := .line, index := 255, detail0 := lineCode d, detail1 := 0, value := c }

/-- A DISCARD event (R152). -/
def discardEvent (index : Byte) (why : DiscardReason) (offset : Nat) : Raise :=
  { kind := .discard, index := index, detail0 := discardCode why, detail1 := 0, value := BitVec.ofNat 32 offset }

/-- A QUIET event (R101). -/
def quietEvent (p : Purpose) (d : QuietDetail) (value : Cycle) : Raise :=
  { kind := .quiet, index := (match p with | .discovery => 255 | .ranging i _ => BitVec.ofNat 8 i.val), detail0 := quietCode d
    detail1 := 0, value := value }

/-- The RECORD events of a port return, in record index order (R24). -/
def returnEvents (s : State) : List Raise :=
  (allRecords.filter (fun i => (s.record i).state.inActivation)).map
    (fun i => recordEvent i .awaiting .port (s.record i).tag)

/-- The events have been raised one after another, and nothing else has reached the Event Writer or the header counters. -/
def EventsRaised (s t : State) (es : List Raise) : Prop :=
  t.evw = (es.foldl State.raise s).evw ∧ t.counters = (es.foldl State.raise s).counters

/-- The 16 bytes of an event record (R152, 11.7): sequence, kind, record index, detail, lost-before, cycle number, value, each value least
significant byte first. -/
def eventBytes (e : Event) : List Byte :=
  bytesLE 2 e.seq.toNat ++ [kindCode e.kind, e.index, e.detail0, e.detail1] ++ bytesLE 2 e.lostBefore
    ++ bytesLE 4 e.cycle.toNat ++ bytesLE 4 e.value.toNat

/-! ### The load -/

/-- The step of the load whose read of window word `w` waits, with no request above it (R148, R160). -/
def LoadWaits (s : State) (n : Nat) (w : WinWord) : Prop :=
  s.pct.port = .loading ∧ s.bpt.evwRequest = none ∧ (∀ ch, s.chanRequest ch = none) ∧ s.pct.load = some n ∧
    s.bpt.loadRequest = some w

/-! ### RUN -/

/-- `u`, in CONFIG, once a RUN intent has been acted on (R26, R49, R162, R164): the target loop time is tested, then the span geometry, and the
first test to fail gives its refusal code and a PORT event of CONFIG. With both passed the port is RUNNING with its PORT event; then the
counters are 0, SpreadMax is raised to SpreadMin and SpreadInit clamped between them, the exponent is SpreadInit, the base cycle the current
one, with no deferral, round or demand; and the stored intents are acted on in index order. -/
def runActed (u : State) : State :=
  let h := u.header
  let top := if h.spreadMax.toNat < h.spreadMin.toNat then h.spreadMin else h.spreadMax
  let init := if h.spreadInit.toNat < h.spreadMin.toNat then h.spreadMin else if top.toNat < h.spreadInit.toNat then top else h.spreadInit
  if ¬(16384 ≤ h.targetLoop.toNat ∧ h.targetLoop.toNat ≤ 524287) then
    State.raise { u with pct := { u.pct with refusal := .target } } (portEvent .config .target)
  else if ¬(512 ≤ h.slotLen.toNat ∧ h.slotLen.toNat ≤ 4096 ∧ 1 ≤ h.slotCount.toNat ∧ h.slotCount.toNat ≤ 8 ∧
      h.spanStart.toNat + h.slotCount.toNat * h.slotLen.toNat ≤ 160000) then
    State.raise { u with pct := { u.pct with refusal := .span } } (portEvent .config .span)
  else
    let v := State.raise { u with pct := { u.pct with port := .running, refusal := .clear } } (portEvent .running .clear)
    allRecords.foldl State.actIntent
      { v with
        counters := Counters.zero
        header := { h with spreadMax := top, spreadInit := init }
        dsu := { u.dsu with
          exponent := init.toNat, base := u.ltu.cycle, deferral := 0, round := .idle, demand := false } }

/-! ### The arm line -/

/-- The BRX with the arm line low (R112): DISARMED, the run length and the hunt record empty (log 38), the captures standing. -/
def disarmed (b : Brx) : Brx := { hunt := .disarmed, run := 0, previous := none, record := HuntRecord.empty, queue := b.queue }

/-- The arm line has dropped where it was up for an interval that `ended` names, and stands as it was otherwise, the BRX with it (R103, R104,
R107, R112). -/
structure ArmDropped (s t : State) (ended : Interval → Prop) : Prop where
  drops : ∀ id, s.ltu.armed = some id → ended id → t.ltu.armed = none ∧ t.brx = disarmed s.brx
  stays : (∀ id, s.ltu.armed = some id → ¬ended id) → t.ltu.armed = s.ltu.armed ∧ t.brx = s.brx

/-! ### The end of activation work -/

/-- The message that ends the quiet resource early (R104). -/
def quietEnd : Quiet → List SchedMessage
  | .idle => []
  | .asked _ => [.withdraw]
  | .given _ => [.done]
  | .opened _ => [.done]

/-- A channel's inserted read when the work it was placed for has ended (R90): still queued, its data to be discarded. -/
def droppedRead (r : Option ReadRequest) : Option ReadRequest := r.map (fun q => { q with dropped := true })

/-- Record `r` as a port return leaves it at cycle `now` (R24): in AWAITING, its setup fields and the fields R24 does not name kept. -/
def returned (r : Record) (now : Cycle) : Record :=
  if r.state.inActivation then
    { r with
      state := .awaiting, lastChange := now, line := 0, assignTaken := false, eqValid := false, profileDelivered := false
      rangeUsed := 0, blocksAcked := 0 }
  else r

/-- Between `s` and `t` every block has ended its activation work and the records have returned (R24, R43, R48, R49, R50, R81, R90, R104, R137,
R163): of the DSU the exponent, the deferral count, the stranger list and the pop buffer stand, and the base cycle but where an OPEN round
is abandoned. -/
structure WorkEnded (s t : State) : Prop where
  records : ∀ i : RecIx, t.record i = returned (s.record i) s.ltu.cycle
  quiet : t.ltu.quiet = .idle
  link : t.links = { s.links with sched := s.links.sched ++ quietEnd s.ltu.quiet }
  dsq : t.dsq = { window := none, urgent := s.dsq.urgent, control := [], reply := [] }
  dsu : t.dsu = { s.dsu with
    round := .idle, parks := [], demand := false, base := match s.dsu.round with | .opened _ => s.ltu.cycle | _ => s.dsu.base }
  rgu : t.rgu = { s.rgu with queue := [], attempt := none, settles := Vector.replicate 128 none }
  pex : t.pex = { s.pex with chans := Vector.replicate 4 Channel.reset, waiting := [] }
  reads : ∀ ch : ChanIx, t.chanRequest ch = droppedRead (s.chanRequest ch)
  captures : t.brx.queue = s.brx.queue

/-- With the work of a port event the quiet resource is IDLE, the map is `m`, and the arm line has dropped if it was up for the OPEN window or
for a booking (R104, R107). -/
def TimelineEnded (s t : State) (m : List Slot) : Prop :=
  t.ltu = { s.ltu with quiet := .idle, map := m, armed := t.ltu.armed } ∧
    ArmDropped s t (fun id => (∃ w, s.ltu.quiet = .opened w ∧ w.interval = id) ∨ ∃ e ∈ s.ltu.map, e.interval = some id)

/-! ### Intents, admission, abandonment -/

/-- A record admitted at cycle `now` (R9): AWAITING, its setup fields, sightings and cycle of last HELLO kept, all else at reset values. -/
def admitted (r : Record) (now : Cycle) : Record :=
  { Record.reset with
    intent := r.intent, profileIx := r.profileIx, samples := r.samples, settleCount := r.settleCount, serial := r.serial, tag := r.tag
    sightings := r.sightings, lastHello := r.lastHello, state := .awaiting, lastChange := now }

/-- A record emptied at cycle `now` (R10): its setup fields kept, every live field at its reset value but the cycle of last state change. -/
def emptied (r : Record) (now : Cycle) : Record :=
  { Record.reset with
    intent := r.intent, profileIx := r.profileIx, samples := r.samples, settleCount := r.settleCount, serial := r.serial, tag := r.tag
    lastChange := now }

/-- A write of word 0 of record `i` has been taken in an overlay state, its intent not yet acted on (R2, R3): the intent is stored, the
other written fields in EMPTY, HELD and FAILED alone; elsewhere one DISCARD of reason STATE is raised if one of them was written. -/
def intentStored (s : State) (i : RecIx) (data : Word) (be : Enables) : State :=
  let st := (s.record i).state
  let kept : Enables := if st = .empty ∨ st = .held ∨ st = .failed then be else be &&& 1
  let u : State := { recordWritten s i 0 data be with records := s.records.set i ((s.record i).store 0 data kept) }
  if kept = be then u else State.raise (u.count .discards) (discardEvent (BitVec.ofNat 8 i.val) .state (1024 + 64 * i.val))

/-- The directory entry that the profile index of record `k` names (R78). -/
def imageOf (s : State) (k : RecIx) : DirEntry := s.dirEntry (profileDir (s.record k).profileIx)

/-- Where the pre-scan of an entry begins (R78, R89): complete at once for a length of 0, SCANNING for a range in the image area, and failed
for any other. -/
def scanStage (e : DirEntry) : ChanStage :=
  if e.length = 0 then .reported .complete
  else if 13312 ≤ e.offset.toNat ∧ e.offset.toNat + e.length.toNat ≤ 65536 then .scanning
  else .reported .imageFailed

/-- Channel `ch` has gone to record `k`, which enters PROFILING and whose entry the channel pre-scans from the first byte (R18, R19, R78, R81,
R89). `left` is the read that the channel still has queued from earlier work: it stands, and the scan's own read is placed where there is none
(log 32). Of the other channels, their reads and the other directory entries nothing changes. -/
structure ScanBegun (s t : State) (ch : ChanIx) (k : RecIx) (left : Option ReadRequest) : Prop where
  record : t.record k =
    let r := s.record k
    { r with
      state := .profiling, lastChange := if r.state = .profiling then r.lastChange else s.ltu.cycle
      blocksTotal := if (imageOf s k).length = 0 then 0 else r.blocksTotal
      blocksAcked := if (imageOf s k).length = 0 then 0 else r.blocksAcked }
  pex : t.pex =
    let p := profileDir (s.record k).profileIx
    let e := imageOf s k
    { s.pex with
      chans := s.pex.chans.set ch { Channel.reset with stage := scanStage e, index := k, dir := p, pos := e.offset.toNat }
      dir := if e.length = 0 then s.pex.dir.set p { e with expanded := 0, sum := 0 } else s.pex.dir
      waiting := t.pex.waiting
      reports := if scanStage e = .scanning then s.pex.reports else s.pex.reports ++ [{ index := k, chan := ch }] }
  bpt : t.bpt =
    let own := if scanStage (imageOf s k) = .scanning then
        some ({ word := BitVec.ofNat 14 ((imageOf s k).offset.toNat / 4), dropped := false } : ReadRequest) else none
    { s.bpt with chanRequests := s.bpt.chanRequests.set ch (if left.isSome then left else own) }

/-- Channel `ch`, which was held in `s`, has been freed, a read still queued marked for discard (R90), and has gone to record `k` (R19, R81). -/
abbrev Granted (s t : State) (ch : ChanIx) (k : RecIx) : Prop := ScanBegun s t ch k (droppedRead (s.chanRequest ch))

/-- The profile-wait queue once record `i` has left it (R11, R81). -/
def waitingWithout (s : State) (i : RecIx) : List RecIx := s.pex.waiting.filter (fun k => decide (k ≠ i))

/-- The RECORD event of the record that receives the channel record `i` held, if it held one and a record waits for it (R19, R81). -/
def passEvents (s : State) (i : RecIx) : List Raise :=
  match s.channelOf i, waitingWithout s i with
  | some _, k :: _ => [recordEvent k .profiling .channel (s.record k).tag]
  | _, _ => []

/-- What every block does when the work in flight for record `i` is abandoned (R11, R22, R90, R104, R107), record `i`, the control list, the
urgent list and the events apart. The window-message slot is emptied of the record's RANGE-ASK and of the message of a window GIVEN for it,
and of nothing else. A channel the record holds is freed, its queued read marked for discard, and goes to the head of the profile-wait queue;
the other channels and records stand. -/
structure Abandoned (s t : State) (i : RecIx) : Prop where
  reply : t.dsq.reply = s.dsq.reply.filter (fun e => decide (e.index ≠ i))
  windowGone : (∃ c n, s.dsq.window = some { cq := c, message := .rangeAsk i n }) ∨
    (s.quietIsFor i = true ∧ ∃ w, s.ltu.quiet = .given w) → t.dsq.window = none
  windowKept : (∀ c n, s.dsq.window ≠ some { cq := c, message := .rangeAsk i n }) →
    (∀ w, s.ltu.quiet = .given w → s.quietIsFor i = false) → t.dsq.window = s.dsq.window
  rgu : t.rgu = { s.rgu with
    queue := s.rgu.queue.filter (fun k => decide (k ≠ i)), settles := s.rgu.settles.set i none
    attempt := s.rgu.attempt.filter (fun a => decide (a.index ≠ i)) }
  quiet : s.quietIsFor i = true →
    t.ltu.quiet = .idle ∧ t.links = { s.links with sched := s.links.sched ++ quietEnd s.ltu.quiet }
  quietKept : s.quietIsFor i = false → t.ltu.quiet = s.ltu.quiet ∧ t.links = s.links
  bookings : t.ltu = { s.ltu with
    quiet := t.ltu.quiet, armed := t.ltu.armed
    map := s.ltu.map.map (fun e => if e.isFor i then { e with use := .void } else e) }
  arm : ArmDropped s t (fun id => (s.quietIsFor i = true ∧ ∃ w, s.ltu.quiet = .opened w ∧ w.interval = id) ∨
    ∃ e ∈ s.ltu.map, e.isFor i = true ∧ e.interval = some id)
  noChannel : s.channelOf i = none →
    t.pex = { s.pex with waiting := waitingWithout s i } ∧ t.bpt = s.bpt ∧ ∀ k, k ≠ i → t.record k = s.record k
  freed : ∀ ch, s.channelOf i = some ch → waitingWithout s i = [] →
    t.pex = { s.pex with chans := s.pex.chans.set ch Channel.reset, waiting := [] } ∧
    t.bpt = { s.bpt with chanRequests := s.bpt.chanRequests.set ch (droppedRead (s.chanRequest ch)) } ∧
    ∀ k, k ≠ i → t.record k = s.record k
  passedOn : ∀ ch k ws, s.channelOf i = some ch → waitingWithout s i = k :: ws →
    Granted s t ch k ∧ t.pex.waiting = ws ∧ ∀ m, m ≠ i → m ≠ k → t.record m = s.record m
  kept : t.header = s.header ∧ t.dsu = s.dsu ∧ t.pct = s.pct ∧ t.sram = s.sram ∧ t.pending = s.pending

/-- Record `i`, not RELEASING in `s`, has entered RELEASING in `t` (R11), the record that receives its channel after it (log 8). -/
structure Released (s t : State) (i : RecIx) (d : RelDest) (why : ChangeReason) (f : Option FailReason) : Prop where
  record : t.record i =
    { s.record i with state := .releasing, lastChange := s.ltu.cycle, dest := d, reason := f.getD (s.record i).reason }
  urgent : t.dsq.urgent = s.dsq.urgent ++ [i]
  control : t.dsq.control = s.dsq.control.filter (fun e => decide (e.index ≠ i))
  work : Abandoned s t i
  events : EventsRaised s t (recordEvent i .releasing why (s.record i).tag :: passEvents s i)

/-! ### Images -/

/-- The expansion of image bytes from an item in progress (R77): none where an item runs past the end. -/
def expand : ImageItem → List Byte → Option (List Byte)
  | .idle, [] => some []
  | .idle, t :: bs => if t.toNat < 128 then expand (.literal (t.toNat + 1)) bs else expand (.awaitValue (t.toNat - 128 + 2)) bs
  | .literal _, [] => none
  | .literal n, b :: bs => (expand (if n ≤ 1 then .idle else .literal (n - 1)) bs).map (fun xs => b :: xs)
  | .awaitValue _, [] => none
  | .awaitValue n, b :: bs => (expand .idle bs).map (fun xs => List.replicate n b ++ xs)
  | .repeating _ _, _ => none

/-- The bytes of the image of an entry as they stand in SRAM (R75). -/
def imageBytes (s : State) (e : DirEntry) : List Byte :=
  (List.range e.length.toNat).map (fun k => Memory.read s.sram (65536 * s.bpt.base.toNat + e.offset.toNat + k))

/-- The bytes still to come from an item in progress and the image bytes after it (R77, R83): a repeat gives the rest of its bytes first. -/
def owed : ImageItem → List Byte → Option (List Byte)
  | .repeating v n, bs => (expand .idle bs).map (fun xs => List.replicate n v ++ xs)
  | item, bs => expand item bs

/-- The image bytes of an entry from a window offset on. -/
def imageFrom (s : State) (e : DirEntry) (pos : Nat) : List Byte := (imageBytes s e).drop (pos - e.offset.toNat)

/-- A buffer that is FULL with block `k` of `n`, its bytes followed by zeros up to 16 (R79, R83). -/
def fullBlock (n k : Nat) (bs : List Byte) : Buffer := .full k (decide (k + 1 = n)) (bs ++ List.replicate (16 - bs.length) 0)

/-- The read of channel `ch` ranks highest and waits (R148). -/
def ReadNext (s : State) (ch : ChanIx) (r : ReadRequest) : Prop :=
  s.bpt.evwRequest = none ∧ (∀ k < ch, s.chanRequest k = none) ∧ s.chanRequest ch = some r

/-- The sum of bytes modulo 65,536. -/
def byteSum (bs : List Byte) : Nat := (bs.foldl (fun n b => n + b.toNat) 0) % 65536

/-- `t` is what `n` IMAGE_READs of channel `ch` leave of `s`, each answering a next state. -/
def ImageReads (ch : ChanIx) : Nat → State → State → Prop
  | 0, s, t => s = t
  | n + 1, s, t => ∃ u, exec (.imageRead ch) s = .next u ∧ ImageReads ch n u t

/-- A booking of identity `n` is answered or cancelled (R70, R86, R91, R107): it is a void, and the arm line drops if it is up for it. The run
length and the hunt record are emptied at the drop (log 38). -/
def answered (s : State) (n : Nat) : State :=
  let gone := s.ltu.map.any (fun e => e.hasIdent n && decide (s.ltu.armed = e.interval))
  { s with
    ltu := { s.ltu with
      map := s.ltu.map.map (fun e => if e.hasIdent n then { e with use := .void } else e)
      armed := if gone then none else s.ltu.armed }
    brx := if gone then disarmed s.brx else s.brx }

/-- Channel `ch`, whose image a write has touched, has restarted (R90, R91): IMAGE is raised, its PROFILE-BLOCK leaves the reply-bearing list,
its booking becomes a void, its record's blocks acked become 0, and it scans its entry from the first byte: its read is placed, one
still queued marked for discard; an image range outside the image area is malformed at once. -/
structure Restarted (s t : State) (ch : ChanIx) : Prop where
  event : EventsRaised s t [{ kind := .image, index := BitVec.ofNat 8 (s.chan ch).index.val, detail0 := BitVec.ofNat 8 (s.chan ch).dir.val
                              detail1 := 0, value := (s.record (s.chan ch).index).tag }]
  dsq : t.dsq = { s.dsq with
    reply := s.dsq.reply.filter (fun m => !(decide (m.index = (s.chan ch).index) && decide (m.kind = .profileBlock))) }
  records : t.records = s.records.set (s.chan ch).index { s.record (s.chan ch).index with blocksAcked := 0 }
  sent : ∀ ct j n, (s.chan ch).stage = .sent ct j n → t.ltu = (answered s n).ltu ∧ t.brx = (answered s n).brx
  unsent : (∀ ct j n, (s.chan ch).stage ≠ .sent ct j n) → t.ltu = s.ltu ∧ t.brx = s.brx
  channel : t.chan ch = { s.chan ch with
    stage := if 13312 ≤ (s.dirEntry (s.chan ch).dir).offset.toNat ∧
        (s.dirEntry (s.chan ch).dir).offset.toNat + (s.dirEntry (s.chan ch).dir).length.toNat ≤ 65536
      then .scanning else .reported .imageFailed
    blocks := 0, current := 0, retries := 0, bufA := .empty, bufB := .empty, pos := (s.dirEntry (s.chan ch).dir).offset.toNat
    item := .idle, next := 0, scanLen := 0, scanSum := 0 }
  others : ∀ k, k ≠ ch → t.chan k = s.chan k ∧ t.chanRequest k = s.chanRequest k
  queued : ∀ r, s.chanRequest ch = some r → t.chanRequest ch = some { r with dropped := true }
  placed : s.chanRequest ch = none → t.chanRequest ch = if (t.chan ch).stage = .scanning then
      some { word := BitVec.ofNat 14 ((s.dirEntry (s.chan ch).dir).offset.toNat / 4), dropped := false } else none
  reports : t.pex.reports =
    if (t.chan ch).stage = .scanning then s.pex.reports else s.pex.reports ++ [{ index := (s.chan ch).index, chan := ch }]
  kept : t.pex.dir = s.pex.dir ∧ t.pex.waiting = s.pex.waiting ∧ t.header = s.header ∧ t.dsu = s.dsu ∧ t.rgu = s.rgu ∧ t.pct = s.pct ∧
    t.links = s.links ∧ t.sram = s.sram ∧ t.bpt = { s.bpt with chanRequests := t.bpt.chanRequests }

/-- The channels of a list have restarted one after another (R91). -/
def RestartedAll : List ChanIx → State → State → Prop
  | [], s, t => s = t
  | ch :: chs, s, t => ∃ u, Restarted s u ch ∧ RestartedAll chs u t

/-! ### Fetches and reception -/

/-- A valid FETCH(c) and the state in which its answer is chosen (R94, R129). -/
def FetchTakes (s : State) (c : Cycle) : Prop :=
  s.ltu.known = true ∧ c = s.ltu.cycle + 1 ∧ s.ltu.nextFetched = false ∧ s.ltu.lineUp = true

/-- `s` with FETCH(c) recorded and answered (R94, R129). -/
def fetched (s : State) (c : Cycle) (a : FramerAnswer) : State :=
  { s with
    ltu := { s.ltu with latestFetch := some c, nextFetched := s.ltu.nextFetched || decide (c = s.ltu.cycle + 1) }
    links := { s.links with framer := a } }

/-- No window message is bound to cycle `c`. -/
def NoWindowFor (s : State) (c : Cycle) : Prop := ∀ m, s.dsq.window = some m → m.cq ≠ c

/-- What is left when samples have been taken and the BRX is `b`: the BRX, and the line offset risen by their number (R92, R112). -/
def heard (s : State) (n : Nat) (b : Brx) : State :=
  { s with brx := b, ltu := { s.ltu with offset := s.ltu.offset + n } }

/-- A garble of the interval `id` (R114, R117, R119): the hunt begins again with run length 0, the counter rises, and an open round of that
window is marked. That the hunt record is emptied with it is the model's choice (log 38). -/
def garbled (s : State) (n : Nat) (id : Interval) (previous : Bool) : State :=
  State.markGarbled
    ((heard s n { s.brx with hunt := .preamble, run := 0, previous := some previous, record := HuntRecord.empty }).count .garbledBursts) id

/-! ### Captures taken -/

/-- `c` is the oldest capture of those that `mine` picks, between `before` and `after` in the capture queue (R123). -/
def OldestIs (s : State) (mine : Capture → Bool) (c : Capture) (before after : List Capture) : Prop :=
  s.brx.queue = before ++ c :: after ∧ mine c = true ∧ ∀ b ∈ before, mine b = false

/-- `s` with the capture between `before` and `after` taken: the captures behind it have closed up (R123). -/
def taken (s : State) (before after : List Capture) : State := { s with brx := { s.brx with queue := before ++ after } }

/-- A PARK of a serial is queued with ParkRounds above 0, or dropped and counted where 16 wait (R37, R38, R39). -/
def parked (s : State) (serial : Serial) : State :=
  if s.header.parkRounds = 0 then s
  else if s.dsu.parks.length < 16 then
    { s with dsu := { s.dsu with parks := s.dsu.parks ++ [{ serial := serial, rounds := s.header.parkRounds }] } }
  else { s with counters := s.counters.inc .parkDrops }

end Sys2Proof.Safety
end

