-- ==== Sys2Proof/Certificates/Slice0/Obligations.lean ====
section
/-! DEFINITION. The statements for the provers. Each docstring names the rules of spec/ it states. -/

open Sys2Proof Sys2Proof.Machine Sys2Proof.Safety Host

/-! ### The machine -/

/-- A step runs exec on the command at the front of the queue with the queue's rest. On an empty queue it is one dark line bit (the
model's choice, log 2): with the arm line low nothing but the line offset changes, which rises by 1 (R92, R112). -/
def Obligations.StepRunsFront : Prop :=
  (∀ (s : State) (c : Instr) (q : List Instr), s.pending = c :: q → step s = exec c { s with pending := q }) ∧
  (∀ s : State, s.pending = [] → ∃ t, step s = .next t ∧ t.pending = [] ∧ t.ltu.offset = s.ltu.offset + 1 ∧
    (s.ltu.armed = none → t = { s with ltu := { s.ltu with offset := s.ltu.offset + 1 } }))

/-- Every command answers a next state, in every state and with every operand, and none of them touches the queue of commands. -/
def Obligations.CommandsComplete : Prop :=
  ∀ (c : Instr) (s : State), ∃ t, exec c s = .next t ∧ t.pending = s.pending

/-- What reaches SRAM (R138, R148, R149, R155): every byte of SRAM is that of the latest of the command's stores that enables it, and where
none does the byte it was. A processor write stores its enabled bytes at its bus word; where a hold is due, the event word that waits is
stored first, then the held write; EVENT_WORD_WRITTEN stores its word; every other command, reads and hardware reset among them, stores
nothing. -/
def Obligations.MemoryStores : Prop :=
  ∀ (c : Instr) (s t : State), Memory.wf s.sram → exec c s = .next t →
    ∀ x, Memory.read t.sram x = (storesOf s c).foldl (fun b w => (byteStored w x).getD b) (Memory.read s.sram x)

/-- CONSECUTIVE_ACCESS (R138, R139, R140, R141, R142, R143, R149). Outside the window, at a plain word outside the image area, and in OFF, a
write stores its enabled bytes, and of the part nothing changes but the consecutive-access count, which rises by 1 while an inserted request
waits and is 0 while none does. There, in the image area and in LOADING, a read answers the SRAM word, whole whatever its byte enables (log
42). A write to a held word or the image area is that of its own row. The bus address of window word w is 16,384 times the strap value plus w,
and the address of no other window word (R139). -/
def Obligations.ConsecutiveAccess : Prop :=
  (∀ (s : State) (w : WinWord), (s.busAddr w).toNat = 16384 * s.bpt.base.toNat + w.toNat ∧
    ∀ a, s.windowWord a = some w ↔ a = s.busAddr w) ∧
  ∀ (s : State), s.holdDue = false →
    (∀ (a : BusAddr),
      let plain := fun top : Nat => ∃ w, s.windowWord a = some w ∧ ((168 ≤ w.toNat ∧ w.toNat < 256) ∨ (2304 ≤ w.toNat ∧ w.toNat < top))
      (s.windowWord a = none ∨ (s.pct.port = .off ∧ s.pct.load = none) ∨ plain 3328 →
        ∀ (data : Word) (be : Enables), exec (.consecutiveAccess (.write a data be)) s = .next (written s a data be)) ∧
      (s.windowWord a = none ∨ s.pct.port = .off ∨ s.pct.port = .loading ∨ plain 16384 →
        exec (.consecutiveAccess (.read a)) s =
          .next { passed s with links := { s.links with readData := Memory.readWord s.sram a } })) ∧
    (∀ (w : WinWord) (data : Word) (be : Enables),
      exec (.consecutiveAccess (.write (s.busAddr w) data be)) s = exec (.setupWrite w data be) s ∧
      exec (.consecutiveAccess (.write (s.busAddr w) data be)) s = exec (.imageWrite w data be) s)

/-- Held accesses (R148, R149). While no hold is due ACCESS_HOLD changes nothing (log 14). When a 17th consecutive access is due to be held,
ACCESS_HOLD of it answers a next state, and the row of that access the same one, whichever row it is (an intent, a setup, image, port intent or
consumer index write, a snapshot or pop read, CONSECUTIVE_ACCESS): the inserted request that ranks highest is served as its own command serves
it (the EVW's, then the lowest-indexed channel's, then the load's), the stretch is counted, and the access is made in the state this leaves,
where no hold is due, so that what is stated of the access without a hold says the rest: outside the window a write stores its enabled bytes
and a read answers the SRAM word. A hold is due exactly while a request waits and the consecutive-access count has reached 16 (R149). -/
def Obligations.AccessHold : Prop :=
  ∀ s : State,
    (s.holdDue = true ↔ 16 ≤ s.bpt.consecutive ∧
      (s.bpt.evwRequest ≠ none ∨ (∃ ch, s.chanRequest ch ≠ none) ∨ s.bpt.loadRequest ≠ none)) ∧
    (∀ acc, s.holdDue = false → exec (.accessHold acc) s = .next s) ∧
    (∀ acc, s.holdDue = true →
      let heldBy := fun served : Instr => ∃ u t, exec served s = .next u ∧
        let v := u.count .stretched
        v.holdDue = false ∧ exec (.accessHold acc) s = .next t ∧ exec (.consecutiveAccess acc) v = .next t ∧
        (∀ a data be, acc = .write a data be → s.windowWord a = none → t = written v a data be) ∧
        (∀ a, acc = .read a → s.windowWord a = none →
          t = { passed v with links := { v.links with readData := Memory.readWord v.sram a } }) ∧
        (∀ c, accessOf s c = some acc →
          exec c s = exec (.accessHold acc) s ∧ accessOf v c = some acc ∧ exec c v = exec (.consecutiveAccess acc) v)
      (s.bpt.evwRequest ≠ none → heldBy .eventWordWritten) ∧
      (∀ ch, s.bpt.evwRequest = none → s.chanRequest ch ≠ none → (∀ k < ch, s.chanRequest k = none) → heldBy (.imageRead ch)) ∧
      (s.pct.port = .loading → s.bpt.evwRequest = none → (∀ ch, s.chanRequest ch = none) → heldBy .loadRead))

/-! ### Reset and load -/

/-- HARDWARE_RESET and RESET_RELEASE (R27, R29, R50, R80, R92, R111, R124, R139, R150, R151, R159, R160): reset puts every record EMPTY and
every block at its reset values, SRAM and the window base standing (log 5; the values of the links are log 15 and those of the model's own
fields log 27, both the model's choice); its release in OFF takes the straps as the window base, enters LOADING and queues the read of header
word 0; no event is raised. A release in another state changes nothing (log 1). -/
def Obligations.ResetAndRelease : Prop :=
  ∀ (s : State) (straps : BitVec 6),
    (∃ r, exec .hardwareReset s = .next r ∧ (∀ i, r.record i = Record.reset) ∧ r.pct = Pct.reset ∧ r.header = Header.reset ∧
      r.counters = Counters.zero ∧ r.dsu = Dsu.reset ∧ r.rgu = Rgu.reset ∧ r.pex = Pex.reset ∧ r.ltu = Ltu.reset ∧ r.brx = Brx.reset ∧
      r.dsq = Dsq.reset ∧ r.evw = Evw.reset ∧ r.bpt = { Bpt.reset with base := s.bpt.base } ∧ r.links = Links.reset ∧
      r.sram = s.sram ∧ r.pending = s.pending) ∧
    (s.pct.port = .off → exec (.resetRelease straps) s =
      .next { s with
        pct := { s.pct with port := .loading, load := some 0 }
        bpt := { s.bpt with base := straps, loadRequest := some 0 } }) ∧
    (s.pct.port ≠ .off → exec (.resetRelease straps) s = .next s)

/-- LOAD_READ (R2, R27, R75, R76, R93, R151, R160, R161, R163): before the last word, the word read is stored whole in its owner's copy,
clamped and rounded, with no event, and the read of the next word is placed, each group's words in rising window offset (log 10): header words
0 to 32 and 34 to 63, the 16 directory setup halves, the four setup words of each record. The last word stores the consumer index; P takes its
value, the written cycles are none, the span map is cleared and the port enters CONFIG with its PORT event, where the stored port intent is
acted on: CONFIG leaves the port there, RUN is validated, and any other value is HALT, which ends all activation work. The interrupt line
follows. The work that a HALT ends is stated with an OPEN round abandoned without adaptation (log 36) and the hunt record emptied as the arm
line drops (log 38). -/
def Obligations.LoadRead : Prop :=
  (∀ (s : State) (n : Nat),
    let placed : State := { s with
      pct := { s.pct with load := some (n + 1) }
      bpt := { s.bpt with consecutive := 0, loadRequest := some (loadWord (n + 1)) } }
    (∀ k : Nat, k < 64 → k ≠ 33 → k ≠ 4 → n = (if k < 33 then k else k - 1) → LoadWaits s n (BitVec.ofNat 14 k) →
      exec .loadRead s = .next { placed with
        header := s.header.store k (s.sramWord (BitVec.ofNat 14 k)) 0b1111 }) ∧
    (n = 4 → LoadWaits s n 4 → ∃ t, exec .loadRead s = .next t ∧
      t = { placed with header := s.header.store 4 (s.sramWord 4) 0b1111, records := t.records } ∧
      ∀ i, t.record i = { s.record i with rangeUsed := min (s.record i).rangeUsed t.header.rangeLimit.toNat }) ∧
    (∀ p : DirIx, n = 63 + p.val → LoadWaits s n (BitVec.ofNat 14 (128 + 2 * p.val)) →
      exec .loadRead s = .next { placed with
        pex := { s.pex with dir := s.pex.dir.set p (
          { s.dirEntry p with
            offset := (s.sramWord (BitVec.ofNat 14 (128 + 2 * p.val))).extractLsb' 0 16
            length := (s.sramWord (BitVec.ofNat 14 (128 + 2 * p.val))).extractLsb' 16 16 } : DirEntry) } }) ∧
    (∀ (i : RecIx) (k : Fin 4), n = 79 + 4 * i.val + k.val → LoadWaits s n (setupWordOf i k.val) →
      exec .loadRead s = .next { placed with
        records := s.records.set i ((s.record i).store k.val (s.sramWord (setupWordOf i k.val)) 0b1111) })) ∧
  (∀ s : State, LoadWaits s 591 33 →
    let c := byteOf (s.sramWord 33) 0
    let u : State := State.raise
      { s with
        pct := { s.pct with port := .config, load := none }
        evw := { s.evw with consumer := c, producer := c, written := [] }
        ltu := { s.ltu with map := [] }
        bpt := { s.bpt with consecutive := 0, loadRequest := none } }
      (portEvent .config s.pct.refusal)
    (s.header.portIntent = 1 → exec .loadRead s = .next u.followInterrupt) ∧
    (s.header.portIntent = 2 → exec .loadRead s = .next (runActed u).followInterrupt) ∧
    (s.header.portIntent ≠ 1 → s.header.portIntent ≠ 2 → ∃ t, exec .loadRead s = .next t.followInterrupt ∧ WorkEnded u t ∧
      t.header = s.header ∧ t.sram = s.sram ∧ t.pct = { u.pct with port := .halted } ∧ TimelineEnded u t [] ∧
      t.bpt = { u.bpt with chanRequests := t.bpt.chanRequests } ∧
      EventsRaised u t (portEvent .halted s.pct.refusal :: returnEvents s)))

/-! ### The port -/

/-- PORT_INTENT_CONFIG (R161, R163, R24, R143): the intent is stored in the overlay states; no effect in CONFIG and DRAINING; HALTED returns to
CONFIG with the span map cleared; RUNNING starts DRAINING, where all activation work ends and every record in activation returns to AWAITING,
the PORT event before the RECORD events (log 8), the bookings become voids, the arm line drops if it is up for the ended window or for one of
them (R104, R107), and with the urgent list empty the port passes on to CONFIG at once. In OFF the write reaches SRAM alone; in LOADING the
copy takes it where the load has read the word, and it is not acted on. DRAIN_COMPLETE (R163, R109): in DRAINING, with the urgent list empty
and the quiet state IDLE, the port enters CONFIG with its PORT event and the span map is cleared; otherwise nothing changes (log 1). The run
length and the hunt record are emptied as the arm line drops (log 38). A round whose window has ended and whose captures are not handled yet is
abandoned too, without adaptation (log 36). -/
def Obligations.PortIntentConfig : Prop :=
  (∀ (s : State) (high : BitVec 24) (he : BitVec 3), s.holdDue = false →
    let u : State := { headerWritten s 0 (withLane0 1 high) (enableLane0 he) with header := { s.header with portIntent := 1 } }
    let bare := written s (s.busAddr 0) (withLane0 1 high) (enableLane0 he)
    (s.pct.port = .off → s.pct.load = none → exec (.portIntentConfig high he) s = .next bare) ∧
    (∀ n, s.pct.port = .loading → s.pct.load = some n → exec (.portIntentConfig high he) s =
      .next (if 0 < n then { bare with header := { s.header with portIntent := 1 } } else bare)) ∧
    (s.pct.port = .config ∨ s.pct.port = .draining → exec (.portIntentConfig high he) s = .next u) ∧
    (s.pct.port = .halted → exec (.portIntentConfig high he) s =
      .next (State.raise
        { u with pct := { s.pct with port := .config }, ltu := { s.ltu with map := [] } } (portEvent .config s.pct.refusal))) ∧
    (s.pct.port = .running → ∃ t, exec (.portIntentConfig high he) s = .next t ∧ WorkEnded s t ∧
      t.header = u.header ∧ t.sram = u.sram ∧
      t.pct = { s.pct with port := if s.dsq.urgent = [] then .config else .draining } ∧
      TimelineEnded s t (if s.dsq.urgent = [] then [] else s.ltu.map.map (fun e => { e with use := .void })) ∧
      t.bpt = { u.bpt with chanRequests := t.bpt.chanRequests } ∧
      EventsRaised s t (portEvent .draining s.pct.refusal :: returnEvents s
        ++ (if s.dsq.urgent = [] then [portEvent .config s.pct.refusal] else [])))) ∧
  (∀ s : State,
    (s.pct.port = .draining → s.dsq.urgent = [] → s.ltu.quiet = .idle → exec .drainComplete s =
      .next (State.raise { s with pct := { s.pct with port := .config }, ltu := { s.ltu with map := [] } }
        (portEvent .config s.pct.refusal))) ∧
    (s.pct.port ≠ .draining ∨ s.dsq.urgent ≠ [] ∨ s.ltu.quiet ≠ .idle → exec .drainComplete s = .next s))

/-- PORT_INTENT_RUN (R161, R162, R49, R164, R26, R143): in CONFIG the target and then the span geometry are tested, and the first failing test
sets the refusal code with a PORT event of CONFIG; with both passed the port enters RUNNING, the PORT event first, the counters zeroed,
discovery prepared, and the stored intents acted on in index order last. DRAINING returns to RUNNING without validation or zeroing.
RUNNING and HALTED are unaffected. In OFF the write reaches SRAM alone; in LOADING the copy takes it where the load has read the word, and it
is not acted on. Acting on the stored intent of a record is what a write of that intent does in RUNNING once it is stored (R7, R26). -/
def Obligations.PortIntentRun : Prop :=
  ∀ (s : State) (high : BitVec 24) (he : BitVec 3), s.holdDue = false →
    let u : State := { headerWritten s 0 (withLane0 2 high) (enableLane0 he) with header := { s.header with portIntent := 2 } }
    let bare := written s (s.busAddr 0) (withLane0 2 high) (enableLane0 he)
    (s.pct.port = .off → s.pct.load = none → exec (.portIntentRun high he) s = .next bare) ∧
    (∀ n, s.pct.port = .loading → s.pct.load = some n → exec (.portIntentRun high he) s =
      .next (if 0 < n then { bare with header := { s.header with portIntent := 2 } } else bare)) ∧
    (s.pct.port = .config → exec (.portIntentRun high he) s = .next (runActed u)) ∧
    (s.pct.port = .draining →
      let v := State.raise { u with pct := { s.pct with port := .running } } (portEvent .running s.pct.refusal)
      exec (.portIntentRun high he) s = .next (allRecords.foldl State.actIntent
        { v with dsu := { s.dsu with base := s.ltu.cycle, deferral := 0, round := .idle, demand := false } })) ∧
    (s.pct.port = .running ∨ s.pct.port = .halted → exec (.portIntentRun high he) s = .next u) ∧
    (∀ (i : RecIx) (n : Byte), s.pct.port = .running →
      let v := intentStored s i (withLane0 n high) (enableLane0 he)
      (n = 0 → exec (.intentVacant i high he) s = .next (v.actIntent i)) ∧
      (n = 1 → exec (.intentAdmit i high he) s = .next (v.actIntent i)) ∧
      (n = 2 → exec (.intentHold i high he) s = .next (v.actIntent i)) ∧
      (3 ≤ n.toNat → exec (.setupWrite (intentWord i) (withLane0 n high) (enableLane0 he)) s = .next (v.actIntent i)))

/-- PORT_INTENT_HALT (R161, R163, R24, R143): a stored port intent other than CONFIG and RUN takes CONFIG, RUNNING and DRAINING to HALTED,
where all activation work ends, from CONFIG by the same operation with nothing left to end (log 30), the bookings become voids and the arm line
drops if it is up for the ended window or for one of them (R104, R107), the PORT event before the RECORD events (log 8); HALTED is unaffected.
In OFF the write reaches SRAM alone; in LOADING the copy takes it where the load has read the word, and it is not acted on. The run length and
the hunt record are emptied as the arm line drops (log 38). A round whose window has ended and whose captures are not handled yet is abandoned
too, without adaptation (log 36). -/
def Obligations.PortIntentHalt : Prop :=
  ∀ (s : State) (value : Byte) (high : BitVec 24) (he : BitVec 3), s.holdDue = false → value ≠ 1 → value ≠ 2 →
    let u : State :=
      { headerWritten s 0 (withLane0 value high) (enableLane0 he) with header := { s.header with portIntent := value } }
    let bare := written s (s.busAddr 0) (withLane0 value high) (enableLane0 he)
    (s.pct.port = .off → s.pct.load = none → exec (.portIntentHalt value high he) s = .next bare) ∧
    (∀ n, s.pct.port = .loading → s.pct.load = some n → exec (.portIntentHalt value high he) s =
      .next (if 0 < n then { bare with header := { s.header with portIntent := value } } else bare)) ∧
    (s.pct.port = .halted → exec (.portIntentHalt value high he) s = .next u) ∧
    (s.pct.port = .config ∨ s.pct.port = .running ∨ s.pct.port = .draining →
      ∃ t, exec (.portIntentHalt value high he) s = .next t ∧ WorkEnded s t ∧ t.header = u.header ∧ t.sram = u.sram ∧
        t.pct = { s.pct with port := .halted } ∧ TimelineEnded s t (s.ltu.map.map (fun e => { e with use := .void })) ∧
        t.bpt = { u.bpt with chanRequests := t.bpt.chanRequests } ∧
        EventsRaised s t (portEvent .halted s.pct.refusal :: returnEvents s))

/-! ### Events and the interrupt line -/

/-- An event as the EVW takes it (R151, R153, R154): while fewer than 8 are held it is appended with the next sequence, the lost count and the
cycle number, the next sequence rises and the lost count is 0; with 8 held it is lost, the lost count and the events-lost counter rise,
saturating, and nothing else changes. In OFF and LOADING none is taken (R151), and that none counts as lost there is the model's reading (log
31). -/
def Obligations.EventTaken : Prop :=
  ∀ (s : State) (e : Raise),
    let up := fun n : Nat => if n < 65535 then n + 1 else n
    (s.pct.port = .off ∨ s.pct.port = .loading → s.raise e = s) ∧
    (s.pct.port ≠ .off → s.pct.port ≠ .loading → s.evw.queue.length < 8 → s.raise e =
      { s with evw := { s.evw with
        queue := s.evw.queue ++
          [{ seq := s.evw.nextSeq, kind := e.kind, index := e.index, detail0 := e.detail0, detail1 := e.detail1
             lostBefore := s.evw.lost, cycle := s.ltu.cycle, value := e.value }]
        nextSeq := s.evw.nextSeq + 1
        lost := 0 } }) ∧
    (s.pct.port ≠ .off → s.pct.port ≠ .loading → 8 ≤ s.evw.queue.length → s.raise e =
      { s with
        evw := { s.evw with lost := up s.evw.lost }
        counters := { s.counters with eventsLost := up s.counters.eventsLost } })

/-- EVENT_WRITE_START (R155): with an event pending, the ring not full and no write in progress, the write of the first word to slot P is
placed and the write stage is 1; otherwise nothing changes (log 1).
EVENT_WORD_WRITTEN (R148, R155, R158): the SRAM word takes the event word and the consecutive-access count is 0; after words 1 to 3 the
write of the next word is placed and the stage rises by 1; after the fourth the event leaves the queue, its cycle number joins the written
cycles, P advances, the stage is none, and the interrupt line follows. -/
def Obligations.EventWords : Prop :=
  (∀ s : State,
    (∀ (e : Event) (q : List Event), s.evw.queue = e :: q → s.evw.producer + 1 ≠ s.evw.consumer → s.evw.stage = 0 →
      exec .eventWriteStart s = .next { s with
        evw := { s.evw with stage := 1 }
        bpt := { s.bpt with evwRequest := some { word := BitVec.ofNat 14 (2304 + 4 * s.evw.producer.toNat), data := e.word 0 } } }) ∧
    (s.evw.queue = [] ∨ s.evw.producer + 1 = s.evw.consumer ∨ s.evw.stage ≠ 0 → exec .eventWriteStart s = .next s)) ∧
  (∀ (s : State) (r : WriteRequest) (e : Event) (q : List Event), s.bpt.evwRequest = some r → s.evw.queue = e :: q →
    let m := Memory.writeWord s.sram (s.busAddr r.word) r.data 0b1111
    (1 ≤ s.evw.stage → s.evw.stage ≤ 3 → exec .eventWordWritten s = .next { s with
      sram := m
      evw := { s.evw with stage := s.evw.stage + 1 }
      bpt := { s.bpt with
        consecutive := 0
        evwRequest := some
          { word := BitVec.ofNat 14 (2304 + 4 * s.evw.producer.toNat + s.evw.stage), data := e.word s.evw.stage } } }) ∧
    (s.evw.stage = 4 → exec .eventWordWritten s = .next (State.followInterrupt { s with
      sram := m
      evw := { s.evw with queue := q, written := s.evw.written ++ [e.cycle], producer := s.evw.producer + 1, stage := 0 }
      bpt := { s.bpt with consecutive := 0, evwRequest := none } })))

/-- An event record is written whole (R152, R155, 11.7): from no write in progress, with an event pending and the ring not full,
EVENT_WRITE_START and four EVENT_WORD_WRITTEN leave the 16 bytes of the record at window offset 0x2400 + 16 P of SRAM and every other byte as
it was, take the event off the queue, advance P by one slot, and leave the write stage none and no request. The kind codes and those of the
detail fields are the tables of R152 and 11.7. -/
def Obligations.EventRecordWritten : Prop :=
  ([EventKind.record, .stranger, .duplicate, .reappear, .admitRefused, .discard, .image, .port, .quiet, .line].map kindCode
      = [1, 2, 3, 4, 5, 6, 7, 8, 9, 10] ∧
    [ChangeReason.intent, .hello, .assignTaken, .ranged, .attemptFailed, .equalizeTaken, .channel, .profileDone, .settled, .reRange
      , .commitTaken, .releaseTaken, .reappear, .port, .failure].map changeCode = [1, 2, 3, 4, 5, 6, 7, 8, 9, 10, 11, 12, 13, 14, 15] ∧
    [DiscardReason.state, .port, .inUse, .range, .badIntent].map discardCode = [1, 2, 3, 4, 5] ∧
    [QuietDetail.deny, .timeout, .lateGive, .revoked, .lateRevoke].map quietCode = [1, 2, 3, 4, 5] ∧
    [LineDetail.down, .up, .slip].map lineCode = [1, 2, 3]) ∧
  ∀ (s : State) (e : Event) (q : List Event), Memory.wf s.sram →
    s.evw.queue = e :: q → s.evw.producer + 1 ≠ s.evw.consumer → s.evw.stage = 0 →
    ∃ s1 s2 s3 s4 t, exec .eventWriteStart s = .next s1 ∧ exec .eventWordWritten s1 = .next s2 ∧
      exec .eventWordWritten s2 = .next s3 ∧ exec .eventWordWritten s3 = .next s4 ∧ exec .eventWordWritten s4 = .next t ∧
      (∀ k, k < 16 →
        Memory.read t.sram (65536 * s.bpt.base.toNat + 9216 + 16 * s.evw.producer.toNat + k) = byteAt (eventBytes e) k) ∧
      (∀ x, (∀ k, k < 16 → x ≠ 65536 * s.bpt.base.toNat + 9216 + 16 * s.evw.producer.toNat + k) →
        Memory.read t.sram x = Memory.read s.sram x) ∧
      t = { s with
        sram := t.sram
        evw := { s.evw with
          queue := q, written := s.evw.written ++ [e.cycle], producer := s.evw.producer + 1, line := t.evw.line }
        bpt := { s.bpt with consecutive := 0, evwRequest := none } }

/-- CONSUMER_INDEX_WRITE (R143, R156). In the overlay states a value from C to P circularly is accepted, the records before it are consumed and
the interrupt line follows; any other is rejected with DISCARD of reason RANGE and the offset 0x0084. In OFF, and in LOADING, whose last word
it is, the write reaches SRAM alone. -/
def Obligations.ConsumerIndexWrite : Prop :=
  ∀ (s : State) (v : Byte) (high : BitVec 24) (he : BitVec 3), s.holdDue = false →
    let u := headerWritten s 33 (withLane0 v high) (enableLane0 he)
    let n := (v - s.evw.consumer).toNat
    ((s.pct.port = .off ∧ s.pct.load = none) ∨ (s.pct.port = .loading ∧ ∃ m, s.pct.load = some m ∧ m < 592) →
      exec (.consumerIndexWrite v high he) s = .next (written s (s.busAddr 33) (withLane0 v high) (enableLane0 he))) ∧
    (s.pct.port ≠ .off → s.pct.port ≠ .loading →
      (n ≤ (s.evw.producer - s.evw.consumer).toNat → exec (.consumerIndexWrite v high he) s =
        .next (State.followInterrupt { u with evw := { s.evw with consumer := v, written := s.evw.written.drop n } })) ∧
      ((s.evw.producer - s.evw.consumer).toNat < n → exec (.consumerIndexWrite v high he) s =
        .next (State.raise (u.count .discards) (discardEvent 255 .range 0x84))))

/-- The interrupt line (R158) after a cycle start, an accepted consumer index, a written interrupt setting or a finished event record, and at
INTERRUPT_HOLD while the hold condition holds: high exactly while the interrupt is enabled and the unconsumed count has reached Threshold or
the oldest unconsumed record has waited HoldCycles.
INTERRUPT_HOLD (R158): while the hold condition holds and the interrupt is enabled, the line rises and nothing else changes; while it does
not hold, nothing changes (log 1). -/
def Obligations.InterruptLine : Prop :=
  (∀ (s t : State) (c : Instr), exec c s = .next t →
    ((∃ n, c = .cycle n) ∨ (c = .interruptHold ∧ s.holdCondition = true) ∨
      (c = .eventWordWritten ∧ s.bpt.evwRequest ≠ none ∧ s.evw.queue ≠ [] ∧ 4 ≤ s.evw.stage) ∨
      (∃ data be, c = .setupWrite 32 data be ∧ be ≠ 0 ∧ s.holdDue = false ∧ s.pct.port ≠ .off ∧ s.pct.port ≠ .loading) ∨
      (∃ v high he, c = .consumerIndexWrite v high he ∧ s.holdDue = false ∧ s.pct.port ≠ .off ∧ s.pct.port ≠ .loading ∧
        (v - s.evw.consumer).toNat ≤ (s.evw.producer - s.evw.consumer).toNat)) →
    (t.evw.line = true ↔
      t.header.irqEnable ≠ 0 ∧
        (t.header.threshold.toNat ≤ (t.evw.producer - t.evw.consumer).toNat ∨
          (t.header.holdCycles ≠ 0 ∧ 1 ≤ (t.evw.producer - t.evw.consumer).toNat ∧
            ∃ oldest rest, t.evw.written = oldest :: rest ∧
              t.header.holdCycles.toNat ≤ (t.ltu.cycle - oldest).toNat)))) ∧
  (∀ s : State,
    (s.header.irqEnable ≠ 0 → s.header.holdCycles ≠ 0 → 1 ≤ (s.evw.producer - s.evw.consumer).toNat →
      (∃ oldest rest, s.evw.written = oldest :: rest ∧ s.header.holdCycles.toNat ≤ (s.ltu.cycle - oldest).toNat) →
      exec .interruptHold s = .next { s with evw := { s.evw with line := true } }) ∧
    (s.holdCondition = false → exec .interruptHold s = .next s))

/-! ### Intents -/

/-- INTENT_ADMIT while RUNNING (R7, R8, R9, R12, R39, R45): in EMPTY, HELD and FAILED the admission is refused where a live record holds the
serial, with ADMIT_REFUSED naming the lowest-indexed of them (R9 makes it the only one); otherwise the record enters AWAITING with its
activation fields cleared, its serial leaves the stranger list, and with ParkRounds above 0 an unpark is queued, or dropped and counted where
16 wait. In RELEASING the destination becomes AWAITING. In every other state ADMIT has no effect. Fields written with
the intent are accepted or discarded by the state found at the write (log 9), a DISCARD raised before the effect of the intent (log 8). -/
def Obligations.IntentAdmit : Prop :=
  ∀ (s : State) (i : RecIx) (high : BitVec 24) (he : BitVec 3), s.holdDue = false → s.pct.port = .running →
    let v := intentStored s i (withLane0 1 high) (enableLane0 he)
    let r := v.record i
    let holds := fun k : RecIx => (v.record k).state.live = true ∧ (v.record k).serial = r.serial
    (r.state = .empty ∨ r.state = .held ∨ r.state = .failed →
      (∀ k, holds k → (∀ m < k, ¬holds m) → exec (.intentAdmit i high he) s =
        .next (State.raise v { kind := .admitRefused, index := BitVec.ofNat 8 i.val, detail0 := BitVec.ofNat 8 k.val
                               detail1 := 0, value := r.tag })) ∧
      ((∀ k, ¬holds k) →
        let w := State.raise { v with records := v.records.set i (admitted r s.ltu.cycle) } (recordEvent i .awaiting .intent r.tag)
        exec (.intentAdmit i high he) s = .next
          { w with
            dsu := { s.dsu with
              strangers := s.dsu.strangers.filter (fun e => decide (e.serial ≠ r.serial))
              parks := if s.header.parkRounds ≠ 0 ∧ s.dsu.parks.length < 16 then s.dsu.parks ++ [{ serial := r.serial, rounds := 0 }]
                else s.dsu.parks }
            counters := if s.header.parkRounds ≠ 0 ∧ 16 ≤ s.dsu.parks.length then w.counters.inc .parkDrops else w.counters })) ∧
    (r.state = .releasing → exec (.intentAdmit i high he) s =
      .next { v with records := v.records.set i { r with dest := .awaiting } }) ∧
    (r.state.inActivation = true ∨ r.state = .awaiting ∨ r.state = .inService → exec (.intentAdmit i high he) s = .next v)

/-- INTENT_HOLD while RUNNING (R6, R7, R8, R10, R11, R12): EMPTY, AWAITING and FAILED enter HELD; an in-activation or IN_SERVICE record enters
RELEASING with destination HELD and its work abandoned; in RELEASING the destination becomes HELD; HELD is unaffected. Fields written with the
intent are accepted or discarded by the state found at the write (log 9); a DISCARD is raised before the effect of the intent, and the RECORD
event of the released record before that of a record granted its channel (log 8). The run length and the hunt record are emptied as the arm
line drops (log 38). A read still queued as its channel is freed or granted anew is marked and served first (log 32). -/
def Obligations.IntentHold : Prop :=
  ∀ (s : State) (i : RecIx) (high : BitVec 24) (he : BitVec 3), s.holdDue = false → s.pct.port = .running →
    let v := intentStored s i (withLane0 2 high) (enableLane0 he)
    let r := v.record i
    (r.state = .empty ∨ r.state = .awaiting ∨ r.state = .failed → exec (.intentHold i high he) s =
      .next (State.raise { v with records := v.records.set i { r with state := .held, lastChange := s.ltu.cycle } }
        (recordEvent i .held .intent r.tag))) ∧
    (r.state = .held → exec (.intentHold i high he) s = .next v) ∧
    (r.state = .releasing → exec (.intentHold i high he) s = .next { v with records := v.records.set i { r with dest := .held } }) ∧
    (r.state.inActivation = true ∨ r.state = .inService → ∃ t, exec (.intentHold i high he) s = .next t ∧
      Released v t i .held .intent none)

/-- INTENT_VACANT while RUNNING (R6, R7, R8, R10, R11, R12): AWAITING, HELD and FAILED enter EMPTY with every live field at its reset value; an
in-activation or IN_SERVICE record enters RELEASING with destination EMPTY and its work abandoned; in RELEASING the destination becomes EMPTY;
EMPTY is unaffected. Fields written with the intent are accepted or discarded by the state found at the write (log 9); a DISCARD is raised
before the effect of the intent, and the RECORD event of the released record before that of a record granted its channel (log 8). The run
length and the hunt record are emptied as the arm line drops (log 38). A read still queued as its channel is freed or granted anew is marked
and served first (log 32). -/
def Obligations.IntentVacant : Prop :=
  ∀ (s : State) (i : RecIx) (high : BitVec 24) (he : BitVec 3), s.holdDue = false → s.pct.port = .running →
    let v := intentStored s i (withLane0 0 high) (enableLane0 he)
    let r := v.record i
    (r.state = .awaiting ∨ r.state = .held ∨ r.state = .failed → exec (.intentVacant i high he) s =
      .next (State.raise { v with records := v.records.set i (emptied r s.ltu.cycle) } (recordEvent i .empty .intent r.tag))) ∧
    (r.state = .empty → exec (.intentVacant i high he) s = .next v) ∧
    (r.state = .releasing → exec (.intentVacant i high he) s = .next { v with records := v.records.set i { r with dest := .empty } }) ∧
    (r.state.inActivation = true ∨ r.state = .inService → ∃ t, exec (.intentVacant i high he) s = .next t ∧
      Released v t i .empty .intent none)

/-- An intent outside 0 to 2 and intents outside RUNNING (R2, R3, R7, R143): a value of 3 or more written while RUNNING is stored as written,
raises DISCARD of reason BAD_INTENT and acts as HOLD; in CONFIG, DRAINING and HALTED an intent is stored and waits; in OFF it reaches SRAM
alone; in LOADING it is stored where the load has read its word. The word's other fields are accepted or discarded by the state found at the
write (log 9), and each DISCARD is raised before the effect of the intent (log 8). -/
def Obligations.IntentKept : Prop :=
  ∀ (s : State) (i : RecIx) (data : Word) (be : Enables), s.holdDue = false → be.getLsbD 0 = true →
    let c : Instr :=
      if byteOf data 0 = 0 then .intentVacant i (data.extractLsb' 8 24) (be.extractLsb' 1 3)
      else if byteOf data 0 = 1 then .intentAdmit i (data.extractLsb' 8 24) (be.extractLsb' 1 3)
      else if byteOf data 0 = 2 then .intentHold i (data.extractLsb' 8 24) (be.extractLsb' 1 3)
      else .setupWrite (intentWord i) data be
    (s.pct.port = .running → 3 ≤ (byteOf data 0).toNat →
      exec (.setupWrite (intentWord i) data be) s = .next (State.actHold
        (State.raise ((intentStored s i data be).count .discards)
          (discardEvent (BitVec.ofNat 8 i.val) .badIntent (1024 + 64 * i.val))) i)) ∧
    (s.pct.port = .config ∨ s.pct.port = .draining ∨ s.pct.port = .halted → exec c s = .next (intentStored s i data be)) ∧
    (s.pct.port = .off → s.pct.load = none → exec c s = .next (written s (s.busAddr (intentWord i)) data be)) ∧
    (∀ n, s.pct.port = .loading → s.pct.load = some n → exec c s =
      .next (if 79 + 4 * i.val < n then
          { written s (s.busAddr (intentWord i)) data be with records := s.records.set i ((s.record i).store 0 data be) }
        else written s (s.busAddr (intentWord i)) data be))

/-! ### Setup writes -/

/-- SETUP_WRITE of a record's fields other than the intent (R2, R3, R4, R142, R143, R145): in the overlay states, while the record is EMPTY,
HELD or FAILED, the word is merged by byte enables with the word held, profile index, N and K put right in their lanes; in any other state
nothing is stored and one DISCARD of reason STATE is raised. A write to a live word, or that enables no byte (log 28), stores nothing and
raises nothing. Each write to the record ends its snapshot. In OFF a write reaches SRAM alone; in LOADING the copy takes a setup word where the
load has read it. -/
def Obligations.SetupWriteRecord : Prop :=
  ∀ (s : State) (i : RecIx) (data : Word) (be : Enables), s.holdDue = false →
    let r := s.record i
    let writes := fun k : Nat => Instr.setupWrite (setupWordOf i k) data be
    let bare := fun k : Nat => written s (s.busAddr (setupWordOf i k)) data be
    let overlay := s.pct.port ≠ .off ∧ s.pct.port ≠ .loading
    let fixed := fun m => if be.getLsbD m then byteOf data m else byteOf (r.setupWord 0) m
    let stores := fun (k : Fin 4) (r' : Record) =>
      r' = { r with
        profileIx := r'.profileIx, samples := r'.samples, settleCount := r'.settleCount, serial := r'.serial, tag := r'.tag } ∧
      (∀ m : Fin 4, m ≠ k → r'.setupWord m.val = r.setupWord m.val) ∧
      (k ≠ 0 → r'.setupWord k.val = merge (r.setupWord k.val) data be) ∧
      (k = 0 →
        r'.profileIx = (if be.getLsbD 1 ∧ 16 ≤ (fixed 1).toNat then 255 else fixed 1) ∧
        r'.samples = (if be.getLsbD 2 then (if (fixed 2).toNat ≤ 1 then 1 else if (fixed 2).toNat ≤ 3 then 2 else 4) else fixed 2) ∧
        r'.settleCount =
          (if be.getLsbD 3 then (if (fixed 3).toNat ≤ 2 then 2 else if 8 < (fixed 3).toNat then 8 else fixed 3) else fixed 3))
    (∀ k : Fin 4, be ≠ 0 → (k = 0 → be.getLsbD 0 = false) →
      (overlay → r.state = .empty ∨ r.state = .held ∨ r.state = .failed → ∃ r', stores k r' ∧
        exec (writes k.val) s = .next { recordWritten s i k.val data be with records := s.records.set i r' }) ∧
      (overlay → ¬(r.state = .empty ∨ r.state = .held ∨ r.state = .failed) → exec (writes k.val) s =
        .next (State.raise ((recordWritten s i k.val data be).count .discards)
          (discardEvent (BitVec.ofNat 8 i.val) .state (1024 + 64 * i.val + 4 * k.val)))) ∧
      (∀ n, s.pct.port = .loading → s.pct.load = some n →
        (n ≤ 79 + 4 * i.val + k.val → exec (writes k.val) s = .next (bare k.val)) ∧
        (79 + 4 * i.val + k.val < n → ∃ r', stores k r' ∧
          exec (writes k.val) s = .next { bare k.val with records := s.records.set i r' }))) ∧
    (∀ k : Nat, k < 16 → 4 ≤ k ∨ be = 0 → overlay → exec (writes k) s = .next (recordWritten s i k data be)) ∧
    (∀ k : Nat, k < 16 → (s.pct.port = .off ∧ s.pct.load = none) ∨ (4 ≤ k ∧ s.pct.port = .loading) →
      exec (writes k) s = .next (bare k))

/-- SETUP_WRITE of header settings, directory entries, live words and pop words (R30, R47, R76, R93, R142, R143, R146, R157, R161, R164). In
the overlay states: timing and ranging settings are stored in CONFIG and otherwise discarded with reason PORT, TargetLoop with reason STATE
while an eq-valid flag is set; discovery settings are stored in CONFIG and otherwise discarded with reason STATE; interrupt settings are always
stored; a directory entry is stored unless a channel uses it, which is reason IN_USE; header live words, directory live halves and pop words
store nothing and raise nothing. A write to a header word, setup or live, ends the header snapshot, one that enables no byte too (log 28). In
OFF a write reaches SRAM alone; in LOADING the copy takes a setup word where the load has read it. A stored byte below its range becomes the
low bound, above it the high bound, in range itself; a lane not written keeps its byte, and the other fields of the word and the other words
stay. -/
def Obligations.SetupWriteSettings : Prop :=
  (∀ (s : State) (k : WinWord) (data : Word) (be : Enables), s.holdDue = false →
    let n := k.toNat
    let lanes := be &&& headerLanes n
    let c := Instr.setupWrite k data be
    let bare := written s (s.busAddr k) data be
    let u := headerWritten s k data be
    let stored : State := { u with header := s.header.store n data lanes }
    let eqValid := ∃ i : RecIx, (s.record i).eqValid = true
    let lowered := fun t : State =>
      ∀ i, t.record i = { s.record i with rangeUsed := min (s.record i).rangeUsed t.header.rangeLimit.toNat }
    let puts := fun (p : DirIx) (e' : DirEntry) => exec c s = .next { bare with pex := { s.pex with dir := s.pex.dir.set p e' } } ∧
      e'.setupWord = merge (s.dirEntry p).setupWord data be ∧ e'.liveWord = (s.dirEntry p).liveWord
    (s.pct.port ≠ .off → s.pct.port ≠ .loading →
      (1 ≤ n → n < 16 → lanes ≠ 0 →
        (s.pct.port ≠ .config → exec c s = .next (State.raise (u.count .discards) (discardEvent 255 .port (4 * n)))) ∧
        (s.pct.port = .config → n = 1 → eqValid → exec c s =
          .next (State.raise (u.count .discards) (discardEvent 255 .state (4 * n)))) ∧
        (s.pct.port = .config → (n = 1 → ¬eqValid) → (n = 4 → be.getLsbD 1 = false) → exec c s = .next stored) ∧
        (s.pct.port = .config → n = 4 → be.getLsbD 1 = true → ∃ t, exec c s = .next t ∧ t = { stored with records := t.records } ∧
          lowered t)) ∧
      (16 ≤ n → n < 32 → lanes ≠ 0 →
        (s.pct.port = .config → exec c s = .next stored) ∧
        (s.pct.port ≠ .config → exec c s = .next (State.raise (u.count .discards) (discardEvent 255 .state (4 * n))))) ∧
      (n = 32 → lanes ≠ 0 → exec c s = .next (State.followInterrupt stored)) ∧
      (n < 64 → lanes = 0 → exec c s = .next u) ∧
      (64 ≤ n → n < 128 → exec c s = .next u) ∧
      (160 ≤ n → n < 168 → exec c s = .next bare) ∧
      (∀ p : DirIx, n = 129 + 2 * p.val ∨ (n = 128 + 2 * p.val ∧ be = 0) → exec c s = .next bare) ∧
      (∀ p : DirIx, n = 128 + 2 * p.val → be ≠ 0 →
        ((∃ ch, (s.chan ch).stage ≠ .free ∧ (s.chan ch).dir = p) → exec c s =
          .next (State.raise (bare.count .discards) (discardEvent 255 .inUse (512 + 8 * p.val)))) ∧
        ((∀ ch, (s.chan ch).stage ≠ .free → (s.chan ch).dir ≠ p) → ∃ e', puts p e'))) ∧
    (s.pct.port = .off → s.pct.load = none → exec c s = .next bare) ∧
    (∀ m, s.pct.port = .loading → s.pct.load = some m →
      let taken := (if n < 33 then n else n - 1) < m
      (n < 64 → n ≠ 33 → ¬taken → exec c s = .next bare) ∧
      (n < 64 → n ≠ 33 → taken → (n = 4 → be.getLsbD 1 = false) →
        exec c s = .next { bare with header := s.header.store n data lanes }) ∧
      (n = 4 → taken → be.getLsbD 1 = true → ∃ t, exec c s = .next t ∧
        t = { bare with header := s.header.store n data lanes, records := t.records } ∧ lowered t) ∧
      (∀ p : DirIx, n = 128 + 2 * p.val →
        (m ≤ 63 + p.val → exec c s = .next bare) ∧ (63 + p.val < m → ∃ e', puts p e')) ∧
      ((n = 33 ∧ lanes = 0) ∨ (64 ≤ n ∧ n < 128) ∨ (160 ≤ n ∧ n < 168) ∨ (∃ p : DirIx, n = 129 + 2 * p.val) → exec c s = .next bare))) ∧
  (∀ (h : Header) (data : Word) (be : Enables),
    let lane := fun (old : Byte) (m : Nat) => if be.getLsbD m then byteOf data m else old
    let fit := fun (lo hi : Nat) (old : Byte) (m : Nat) =>
      if be.getLsbD m then BitVec.ofNat 8 (max lo (min hi (byteOf data m).toNat)) else old
    let half := fun (old : BitVec 16) (m : Nat) => lane (old.extractLsb' 8 8) (m + 1) ++ lane (old.extractLsb' 0 8) m
    h.store 0 data be = { h with portIntent := lane h.portIntent 0 } ∧
    h.store 1 data be = { h with targetLoop := merge h.targetLoop data be } ∧
    h.store 2 data be = { h with spanStart := merge h.spanStart data be } ∧
    h.store 3 data be = { h with
      slotLen := half h.slotLen 0, slotCount := lane h.slotCount 2, replyLead := fit 2 15 h.replyLead 3 } ∧
    h.store 4 data be = { h with
      quietWait := fit 1 255 h.quietWait 0, rangeLimit := fit 1 15 h.rangeLimit 1, spreadLimit := lane h.spreadLimit 2
      tol := fit 1 64 h.tol 3 } ∧
    h.store 5 data be = { h with blockRetries := fit 1 15 h.blockRetries 0 } ∧
    h.store 16 data be = { h with
      discoveryPeriod := if be.getLsbD 0 = true ∨ be.getLsbD 1 = true
        then BitVec.ofNat 16 (max 64 (half h.discoveryPeriod 0).toNat) else h.discoveryPeriod
      discoveryDefer := fit 1 15 h.discoveryDefer 2, parkRounds := lane h.parkRounds 3 } ∧
    h.store 17 data be = { h with
      spreadMin := fit 0 8 h.spreadMin 0, spreadInit := fit 0 8 h.spreadInit 1, spreadMax := fit 0 8 h.spreadMax 2
      openDiscovery := lane h.openDiscovery 3 } ∧
    h.store 18 data be = { h with
      filterAOn := lane h.filterAOn 0, filterBOn := lane h.filterBOn 1, rangeMode := lane h.rangeMode 2 } ∧
    h.store 19 data be = { h with filterAValue := merge h.filterAValue data be } ∧
    h.store 20 data be = { h with filterAMask := merge h.filterAMask data be } ∧
    h.store 21 data be = { h with filterBValue := merge h.filterBValue data be } ∧
    h.store 22 data be = { h with filterBMask := merge h.filterBMask data be } ∧
    h.store 23 data be = { h with rangeLower := merge h.rangeLower data be } ∧
    h.store 24 data be = { h with rangeUpper := merge h.rangeUpper data be } ∧
    h.store 32 data be = { h with
      irqEnable := lane h.irqEnable 0, threshold := fit 1 255 h.threshold 1, holdCycles := half h.holdCycles 2 })

/-- IMAGE_WRITE (R90, R91, R140, R142, R143): in OFF and LOADING, and where it touches the image range of no entry in use, the write passes to
SRAM and changes nothing else. Otherwise every channel whose entry it touches restarts, in channel index order, also where several use one
entry: IMAGE is raised, its PROFILE-BLOCK leaves the reply-bearing list, its booking becomes a void, its record's blocks acked become 0, and it
scans its entry from the first byte. A channel whose push has ended and whose outcome has not reached the RTB counts as one that uses its
entry, and its outcome is dropped (log 13). The run length and the hunt record are emptied as an armed booking is answered (log 38), and a read
still queued is marked and served before the new work's own (log 32). -/
def Obligations.ImageWrite : Prop :=
  ∀ (s : State) (w : WinWord) (data : Word) (be : Enables), s.holdDue = false → 3328 ≤ w.toNat →
    let touched := fun ch : ChanIx => (s.chan ch).stage ≠ .free ∧
      ∃ k < 4, be.getLsbD k = true ∧ (s.dirEntry (s.chan ch).dir).offset.toNat ≤ 4 * w.toNat + k ∧
        4 * w.toNat + k < (s.dirEntry (s.chan ch).dir).offset.toNat + (s.dirEntry (s.chan ch).dir).length.toNat
    ((s.pct.port = .off ∨ s.pct.port = .loading ∨ ∀ ch, ¬touched ch) →
      exec (.imageWrite w data be) s = .next (written s (s.busAddr w) data be)) ∧
    (∀ chs : List ChanIx, s.pct.port ≠ .off → s.pct.port ≠ .loading → chs.Pairwise (fun a b => a < b) →
      (∀ ch, ch ∈ chs ↔ touched ch) →
      ∃ t, exec (.imageWrite w data be) s = .next t ∧ RestartedAll chs (written s (s.busAddr w) data be) t)

/-! ### Reads with effects -/

/-- RECORD_SNAPSHOT_READ (R141, R144, R145): in the overlay states it answers the setup word of the copy and latches the live bytes, in place
of any snapshot held; while the snapshot is held, a read of live word `k` of that record answers the latched word, whatever the record has
become. In OFF and LOADING it answers SRAM.
HEADER_SNAPSHOT_READ (R141, R146): in the overlay states it answers header live word 0 and latches the header live region; while the
snapshot is held, a read of header live word `k` above 0 answers the latched word. In OFF and LOADING it answers SRAM. -/
def Obligations.SnapshotReads : Prop :=
  (∀ (s : State) (i : RecIx), s.holdDue = false →
    (s.pct.port = .off ∨ s.pct.port = .loading → exec (.recordSnapshotRead i) s =
      .next { passed s with links := { s.links with readData := s.sramWord (setupWordOf i 0) } }) ∧
    (s.pct.port ≠ .off → s.pct.port ≠ .loading → ∃ t, exec (.recordSnapshotRead i) s = .next t ∧
      t = { s with
        bpt := { (passed s).bpt with snapHeld := true, snapIndex := i, snap := t.bpt.snap }
        links := { s.links with readData := word4 (s.record i).intent (s.record i).profileIx (s.record i).samples (s.record i).settleCount } } ∧
      (∀ k : Fin 12, t.bpt.snap[k] = (s.record i).liveWord k.val) ∧
      ∀ (t' : State) (k : Fin 12), t'.holdDue = false → t'.pct.port ≠ .off → t'.pct.port ≠ .loading →
        t'.bpt.snapHeld = true → t'.bpt.snapIndex = i → t'.bpt.snap = t.bpt.snap →
        exec (.consecutiveAccess (.read (t'.busAddr (setupWordOf i (4 + k.val))))) t' =
          .next { passed t' with links := { t'.links with readData := (s.record i).liveWord k.val } })) ∧
  (∀ s : State, s.holdDue = false →
    (s.pct.port = .off ∨ s.pct.port = .loading → exec .headerSnapshotRead s =
      .next { passed s with links := { s.links with readData := s.sramWord 64 } }) ∧
    (s.pct.port ≠ .off → s.pct.port ≠ .loading → ∃ t, exec .headerSnapshotRead s = .next t ∧
      t = { s with
        bpt := { (passed s).bpt with headerHeld := true, headerSnap := t.bpt.headerSnap }
        links := { s.links with readData := word4 (portCode s.pct.port) (if s.ltu.lineUp then 1 else 0) (refusalCode s.pct.refusal) (BitVec.ofNat 8 s.dsu.exponent) } } ∧
      (∀ k : Fin 64, t.bpt.headerSnap[k] = headerLiveWord s k.val) ∧
      ∀ (t' : State) (k : Fin 64), 1 ≤ k.val → t'.holdDue = false → t'.pct.port ≠ .off → t'.pct.port ≠ .loading →
        t'.bpt.headerHeld = true → t'.bpt.headerSnap = t.bpt.headerSnap →
        exec (.consecutiveAccess (.read (t'.busAddr (BitVec.ofNat 14 (64 + k.val))))) t' =
          .next { passed t' with links := { t'.links with readData := headerLiveWord s k.val } }))

/-- POP_READ (R46, R47, 11.6): in the overlay states the head of the stranger list moves into the pop buffer with valid set and the number left;
with the list empty the entry fields stay, valid is 0 and empty 1; word 0 of the buffer as it then stands is answered. In OFF and LOADING
it answers SRAM. -/
def Obligations.PopRead : Prop :=
  ∀ s : State, s.holdDue = false →
    (s.pct.port = .off ∨ s.pct.port = .loading → exec .popRead s =
      .next { passed s with links := { s.links with readData := s.sramWord 160 } }) ∧
    (s.pct.port ≠ .off → s.pct.port ≠ .loading →
      (∀ e rest, s.dsu.strangers = e :: rest → exec .popRead s = .next { passed s with
        dsu := { s.dsu with strangers := rest, pop := { entry := e, valid := true, empty := false, remaining := rest.length } }
        links := { s.links with readData := word4 1 (BitVec.ofNat 8 rest.length) (convCode e.conv) (BitVec.ofNat 8 e.count) } }) ∧
      (s.dsu.strangers = [] → exec .popRead s = .next { passed s with
        dsu := { s.dsu with pop := { s.dsu.pop with valid := false, empty := true, remaining := 0 } }
        links := { s.links with readData := word4 2 0 (convCode s.dsu.pop.entry.conv) (BitVec.ofNat 8 s.dsu.pop.entry.count) } }))

/-- IMAGE_READ (R77, R78, R79, R19, R83, R84, R90, R148). From the start of a pre-scan of an entry in the image area, with no request of a
higher rank waiting, a number of IMAGE_READs no larger than the words of the image ends it. If the image expands and to no more than 4,096
bytes, the expanded length and the sum of the expansion are stored in the live half, the record's blocks total is the expanded length over 16,
rounded up, and the channel, FILLING, begins buffer A with block 0 and asks for the first word of the image; if not, the live half is unchanged
and the push ends with an image failure. For a channel that fills a buffer with block k, one IMAGE_READ expands the bytes of the word: a block
is cut at 16 bytes or at the image's end, padded with zeros, the last one marked; the other buffer begins with block k + 1 if it is EMPTY and a
block remains; a FILLING channel whose current block is FULL becomes READY with its PROFILE-BLOCK queued. The next word is asked for exactly
while a buffer is still filling, all of this word being used, and no byte of the expansion is lost or repeated; image bytes left over when no
buffer is filling are dropped, and their word is read again when needed (log 45). A channel whose push has failed goes on so until its
PROFILE_OUTCOME (log 44). The data of a read marked for discard is not used: a channel at work then asks for the read it wants (log 32). An
IMAGE_READ of a channel whose read does not rank highest changes nothing (log 1). -/
def Obligations.PreScan : Prop :=
  ∀ (s : State) (ch : ChanIx),
    let c := s.chan ch
    let e := s.dirEntry c.dir
    let past := e.offset.toNat + e.length.toNat
    let wordAt := fun x : Nat => ({ word := BitVec.ofNat 14 (x / 4), dropped := false } : ReadRequest)
    let served := fun r : Option ReadRequest =>
      ({ s with bpt := { s.bpt with consecutive := 0, chanRequests := s.bpt.chanRequests.set ch r } } : State)
    let atWork := c.stage = .filling ∨ c.stage = .ready ∨ ∃ ct j n, c.stage = .sent ct j n
    ((∀ r, ¬ReadNext s ch r) → exec (.imageRead ch) s = .next s) ∧
    (c.stage = .scanning → c.pos = e.offset.toNat → c.item = .idle → c.scanLen = 0 → c.scanSum = 0 →
      1 ≤ e.length.toNat → 13312 ≤ e.offset.toNat → past ≤ 65536 → ReadNext s ch (wordAt e.offset.toNat) →
      ∃ n t, n ≤ e.length.toNat / 4 + 2 ∧ ImageReads ch n s t ∧
        let failed := t.dirEntry c.dir = e ∧ (t.chan ch).stage = .reported .imageFailed ∧ t.records = s.records ∧
          t.pex.reports = s.pex.reports ++ [{ index := c.index, chan := ch }]
        match expand .idle (imageBytes s e) with
        | some xs =>
          if xs.length ≤ 4096 then
            t.dirEntry c.dir = { e with expanded := xs.length, sum := byteSum xs } ∧
            (t.record c.index).blocksTotal = (xs.length + 15) / 16 ∧ (t.record c.index).blocksAcked = 0 ∧
            t.chan ch = { c with
              stage := .filling, blocks := (xs.length + 15) / 16, current := 0, retries := 0, bufA := .filling [], bufB := .empty
              pos := e.offset.toNat, item := .idle, next := 0, scanLen := xs.length, scanSum := byteSum xs } ∧
            t.chanRequest ch = some (wordAt e.offset.toNat) ∧ t.dsq = s.dsq ∧ t.pex.reports = s.pex.reports
          else failed
        | none => failed) ∧
    (∀ (bs ys : List Byte), atWork ∨ (∃ o, c.stage = .reported o) → c.buffer c.next = .filling bs → bs.length < 16 → (∀ b, c.buffer (c.next + 1) ≠ .filling b) →
      (∀ v n, c.item ≠ .repeating v n) → c.item ≠ .awaitValue 0 → e.offset.toNat ≤ c.pos → c.pos < past → past ≤ 65536 →
      owed c.item (imageFrom s e c.pos) = some ys → c.blocks = c.next + ((bs ++ ys).length + 15) / 16 → ReadNext s ch (wordAt c.pos) →
      ∃ (c' : Channel) (m : Nat) (zs : List Byte),
        let piece := (bs ++ ys).drop (16 * m)
        let wants := c'.buffer c'.next = .filling (piece.take (piece.length - zs.length))
        m ≤ 2 ∧ c'.next = c.next + m ∧ owed c'.item (imageFrom s e c'.pos) = some zs ∧ zs = piece.drop (piece.length - zs.length) ∧
        c' = { c with stage := c'.stage, bufA := c'.bufA, bufB := c'.bufB, pos := c'.pos, item := c'.item, next := c'.next } ∧
        c'.stage = (if c.stage = .filling ∧ (c'.buffer c.current).isFull = true then .ready else c.stage) ∧
        (∀ j < m, c'.buffer (c.next + j) = fullBlock c.blocks (c.next + j) (((bs ++ ys).drop (16 * j)).take 16)) ∧
        (m = 0 → wants ∧ c'.buffer (c.next + 1) = c.buffer (c.next + 1)) ∧
        (m = 1 → c.buffer (c.next + 1) = .empty → c.next + 1 < c.blocks → wants) ∧
        (m = 1 → c.buffer (c.next + 1) ≠ .empty ∨ c.blocks ≤ c.next + 1 → c'.buffer (c.next + 1) = c.buffer (c.next + 1)) ∧
        (m = 2 → c.buffer (c.next + 1) = .empty ∧ c.next + 1 < c.blocks) ∧
        (wants → piece.length - zs.length < 16 ∧ c'.pos = 4 * (c.pos / 4 + 1)) ∧ (¬wants → zs = piece) ∧
        ∃ r : Option ReadRequest, (wants → r = some (wordAt c'.pos)) ∧ (¬wants → r = none) ∧
          exec (.imageRead ch) s = .next { served r with
            pex := { s.pex with chans := s.pex.chans.set ch c' }
            dsq := { s.dsq with
              reply := s.dsq.reply ++ if c.stage = .filling ∧ c'.stage = .ready then [{ index := c.index, kind := .profileBlock }] else [] } }) ∧
    (∀ r, ReadNext s ch r → r.dropped = true →
      (c.stage = .free ∨ (∃ o, c.stage = .reported o) → exec (.imageRead ch) s = .next (served none)) ∧
      (c.stage = .scanning → exec (.imageRead ch) s = .next (served (some (wordAt c.pos)))) ∧
      (atWork → ¬(c.stage = .filling ∧ (c.buffer c.current).isFull = true) →
        (∀ bs, c.buffer c.next = .filling bs → bs.length < 16 → (∀ v n, c.item ≠ .repeating v n) → (c.item = .idle → c.pos < past) →
          exec (.imageRead ch) s = .next (served (some (wordAt c.pos)))) ∧
        ((c.buffer c.next).isFull = true ∨ (c.buffer c.next = .empty ∧ c.blocks ≤ c.next) →
          exec (.imageRead ch) s = .next (served none))))

/-! ### The upstream timeline -/

/-- ASK (R98): for every record, purpose and length, the not-before cycle is the smallest cycle number at or after c + 2 that begins no sooner
than the arrival end of every booked or void slot of the map; the ASK is sent, the window record filled with wait count 0, the quiet state
is ASKED and the quiet-asks counter rises by 1. -/
def Obligations.AskWindow : Prop :=
  ∀ (s : State) (p : Purpose) (length : Nat), ∃ n : Nat,
    let clears := fun (m : Nat) => ∀ e ∈ s.ltu.map,
      (s.header.targetLoop.toNat + s.header.spanStart.toNat + (e.j + 1) * s.header.slotLen.toNat : Int)
        ≤ 160000 * ((m : Int) - (e.ct - s.ltu.cycle).toInt)
    2 ≤ n ∧ clears n ∧ (∀ m : Nat, 2 ≤ m → clears m → n ≤ m) ∧
    s.ask p length = { s with
      links := { s.links with sched := s.links.sched ++
        [.ask length (s.ltu.cycle + BitVec.ofNat 32 n) (match p with | .discovery => .discovery | .ranging _ _ => .ranging)] }
      ltu := { s.ltu with
        quiet := .asked { purpose := p, length := length, notBefore := s.ltu.cycle + BitVec.ofNat 32 n, wait := 0, cq := 0 } }
      counters := { s.counters with
        quietAsks := if s.counters.quietAsks < 65535 then s.counters.quietAsks + 1 else s.counters.quietAsks } }

/-- The demander is told that its ask has ended (R16, R33, R66, R100, R133): the window-message slot is emptied; for discovery an ASKING round
returns to NONE with the exponent and the base cycle kept; for ranging the attempt is closed and the record at the head of the queue, if it is
RANGING, is ASSIGNED again with no event. The quiet resource is held for a record exactly while a window of a ranging purpose that names it is
ASKED, GIVEN or OPEN (R104). -/
def Obligations.AskEnded : Prop :=
  ∀ (s : State),
    let u : State := { s with dsq := { s.dsq with window := none } }
    (∀ e, s.dsu.round = .asking e → s.askEnded .discovery = { u with dsu := { s.dsu with round := .idle } }) ∧
    (s.dsu.round = .idle → s.askEnded .discovery = u) ∧
    (∀ (i : RecIx) (a : BitVec 8) (h : RecIx) (rest : List RecIx), s.rgu.queue = h :: rest → (s.record h).state = .ranging →
      s.askEnded (.ranging i a) = { u with
        rgu := { s.rgu with attempt := none }
        records := s.records.set h { s.record h with state := .assigned, lastChange := s.ltu.cycle } }) ∧
    (∀ (i : RecIx) (a : BitVec 8), (∀ h rest, s.rgu.queue = h :: rest → (s.record h).state ≠ .ranging) →
      s.askEnded (.ranging i a) = { u with rgu := { s.rgu with attempt := none } }) ∧
    (∀ i : RecIx, s.quietIsFor i = true ↔ ∃ w a, w.purpose = .ranging i a ∧
      (s.ltu.quiet = .asked w ∨ s.ltu.quiet = .given w ∨ s.ltu.quiet = .opened w))

/-- CYCLE(c) (R32, R94, R101, R102, R105, R129, R158): the cycle number and line offset are taken, the DSU presents its demand (log 19), and
the interrupt line follows. While the cycle is not known or the line is down nothing else happens. At a normal advance the span map drops the
transmit cycle that leaves its extent, an ask's wait count rises by 1, the ask standing even where the count reaches QuietWait, since
QUIET_TIMEOUT is a step of its own (the model's choice, log 3), and a GIVEN window whose cycle has come without its message taken, or whose
fetch an invalid FETCH has passed (log 41), is handed back with DONE and its demander told; the resource it frees is not arbitrated at this
advance (log 7). An OPEN window runs on. -/
def Obligations.CycleStart : Prop :=
  ∀ (s : State) (c : Cycle),
    let u0 : State := { s with ltu := { s.ltu with cycle := c, offset := 0, known := true, nextFetched := false } }
    let u : State := { u0 with dsu := { s.dsu with demand := u0.discoveryDemand } }
    let kept := s.ltu.map.filter (fun e => decide ((e.ct - (c - 4)).toNat < 21))
    let v := fun q : Quiet => ({ u with ltu := { u.ltu with map := kept, quiet := q } } : State)
    (s.ltu.known = false ∨ s.ltu.lineUp = false → exec (.cycle c) s = .next u.followInterrupt) ∧
    (s.ltu.known = true → s.ltu.lineUp = true → c = s.ltu.cycle + 1 →
      (∀ w, s.ltu.quiet = .asked w → exec (.cycle c) s = .next (v (.asked { w with wait := w.wait + 1 })).followInterrupt) ∧
      (∀ w, s.ltu.quiet = .given w → 2147483648 ≤ (c - w.cq).toNat → w.passed = false →
        exec (.cycle c) s = .next (v (.given w)).followInterrupt) ∧
      (∀ w, s.ltu.quiet = .given w → (c - w.cq).toNat < 2147483648 ∨ w.passed = true → exec (.cycle c) s =
        .next (State.followInterrupt (State.askEnded
          { v .idle with links := { s.links with sched := s.links.sched ++ [.done] } } w.purpose))) ∧
      (∀ w, s.ltu.quiet = .opened w → exec (.cycle c) s = .next (v (.opened w)).followInterrupt))

/-- Arbitration (R16, R32, R33, R53, R97): at a normal advance that finds the quiet state IDLE and the port RUNNING, one demand is granted;
with both present ranging is, and the deferral count rises, until it has reached DiscoveryDefer. A grant to discovery clears the count and
fixes the spread of an ASKING round; a grant to ranging starts an attempt with a new identity and empty places for the head of the queue,
whose record is RANGING. Either asks for its window. Outside RUNNING, and with no demand, nothing is granted. What is tested
is the condition of discovery demand at this start, and a grant clears the demand bit, which is the model's own (log 19). -/
def Obligations.CycleArbitrates : Prop :=
  ∀ (s : State) (c : Cycle), s.ltu.known = true → s.ltu.lineUp = true → c = s.ltu.cycle + 1 → s.ltu.quiet = .idle →
    let u0 : State := { s with ltu := { s.ltu with cycle := c, offset := 0, known := true, nextFetched := false } }
    let kept := s.ltu.map.filter (fun e => decide ((e.ct - (c - 4)).toNat < 21))
    let u : State := { u0 with dsu := { s.dsu with demand := u0.discoveryDemand }, ltu := { u0.ltu with map := kept } }
    let ready := fun i : RecIx => (∃ rest, s.rgu.queue = i :: rest) ∧ (s.record i).state = .assigned ∧ s.rgu.attempt = none
    let toDiscovery := State.ask
      { u with dsu := { s.dsu with deferral := 0, round := .asking s.dsu.exponent, demand := false } } .discovery
      (s.header.targetLoop.toNat + 2 ^ s.dsu.exponent * 512 + 256)
    let toRanging := fun (i : RecIx) (deferral : Nat) => State.ask
      { u with
        dsu := { u.dsu with deferral := deferral }
        rgu := { s.rgu with
          ident := s.rgu.ident + 1
          attempt := some
            { index := i, ident := s.rgu.ident + 1, count := (s.record i).samples.toNat
              length := s.header.targetLoop.toNat + (s.record i).samples.toNat * 1024 + 256, ref := none, stage := .asking
              places := List.replicate (s.record i).samples.toNat { mark := none, doubled := false } } }
        records := s.records.set i { s.record i with state := .ranging, lastChange := c } }
      (.ranging i (s.rgu.ident + 1)) (s.header.targetLoop.toNat + (s.record i).samples.toNat * 1024 + 256)
    (s.pct.port ≠ .running → exec (.cycle c) s = .next u.followInterrupt) ∧
    (s.pct.port = .running →
      (∀ i, ready i → u0.discoveryDemand = false → exec (.cycle c) s = .next (toRanging i s.dsu.deferral).followInterrupt) ∧
      (∀ i, ready i → u0.discoveryDemand = true → s.dsu.deferral < s.header.discoveryDefer.toNat →
        exec (.cycle c) s = .next (toRanging i (s.dsu.deferral + 1)).followInterrupt) ∧
      (∀ i, ready i → u0.discoveryDemand = true → s.header.discoveryDefer.toNat ≤ s.dsu.deferral →
        exec (.cycle c) s = .next toDiscovery.followInterrupt) ∧
      ((∀ i, ¬ready i) → u0.discoveryDemand = true → exec (.cycle c) s = .next toDiscovery.followInterrupt) ∧
      ((∀ i, ¬ready i) → u0.discoveryDemand = false → exec (.cycle c) s = .next u.followInterrupt))

/-- A slip (R43, R66, R71, R88, R95, R104, R109): LINE SLIP with the new cycle number; the quiet resource is ended with its message, the round
abandoned, the attempt closed uncounted with its RANGING record ASSIGNED again at the head of the queue, the span map cleared and the arm line
dropped; asks OUTSTANDING are QUEUED and SENT channels READY again, their messages at the back of the reply-bearing list, asks before blocks
(log 11), nothing counted. The other lists and the other records stay. That an attempt judged and not yet reported is abandoned too is log 6,
and that a round whose window has ended and whose captures are not handled yet is, log 36. The run length and the hunt record are emptied when
the arm line drops (log 38). -/
def Obligations.CycleSlip : Prop :=
  ∀ (s : State) (c : Cycle), s.ltu.known = true → s.ltu.lineUp = true → c ≠ s.ltu.cycle + 1 →
    let isOut := fun x : Settle => match x.stage with | .outstanding _ _ _ => true | _ => false
    let isSent := fun x : Channel => match x.stage with | .sent _ _ _ => true | _ => false
    let u : State := { s with ltu := { s.ltu with cycle := c } }
    ∃ t, exec (.cycle c) s = .next t ∧
      t.ltu = { s.ltu with
        cycle := c, offset := 0, known := true, nextFetched := false, latestFetch := none, quiet := .idle, map := [], armed := none } ∧
      t.evw = { (u.raise (lineEvent .slip c)).evw with line := t.evw.line } ∧ t.counters = (u.raise (lineEvent .slip c)).counters ∧
      t.links = { s.links with sched := s.links.sched ++ quietEnd s.ltu.quiet } ∧
      t.dsu.round = .idle ∧ t.dsu.exponent = s.dsu.exponent ∧ t.dsu.parks = s.dsu.parks ∧ t.dsu.strangers = s.dsu.strangers ∧
      t.dsu.base = (match s.dsu.round with | .opened _ => c | _ => s.dsu.base) ∧
      (∀ i : RecIx, t.record i =
        if s.rgu.queue.head? = some i ∧ (s.record i).state = .ranging then { s.record i with state := .assigned, lastChange := c }
        else s.record i) ∧
      t.rgu = { s.rgu with
        attempt := none
        settles := s.rgu.settles.map (fun x => x.map (fun y => if isOut y then { y with stage := .queued } else y)) } ∧
      t.pex = { s.pex with chans := s.pex.chans.map (fun x => if isSent x then { x with stage := .ready } else x) } ∧
      t.dsq = { s.dsq with
        window := (match s.ltu.quiet with | .given _ => none | _ => s.dsq.window)
        reply := s.dsq.reply
          ++ (allRecords.filter (fun i => (s.settle i).any isOut)).map (fun i => { index := i, kind := .confirmAsk })
          ++ (allChannels.filter (fun ch => isSent (s.chan ch))).map (fun ch => { index := (s.chan ch).index, kind := .profileBlock }) } ∧
      t.brx = disarmed s.brx ∧ t.header = s.header ∧ t.pct = s.pct ∧ t.bpt = s.bpt ∧ t.sram = s.sram

/-- LINE_UP and LINE_DOWN (R24, R43, R48, R50, R81, R95, R96, R104, R109, R137). LINE_UP sets the flag and clears cycle known and the latest
fetch, with LINE UP; with the line up nothing changes. LINE_DOWN clears the flag with LINE DOWN; the quiet resource ends, the span map and the
latest fetch are cleared, the arm line drops, all activation work ends and every in-activation record returns to AWAITING; the port state
stays. With the line down nothing changes. The run length and the hunt record are emptied when the arm line drops (log 38). The LTU's LINE
event comes before the RTB's RECORD events (log 8). A round whose window has ended and whose captures are not handled yet is abandoned too,
without adaptation (log 36). -/
def Obligations.LineUpDown : Prop :=
  ∀ s : State,
    (s.ltu.lineUp = true → exec .lineUp s = .next s) ∧
    (s.ltu.lineUp = false → exec .lineUp s = .next (State.raise
      { s with ltu := { s.ltu with lineUp := true, known := false, latestFetch := none } } (lineEvent .up s.ltu.cycle))) ∧
    (s.ltu.lineUp = false → exec .lineDown s = .next s) ∧
    (s.ltu.lineUp = true → ∃ t, exec .lineDown s = .next t ∧ WorkEnded s t ∧
      t.ltu = { s.ltu with lineUp := false, latestFetch := none, quiet := .idle, map := [], armed := none } ∧
      t.brx = disarmed s.brx ∧ t.bpt = { s.bpt with chanRequests := t.bpt.chanRequests } ∧
      EventsRaised s t (lineEvent .down s.ltu.cycle :: returnEvents s) ∧
      t.header = s.header ∧ t.pct = s.pct ∧ t.sram = s.sram)

/-- GIVE(c_q) (R33, R54, R94, R100, R133): in ASKED, a cycle at or after the not-before cycle whose fetch has not passed is given, and the
demander's INVITE or RANGE-ASK is bound to it; any other is late: WITHDRAW, QUIET LATE_GIVE, the counter, IDLE, the demander told. In every
other quiet state it is a stray. -/
def Obligations.Give : Prop :=
  ∀ (s : State) (cq : Cycle),
    let passed := (∃ f, s.ltu.latestFetch = some f ∧ (f - cq).toNat < 2147483648) ∨ (s.ltu.cycle - cq).toNat < 2147483648
    (∀ w, s.ltu.quiet = .asked w →
      ((cq - w.notBefore).toNat < 2147483648 → ¬passed →
        let u : State := { s with ltu := { s.ltu with quiet := .given { w with cq := cq } } }
        (∀ e, w.purpose = .discovery → s.dsu.round = .asking e → exec (.give cq) s =
          .next { u with dsq := { s.dsq with window := some { cq := cq, message := .invite e } } }) ∧
        (∀ i k a, w.purpose = .ranging i k → s.rgu.attempt = some a → exec (.give cq) s =
          .next { u with
            rgu := { s.rgu with attempt := some { a with ref := some cq } }
            dsq := { s.dsq with window := some { cq := cq, message := .rangeAsk a.index a.count } } })) ∧
      (2147483648 ≤ (cq - w.notBefore).toNat ∨ passed →
        let v := (State.raise s (quietEvent w.purpose .lateGive cq)).count .quietLateGives
        exec (.give cq) s = .next (State.askEnded
          { v with
            links := { s.links with sched := s.links.sched ++ [.withdraw] }
            ltu := { s.ltu with quiet := .idle } } w.purpose))) ∧
    ((∀ w, s.ltu.quiet ≠ .asked w) → exec (.give cq) s = .next { s with counters := s.counters.inc .quietStrays })

/-- DENY, REVOKE and QUIET_TIMEOUT (R100, R101, R102, R103): DENY ends an ask with QUIET DENY; REVOKE cancels a GIVEN window with QUIET REVOKED,
is a late revoke while OPEN and changes nothing of the window then; a wait count that has reached QuietWait ends the ask with WITHDRAW and
QUIET TIMEOUT. Each ended ask leaves the quiet state IDLE, counts, and tells its demander. Answers in other states are strays; a wait below
QuietWait changes nothing (log 3). -/
def Obligations.DenyRevokeTimeout : Prop :=
  ∀ s : State,
    (∀ w, s.ltu.quiet = .asked w →
      exec .deny s = .next (State.askEnded
        { (State.raise s (quietEvent w.purpose .deny w.notBefore)).count .quietDenies with
          ltu := { s.ltu with quiet := .idle } } w.purpose) ∧
      exec .revoke s = .next { s with counters := s.counters.inc .quietStrays } ∧
      (s.header.quietWait.toNat ≤ w.wait →
        let v := (State.raise s (quietEvent w.purpose .timeout w.notBefore)).count .quietTimeouts
        exec .quietTimeout s = .next (State.askEnded
          { v with
            links := { s.links with sched := s.links.sched ++ [.withdraw] }
            ltu := { s.ltu with quiet := .idle } } w.purpose)) ∧
      (w.wait < s.header.quietWait.toNat → exec .quietTimeout s = .next s)) ∧
    (∀ w, s.ltu.quiet = .given w →
      let v := (State.raise s (quietEvent w.purpose .revoked w.cq)).count .quietRevokes
      exec .revoke s = .next (State.askEnded { v with ltu := { s.ltu with quiet := .idle } } w.purpose)) ∧
    (∀ w, s.ltu.quiet = .opened w →
      exec .revoke s = .next ((State.raise s (quietEvent w.purpose .lateRevoke w.cq)).count .quietLateRevokes)) ∧
    (s.ltu.quiet = .idle → exec .revoke s = .next { s with counters := s.counters.inc .quietStrays }) ∧
    ((∀ w, s.ltu.quiet ≠ .asked w) → exec .deny s = .next { s with counters := s.counters.inc .quietStrays } ∧
      exec .quietTimeout s = .next s)

/-- ARM_INTERVAL_START and QUIET_WINDOW_END (R103, R110, R112): at a line bit of an OPEN window's interval that is not yet armed the arm line
rises for it and the hunt begins afresh, whatever slot it also lies in (log 35); at a line bit of no OPEN window, whether a window is OPEN or
not, it does so for the only booked slot whose arrival interval the line bit lies in. For an interval armed already, and at a line bit of no
interval, nothing changes (log 1). When the window's length has run out the arm line drops if it is up for it, DONE is sent and the quiet state
is IDLE; before, nothing changes (log 1). Arming may come at any later line bit of the interval, and the end at any after it (log 3); the run
length and the hunt record are emptied when the line drops (log 38). -/
def Obligations.ArmedIntervals : Prop :=
  ∀ s : State,
    let at_ := fun c : Cycle => 160000 * (s.ltu.cycle - c).toInt + (s.ltu.offset : Int)
    let armed := fun id : Interval => ({ s with
      ltu := { s.ltu with armed := some id }
      brx := { hunt := .preamble, run := 0, previous := none, record := HuntRecord.empty, queue := s.brx.queue } } : State)
    let starts := fun e : Slot => (s.header.targetLoop.toNat + s.header.spanStart.toNat + e.j * s.header.slotLen.toNat : Int)
    let inWindow := fun w : Window => s.ltu.quiet = .opened w ∧ 0 ≤ at_ w.cq ∧ at_ w.cq < w.length
    let inSlot := fun e : Slot => e ∈ s.ltu.map ∧ e.use ≠ .void ∧ starts e ≤ at_ e.ct ∧ at_ e.ct < starts e + s.header.slotLen.toNat
    let arms := fun id : Interval =>
      (s.ltu.armed ≠ some id → exec .armIntervalStart s = .next (armed id)) ∧ (s.ltu.armed = some id → exec .armIntervalStart s = .next s)
    (∀ w, inWindow w → arms w.interval) ∧
    ((∀ w, ¬inWindow w) →
      (∀ e i o n, inSlot e → (∀ e', inSlot e' → e' = e) → e.use = .booked i o n → arms (.slot n e.ct e.j i o)) ∧
      ((∀ e, ¬inSlot e) → exec .armIntervalStart s = .next s)) ∧
    (∀ w, s.ltu.quiet = .opened w →
      ((w.length : Int) ≤ at_ w.cq → exec .quietWindowEnd s = .next { s with
        ltu := { s.ltu with quiet := .idle, armed := if s.ltu.armed = some w.interval then none else s.ltu.armed }
        brx := if s.ltu.armed = some w.interval then disarmed s.brx else s.brx
        links := { s.links with sched := s.links.sched ++ [.done] } }) ∧
      (at_ w.cq < w.length → exec .quietWindowEnd s = .next s)) ∧
    ((∀ w, s.ltu.quiet ≠ .opened w) → exec .quietWindowEnd s = .next s)

/-- SLOT_ARRIVAL_END and SLOT_END_REPORT (R71, R87, R107, R108, R110): when the arrival end of a slot has passed a void becomes free, at either
step, and the arm line drops for a booked one; a booked slot with no capture of it waiting becomes free, the arm line dropping if it is still
up for it, and its owner is told: the RGU counts a miss and asks again below K, or ends the sequence in re-range; a channel re-sends its block
below BlockRetries, or its push fails. Before the arrival end, and for a free slot, nothing changes (log 1); either step may come at any time
after the arrival end (log 3). The run length and the hunt record are emptied when the line drops (log 38). A read of a channel whose push
fails waits on (log 44). -/
def Obligations.SlotEnds : Prop :=
  ∀ (s : State) (ct : Cycle) (j : Fin 8),
    let past := (s.header.targetLoop.toNat + s.header.spanStart.toNat + (j.val + 1) * s.header.slotLen.toNat : Int)
      ≤ 160000 * (s.ltu.cycle - ct).toInt + (s.ltu.offset : Int)
    let freed := s.ltu.map.filter (fun e => !(decide (e.ct = ct) && decide (e.j = j.val)))
    (s.slotAt ct j.val = none ∨ ¬past → exec (.slotArrivalEnd ct j) s = .next s ∧ exec (.slotEndReport ct j) s = .next s) ∧
    (∀ e, s.slotAt ct j.val = some e → past →
      (e.use = .void →
        exec (.slotArrivalEnd ct j) s = .next { s with ltu := { s.ltu with map := freed } } ∧
        exec (.slotEndReport ct j) s = .next { s with ltu := { s.ltu with map := freed } }) ∧
      (∀ i o n, e.use = .booked i o n →
        let id := Interval.slot n ct j.val i o
        let u : State := { s with
          ltu := { s.ltu with map := freed, armed := if s.ltu.armed = some id then none else s.ltu.armed }
          brx := if s.ltu.armed = some id then disarmed s.brx else s.brx }
        (s.ltu.armed = some id → exec (.slotArrivalEnd ct j) s = .next { s with ltu := { s.ltu with armed := none }, brx := disarmed s.brx }) ∧
        (s.ltu.armed ≠ some id → exec (.slotArrivalEnd ct j) s = .next s) ∧
        ((∃ x ∈ s.brx.queue, x.interval = id) → exec (.slotEndReport ct j) s = .next s) ∧
        ((∀ x ∈ s.brx.queue, x.interval ≠ id) →
          (∀ x, o = .rgu → s.settle i = some x → x.stage = .outstanding ct j.val n →
            (∀ k, k < i → ∀ y c' j', s.settle k = some y → y.stage ≠ .outstanding c' j' n) →
            (x.missed + 1 < (s.record i).settleCount.toNat → exec (.slotEndReport ct j) s = .next { u with
              rgu := { s.rgu with settles := s.rgu.settles.set i (some { x with missed := x.missed + 1, stage := .queued }) }
              dsq := { s.dsq with reply := s.dsq.reply ++ [{ index := i, kind := .confirmAsk }] } }) ∧
            ((s.record i).settleCount.toNat ≤ x.missed + 1 → exec (.slotEndReport ct j) s = .next { u with
              rgu := { s.rgu with
                settles := s.rgu.settles.set i
                  (some { x with missed := x.missed + 1, stage := .decided, report := some (.reRange none) })
                settleReports := s.rgu.settleReports ++ [i] } })) ∧
          (∀ ch, o = .channel ch → (s.chan ch).stage = .sent ct j.val n →
            (∀ k, k < ch → ∀ c' j', (s.chan k).stage ≠ .sent c' j' n) →
            let x := s.chan ch
            (x.retries + 1 < s.header.blockRetries.toNat → exec (.slotEndReport ct j) s = .next { u with
              pex := { s.pex with chans := s.pex.chans.set ch { x with retries := x.retries + 1, stage := .ready } }
              records := s.records.set x.index { s.record x.index with
                retriesTotal := if (s.record x.index).retriesTotal < 65535 then (s.record x.index).retriesTotal + 1
                  else (s.record x.index).retriesTotal }
              dsq := { s.dsq with reply := s.dsq.reply ++ [{ index := x.index, kind := .profileBlock }] } }) ∧
            (s.header.blockRetries.toNat ≤ x.retries + 1 → exec (.slotEndReport ct j) s = .next { u with
              pex := { s.pex with
                chans := s.pex.chans.set ch { x with retries := x.retries + 1, stage := .reported .profileFailed }
                reports := s.pex.reports ++ [{ index := x.index, chan := ch }] } })))))

/-! ### Downstream messages -/

/-- A message (R125, 11.10): 24 bytes, the four leading fields in their places, the payload from byte 4 and zeros after it, and a check a
terminal agrees with. -/
def Obligations.MessageLayout : Prop :=
  ∀ (kind line reply aux : Byte) (payload : List Byte), payload.length ≤ 18 →
    let m := messageBytes kind line reply aux payload
    m.length = 24 ∧ byteAt m 0 = kind ∧ byteAt m 1 = line ∧ byteAt m 2 = reply ∧ byteAt m 3 = aux ∧
      (∀ k, k < 18 → byteAt m (4 + k) = byteAt payload k) ∧
      natLE (m.drop 22) = (crc16 (m.take 22)).toNat ∧ messageReceived m = true

/-- FETCH answered NONE (R94, R129, R130, R131, R132). An invalid FETCH records the latest fetch and takes nothing; while a window is GIVEN it
passes the window's fetch where it names that cycle or a later one, which the next normal advance finds (log 41). A valid FETCH with the line
down or in OFF, LOADING or HALTED, one in CONFIG or DRAINING with the urgent list empty, and one in RUNNING that finds nothing to give, with
no usable slot among the transmit cycles it scans or no reply-bearing entry that a slot can be asked for, record the latest fetch and take
nothing. -/
def Obligations.FetchNone : Prop :=
  ∀ (s : State) (c : Cycle),
    let valid := s.ltu.known = true ∧ c = s.ltu.cycle + 1 ∧ s.ltu.nextFetched = false
    let u := fetched s c .nothing
    (¬valid →
      (∀ w, s.ltu.quiet = .given w → exec (.fetch c) s = .next { u with ltu := { u.ltu with
        quiet := .given { w with passed := w.passed || decide ((c - w.cq).toNat < 2147483648) } } }) ∧
      ((∀ w, s.ltu.quiet ≠ .given w) → exec (.fetch c) s = .next u)) ∧
    (valid → (s.ltu.lineUp = false ∨ s.pct.port = .off ∨ s.pct.port = .loading ∨ s.pct.port = .halted ∨
        ((s.pct.port = .config ∨ s.pct.port = .draining) ∧ s.dsq.urgent = []) ∨
        (s.pct.port = .running ∧ NoWindowFor s c ∧ s.dsq.urgent = [] ∧ s.dsq.control = [] ∧ s.dsu.parks = [] ∧
          ((∀ e ∈ s.dsq.reply, s.holdsBooking e.index = true ∨ s.replyOwner e = none) ∨
            ∀ d j, s.header.replyLead.toNat ≤ d → d ≤ 15 → j < s.header.slotCount.toNat →
              s.usable (c + BitVec.ofNat 32 d) j = false))) →
      exec (.fetch c) s = .next u)

/-- FETCH that takes a RELEASE (R10, R13, R130, R131, R134): in CONFIG, DRAINING and RUNNING, before every other list, the head of the urgent
list; the message carries its line number where its ASSIGN was taken, and its serial; the record leaves for its destination with its line
number 0, its flags and destination clear, and RECORD of reason RELEASE_TAKEN. -/
def Obligations.FetchRelease : Prop :=
  ∀ (s : State) (c : Cycle) (i : RecIx) (rest : List RecIx), FetchTakes s c → s.dsq.urgent = i :: rest →
    (s.pct.port = .config ∨ s.pct.port = .draining ∨ (s.pct.port = .running ∧ NoWindowFor s c)) →
    (s.record i).state = .releasing →
    let r := s.record i
    let m := messageBytes 10 (if r.assignTaken then BitVec.ofNat 8 r.line else 0) 0 0 (bytesLE 8 r.serial.toNat)
    let u : State := { fetched s c (.message m) with dsq := { s.dsq with urgent := rest } }
    let left := fun (st : ActState) => ({ r with
      state := st, lastChange := s.ltu.cycle, line := 0, assignTaken := false, eqValid := false, dest := .clear } : Record)
    let done := fun (st : ActState) (r' : Record) =>
      exec (.fetch c) s = .next (State.raise { u with records := s.records.set i r' } (recordEvent i st .releaseTaken r.tag))
    (r.dest = .empty → done .empty (emptied r s.ltu.cycle)) ∧
    (r.dest = .held → done .held (left .held)) ∧
    (r.dest = .failed → done .failed (left .failed)) ∧
    (r.dest = .awaiting → done .awaiting (admitted r s.ltu.cycle))

/-- FETCH that takes a control message (R15, R18, R21, R67, R73, R81, R131, R135): ASSIGN gives the line number and queues the record for
ranging; EQUALIZE gives the record the lowest-numbered FREE channel, which begins the pre-scan of its entry, queues for one, or enters
SETTLING; TRIM restarts the settle sequence; COMMIT enters IN_SERVICE. The messages carry what R135 gives them. A read that a FREE channel
still has queued is served before the new work's own (log 32). -/
def Obligations.FetchControl : Prop :=
  ∀ (s : State) (c : Cycle) (i : RecIx) (k : ControlKind) (rest : List ControlEntry), FetchTakes s c → s.pct.port = .running →
    NoWindowFor s c → s.dsq.urgent = [] → s.dsq.control = { index := i, kind := k } :: rest →
    let r := s.record i
    let line := BitVec.ofNat 8 r.line
    let timing := bytesLE 3 r.eqCoarse ++ bytesLE 1 r.eqFine ++ bytesLE 3 s.header.spanStart.toNat ++ bytesLE 2 s.header.slotLen.toNat
    let u := fun m : List Byte => ({ fetched s c (.message m) with dsq := { s.dsq with control := rest } } : State)
    let moved := fun st : ActState => ({ r with state := st, lastChange := if r.state = st then r.lastChange else s.ltu.cycle } : Record)
    let fresh : Settle := { found := 0, missed := 0, sum := 0, stage := .queued, report := none }
    (k = .assign →
      let r' : Record := { r with assignTaken := true, line := i.val + 1 }
      exec (.fetch c) s = .next (State.raise
        { u (messageBytes 3 (BitVec.ofNat 8 (i.val + 1)) 0 0 (bytesLE 8 r.serial.toNat)) with
          records := s.records.set i r'
          rgu := { s.rgu with queue := s.rgu.queue ++ [i] } } (recordEvent i r.state .assignTaken r.tag))) ∧
    (k = .commit → exec (.fetch c) s = .next (State.raise
        { u (messageBytes 9 line 0 0 []) with records := s.records.set i (moved .inService) }
        (recordEvent i .inService .commitTaken r.tag))) ∧
    (k = .trim → exec (.fetch c) s = .next
        { u (messageBytes 6 line 0 0 timing) with
          rgu := { s.rgu with settles := s.rgu.settles.set i (some fresh) }
          dsq := { s.dsq with control := rest, reply := s.dsq.reply ++ [{ index := i, kind := .confirmAsk }] } }) ∧
    (k = .equalize → (r.profileIx = 255 ∨ r.profileDelivered = true) → ∃ t, exec (.fetch c) s = .next t ∧
      t = { u (messageBytes 5 line 0 0 timing) with
        records := s.records.set i { moved .settling with trimSent := false, trimClamped := false }
        rgu := { s.rgu with settles := s.rgu.settles.set i (some fresh) }
        dsq := { s.dsq with control := rest, reply := s.dsq.reply ++ [{ index := i, kind := .confirmAsk }] }
        evw := t.evw, counters := t.counters } ∧
      EventsRaised s t [recordEvent i .settling .equalizeTaken r.tag]) ∧
    (k = .equalize → r.profileIx ≠ 255 → r.profileDelivered = false → (s.pex.waiting ≠ [] ∨ ∀ ch, (s.chan ch).stage ≠ .free) →
      exec (.fetch c) s = .next (State.raise
        { u (messageBytes 5 line 0 0 timing) with pex := { s.pex with waiting := s.pex.waiting ++ [i] } }
        (recordEvent i r.state .equalizeTaken r.tag))) ∧
    (∀ ch, k = .equalize → r.profileIx.toNat < 16 → r.profileDelivered = false → s.pex.waiting = [] → (s.chan ch).stage = .free →
      (∀ m < ch, (s.chan m).stage ≠ .free) →
      ∃ t, exec (.fetch c) s = .next t ∧ ScanBegun s t ch i (s.chanRequest ch) ∧ t.pex.waiting = [] ∧
        (t.chan ch).dir.val = r.profileIx.toNat ∧ (∀ m, m ≠ i → t.record m = s.record m) ∧
        t = { u (messageBytes 5 line 0 0 timing) with
          records := t.records, pex := t.pex, bpt := t.bpt, evw := t.evw, counters := t.counters } ∧
        EventsRaised s t [recordEvent i .profiling .equalizeTaken r.tag])

/-- FETCH that takes the window message or a PARK (R34, R48, R54, R102, R131, R133): the message bound to c comes first, empties its slot and
opens the window with the round or the attempt; a PARK is taken when no RELEASE and no control message waits. -/
def Obligations.FetchWindowAndPark : Prop :=
  ∀ (s : State) (c : Cycle), FetchTakes s c → s.pct.port = .running →
    (∀ (w : Window) (e : Nat), s.dsq.window = some { cq := c, message := .invite e } → s.ltu.quiet = .given w →
      let u := fetched s c (.message (messageBytes 1 0 0 (BitVec.ofNat 8 e) []))
      exec (.fetch c) s = .next { u with
        ltu := { u.ltu with quiet := .opened w }
        dsq := { s.dsq with window := none }
        dsu := { s.dsu with round := .opened { ref := c, spread := 2 ^ e, valid := 0, garbled := false, seen := [] } }
        counters := s.counters.inc .discoveryRounds }) ∧
    (∀ (w : Window) (i : RecIx) (n : Nat) (a : Attempt), s.dsq.window = some { cq := c, message := .rangeAsk i n } →
      s.ltu.quiet = .given w → s.rgu.attempt = some a →
      let u := fetched s c (.message (messageBytes 4 (BitVec.ofNat 8 (s.record i).line) 0 (BitVec.ofNat 8 n) []))
      exec (.fetch c) s = .next { u with
        ltu := { u.ltu with quiet := .opened w }
        dsq := { s.dsq with window := none }
        rgu := { s.rgu with attempt := some { a with stage := .opened } } }) ∧
    (∀ (p : Park) (rest : List Park), NoWindowFor s c → s.dsq.urgent = [] → s.dsq.control = [] → s.dsu.parks = p :: rest →
      exec (.fetch c) s = .next
        { fetched s c (.message (messageBytes 2 0 0 0 (bytesLE 8 p.serial.toNat ++ [p.rounds]))) with
          dsu := { s.dsu with parks := rest } })

/-- FETCH that takes a reply-bearing message (R68, R84, R105, R106, R131, R132): the first entry of the list that a slot can be asked for, with
the first usable slot (d, j) from delta ReplyLead and index 0 on; the slot is booked under a fresh identity, and the ask is OUTSTANDING or the
channel SENT in it. A slot is usable exactly where the map has no entry for it and the quiet state allows it by the table of R106. A slot is
asked for an entry whose record holds no booking and has a settle sequence or a READY channel. -/
def Obligations.FetchReply : Prop :=
  (∀ s : State,
    (∀ (ct : Cycle) (j : Nat),
      let start : Int := s.header.targetLoop.toNat + s.header.spanStart.toNat + j * s.header.slotLen.toNat
      let arrives := fun w : Window => 160000 * (ct - w.cq).toInt + start
      s.usable ct j = true ↔ (∀ e ∈ s.ltu.map, ¬(e.ct = ct ∧ e.j = j)) ∧
        (∀ w, s.ltu.quiet = .asked w → start + s.header.slotLen.toNat ≤ 160000 * (w.notBefore - ct).toInt) ∧
        (∀ w, s.ltu.quiet = .given w ∨ s.ltu.quiet = .opened w →
          w.length ≤ arrives w ∨ arrives w + s.header.slotLen.toNat ≤ 0)) ∧
    (∀ i : RecIx, s.holdsBooking i = true ↔ ∃ e ∈ s.ltu.map, ∃ o n, e.use = .booked i o n) ∧
    (∀ (i : RecIx) (ch : ChanIx), s.channelOf i = some ch ↔ (s.chan ch).stage ≠ .free ∧ (s.chan ch).index = i ∧
      ∀ m < ch, ¬((s.chan m).stage ≠ .free ∧ (s.chan m).index = i)) ∧
    (∀ b : ReplyEntry,
      (b.kind = .confirmAsk → s.replyOwner b = if s.settle b.index = none then none else some .rgu) ∧
      (b.kind = .profileBlock → ∀ o, s.replyOwner b = some o ↔
        ∃ ch, s.channelOf b.index = some ch ∧ (s.chan ch).stage = .ready ∧ o = .channel ch))) ∧
  ∀ (s : State) (c : Cycle) (before after : List ReplyEntry) (e : ReplyEntry) (d j : Nat), FetchTakes s c → s.pct.port = .running →
    NoWindowFor s c → s.dsq.urgent = [] → s.dsq.control = [] → s.dsu.parks = [] →
    s.dsq.reply = before ++ e :: after → e ∉ before →
    (∀ b ∈ before, s.holdsBooking b.index = true ∨ s.replyOwner b = none) → s.holdsBooking e.index = false →
    s.header.replyLead.toNat ≤ d → d ≤ 15 → j < s.header.slotCount.toNat → s.usable (c + BitVec.ofNat 32 d) j = true →
    (∀ d' j', s.header.replyLead.toNat ≤ d' → j' < s.header.slotCount.toNat → (d' < d ∨ (d' = d ∧ j' < j)) →
      s.usable (c + BitVec.ofNat 32 d') j' = false) →
    let ct := c + BitVec.ofNat 32 d
    let n := s.ltu.nextIdent
    let line := BitVec.ofNat 8 (s.record e.index).line
    let u := fun (m : List Byte) (o : Owner) =>
      let v := fetched s c (.message m)
      ({ v with
        dsq := { s.dsq with reply := before ++ after }
        ltu := { v.ltu with
          map := s.ltu.map ++ [{ ct := ct, j := j, use := .booked e.index o n }], nextIdent := n + 1 } } : State)
    (∀ x, e.kind = .confirmAsk → s.settle e.index = some x → exec (.fetch c) s =
      .next { u (messageBytes 8 line (BitVec.ofNat 8 (16 * d + j)) 0 []) .rgu with
        rgu := { s.rgu with settles := s.rgu.settles.set e.index (some { x with stage := .outstanding ct j n }) } }) ∧
    (∀ ch k last bytes, e.kind = .profileBlock → s.channelOf e.index = some ch → (s.chan ch).stage = .ready →
      (s.chan ch).buffer (s.chan ch).current = .full k last bytes → exec (.fetch c) s =
      .next { u (messageBytes 7 line (BitVec.ofNat 8 (16 * d + j)) (BitVec.ofNat 8 (s.chan ch).current)
          (bytes ++ [if last then 1 else 0])) (.channel ch) with
        pex := { s.pex with chans := s.pex.chans.set ch { s.chan ch with stage := .sent ct j n } } })

/-! ### Reception -/

/-- The last sample of each reception command, from a state one sample before it (R113 to R115, R117 to R122): PREAMBLE_RECOGNIZED at a run of
32; NO_DELIMITER at the 128th alternating sample after recognition; DELIMITER_COMPARED at the sixteenth sample held, with a form matched or a
garble; KIND_BYTE at its eighth bit, accepted or a garble; BURST_COMPLETE at the last check bit: a check that fails or a HELLO's response time
out of 1,024 to 8,191 is a garble, a kind that does not fit the interval a stray, a STATUS of another line number than the slot's a wrong
sender, a valid burst with two captures waiting an overrun; any other is captured. A garble in the discovery window of the OPEN round sets its
garbled mark, and any other leaves the DSU as it is (R34). A command whose phase the hunt is not in, or with the arm line low, changes nothing
(log 17). That the hunt record is emptied at a garble and at a complete burst, where the rules name the run length and the hunt state alone, is
log 38. -/
def Obligations.HuntSteps : Prop :=
  (∀ (s : State) (n : Nat) (id : Interval) (v : Bool),
    (∀ w, s.dsu.round = .opened w → id = .discovery w.ref →
      (garbled s n id v).dsu = { s.dsu with round := .opened { w with garbled := true } }) ∧
    ((∀ w, s.dsu.round = .opened w → id ≠ .discovery w.ref) → (garbled s n id v).dsu = s.dsu)) ∧
  (∀ (s : State) (id : Interval),
    let at_ := fun c : Cycle => 160000 * (s.ltu.cycle - c).toInt + (s.ltu.offset : Int)
    s.intervalOver id = true ↔
      (∃ n ct j i o, id = .slot n ct j i o ∧
        (s.header.targetLoop.toNat + s.header.spanStart.toNat + (j + 1) * s.header.slotLen.toNat : Int) ≤ at_ ct) ∨
      (∃ w, s.ltu.quiet = .opened w ∧ w.interval = id ∧ (w.length : Int) ≤ at_ w.cq)) ∧
  (∀ (b : Byte) (kind : BurstKind), kindOf b = some kind ↔
    (b.toNat = 16 ∧ kind = .hello) ∨ (b.toNat / 16 = 2 ∧ kind = .echo) ∨ (49 ≤ b.toNat ∧ b.toNat ≤ 51 ∧ kind = .status)) ∧
  (∀ (s : State) (id : Interval) (x : Sample), s.ltu.armed = some id → s.intervalOver id = false →
    let h := s.brx.record
    let p := 160000 * (s.ltu.cycle - id.ref).toInt + (s.ltu.offset : Int)
    let alternates := s.brx.previous = some (!x.value)
    (s.brx.hunt = .preamble → s.brx.run = 31 → alternates → ∃ h', exec (.preambleRecognized [x]) s =
      .next (heard s 1 { s.brx with hunt := .delimiter, run := 32, previous := some x.value, record := h' }) ∧
        h'.recognized = p ∧ h'.passed = 0 ∧ h'.candidate = none) ∧
    (s.brx.hunt = .preamble → ¬alternates → ∃ h', exec (.preambleRecognized [x]) s =
      .next (heard s 1 { s.brx with run := 1, previous := some x.value, record := h' })) ∧
    (s.brx.hunt = .delimiter → h.candidate = none → h.passed = 127 → alternates →
      exec (.noDelimiter [x]) s = .next (garbled s 1 id x.value)) ∧
    (s.brx.hunt = .delimiter → h.candidate = none → s.brx.previous = some x.value → ∃ h', exec (.delimiterCompared [x]) s =
      .next (heard s 1 { s.brx with previous := some x.value, record := h' }) ∧
        h'.candidate = some (if x.value then p - 3 else p) ∧
        h'.lineBit = (if x.value then p - 4 else p - 1) ∧ h'.phase = h.phases.getD (if x.value then 3 else 0) 0) ∧
    (s.brx.hunt = .delimiter → h.candidate ≠ none → h.held.length = 15 →
      ((h.held ++ [x.value] = straightDelimiter ∨ h.held ++ [x.value] = crossedDelimiter) → ∃ h', exec (.delimiterCompared [x]) s =
        .next (heard s 1 { s.brx with hunt := .body, previous := some x.value, record := h' }) ∧
          h'.conv = (if h.held ++ [x.value] = straightDelimiter then .straight else .crossed) ∧
          h'.mark = 16 * h.lineBit + (h.phase.toNat : Int) + 16 ∧ h'.bytes = [] ∧ h'.expected = none) ∧
      (h.held ++ [x.value] ≠ straightDelimiter → h.held ++ [x.value] ≠ crossedDelimiter →
        exec (.delimiterCompared [x]) s = .next (garbled s 1 id x.value))) ∧
    (s.brx.hunt = .body → h.expected = none → h.bits.length = 7 →
      let b := byteOfSamples h.conv (h.bits ++ [x.value])
      let high := b.toNat / 16
      let low := b.toNat % 16
      let follow : Option Nat := if high = 1 ∧ low = 0 then some 13 else if high = 2 then some 3
        else if high = 3 ∧ 1 ≤ low ∧ low ≤ 3 then some 6 else none
      (∀ n, follow = some n → exec (.kindByte [x]) s = .next (heard s 1 { s.brx with
        previous := some x.value, record := { h with bits := [], bytes := h.bytes ++ [b], expected := some n } })) ∧
      (follow = none → exec (.kindByte [x]) s = .next (garbled s 1 id x.value))) ∧
    (s.brx.hunt = .body → h.expected = some 1 → h.bits.length = 7 →
      let body := h.bytes ++ [byteOfSamples h.conv (h.bits ++ [x.value])]
      let payload := (body.take (body.length - 2)).drop 1
      let resp := natLE ((payload.drop 8).take 2)
      let agrees := (crc16 (body.take (body.length - 2))).toNat = natLE (body.drop (body.length - 2))
      let wanted : BurstKind := match id with | .discovery _ => .hello | .ranging _ _ _ => .echo | .slot _ _ _ _ _ => .status
      let sender := ∀ n ct j i o, id = .slot n ct j i o → (byteAt payload 0).toNat = i.val + 1
      let done := exec (.burstComplete [x]) s
      let u := heard s 1 { s.brx with hunt := .preamble, run := 0, previous := some x.value, record := HuntRecord.empty }
      (¬agrees → done = .next (garbled s 1 id x.value)) ∧
      (∀ kind, agrees → kindOf (byteAt body 0) = some kind →
        (kind = .hello → resp < 1024 ∨ 8191 < resp → done = .next (garbled s 1 id x.value)) ∧
        ((kind = .hello → 1024 ≤ resp ∧ resp ≤ 8191) →
          (kind ≠ wanted → done = .next (u.count .strayBursts)) ∧
          (kind = wanted → ¬sender → done = .next (u.count .wrongSender)) ∧
          (kind = wanted → sender → 2 ≤ s.brx.queue.length → done = .next (u.count .captureOverruns)) ∧
          (kind = wanted → sender → s.brx.queue.length < 2 → done = .next { u with brx := { u.brx with
            queue := s.brx.queue ++ [{ kind := kind, low := (byteAt body 0).toNat % 16, payload := payload, mark := h.mark
                                       conv := h.conv, interval := id }] } })))) ∧
    (s.brx.hunt ≠ .preamble → exec (.preambleRecognized [x]) s = .next s) ∧
    (s.brx.hunt ≠ .delimiter → exec (.noDelimiter [x]) s = .next s ∧ exec (.delimiterCompared [x]) s = .next s) ∧
    (s.brx.hunt ≠ .body → exec (.kindByte [x]) s = .next s ∧ exec (.burstComplete [x]) s = .next s)) ∧
  (∀ (s : State) (xs : List Sample), s.ltu.armed = none →
    exec (.preambleRecognized xs) s = .next s ∧ exec (.noDelimiter xs) s = .next s ∧ exec (.delimiterCompared xs) s = .next s ∧
      exec (.kindByte xs) s = .next s ∧ exec (.burstComplete xs) s = .next s)

/-- A burst as a terminal sends it is received whole (R56, R112 to R118, R120, R121, R122, 11.9): armed and hunting afresh, with the burst's
samples due wholly inside the interval, its first preamble bit 16 s + φ sixteenths after the reference, PREAMBLE_RECOGNIZED,
DELIMITER_COMPARED, KIND_BYTE and BURST_COMPLETE, given its samples in order, leave the BRX hunting again with nothing counted and the capture
appended: its kind, low nibble, payload, convention, interval, and the arrival mark 16 s + φ + 1,024. -/
def Obligations.BurstReceived : Prop :=
  ∀ (s : State) (id : Interval) (conv : Conv) (phase : BitVec 4) (kindByte : Byte) (payload : List Byte) (kind : BurstKind),
    s.ltu.armed = some id → s.brx.hunt = .preamble → s.brx.run = 0 → s.brx.previous = none →
    conv ≠ .unknown → kindOf kindByte = some kind → payload.length = kind.payloadBytes → kind = id.expects →
    (kind = .hello → 1024 ≤ natLE ((payload.drop 8).take 2) ∧ natLE ((payload.drop 8).take 2) ≤ 8191) →
    (∀ n ct j i o, id = .slot n ct j i o → (byteAt payload 0).toNat = i.val + 1) →
    s.brx.queue.length < 2 →
    let xs := burstSamples conv phase (kindByte :: payload)
    (∀ k, k < xs.length → (heard s k s.brx).intervalOver id = false) →
    ∃ s1 s2 s3 t, exec (.preambleRecognized (xs.take 32)) s = .next s1 ∧
      exec (.delimiterCompared ((xs.drop 32).take 48)) s1 = .next s2 ∧ exec (.kindByte ((xs.drop 80).take 8)) s2 = .next s3 ∧
      exec (.burstComplete (xs.drop 88)) s3 = .next t ∧
      t = heard s xs.length t.brx ∧
      t.brx.hunt = .preamble ∧ t.brx.run = 0 ∧
      t.brx.queue = s.brx.queue ++
        [{ kind := kind, low := kindByte.toNat % 16, payload := payload
           mark := 16 * (160000 * (s.ltu.cycle - id.ref).toInt + (s.ltu.offset : Int)) + (phase.toNat : Int) + 1024
           conv := conv, interval := id }]

/-! ### Discovery -/

/-- HELLO_TAKE (R35, R36, R43, R123): the oldest HELLO leaves the queue. One whose identity names no open round is discarded uncounted; one out
of spread is a stray; any other counts as valid, and is a duplicate where its serial is listed, reported once per serial, or is listed while
fewer than 128 are and matched. With no HELLO waiting nothing changes (log 1). -/
def Obligations.HelloChecked : Prop :=
  (∀ s : State, (∀ b ∈ s.brx.queue, b.kind ≠ .hello) → exec .helloTake s = .next s) ∧
  (∀ (s : State) (c : Capture) (before after : List Capture), OldestIs s (fun b => decide (b.kind = .hello)) c before after →
    let u := taken s before after
    let x : Serial := BitVec.ofNat 64 (natLE (c.payload.take 8))
    let resp := natLE ((c.payload.drop 8).take 2)
    let slot := (byteAt c.payload 10).toNat
    let live := fun k : RecIx => (s.record k).state.live = true ∧ (s.record k).serial = x
    ((∀ w, s.dsu.round = .opened w → c.interval ≠ .discovery w.ref) → exec .helloTake s = .next u) ∧
    (∀ w, s.dsu.round = .opened w → c.interval = .discovery w.ref →
      let seen := fun l : List Seen =>
        ({ u with
          dsu := { s.dsu with round := .opened { w with valid := w.valid + 1, seen := l } }
          counters := s.counters.inc .validHellos } : State)
      let marked := w.seen.map (fun y => if y.serial = x then { y with reported := true } else y)
      let report := fun idx : Byte => ({ kind := .duplicate, index := idx, detail0 := 0, detail1 := 0
                                         value := x.extractLsb' 0 32 } : Raise)
      (w.spread ≤ slot → exec .helloTake s = .next { u with counters := s.counters.inc .strayBursts }) ∧
      (slot < w.spread → ∀ y l m, w.seen = l ++ y :: m → y.serial = x → (∀ z ∈ l, z.serial ≠ x) →
        (y.reported = true → exec .helloTake s = .next (seen w.seen)) ∧
        (y.reported = false → (∀ k, live k → (∀ j < k, ¬live j) →
          exec .helloTake s = .next (State.raise (seen marked) (report (BitVec.ofNat 8 k.val)))) ∧
          ((∀ k, ¬live k) → exec .helloTake s = .next (State.raise (seen marked) (report 255))))) ∧
      (slot < w.spread → (∀ y ∈ w.seen, y.serial ≠ x) → exec .helloTake s = .next (State.matchHello
        (seen (if w.seen.length < 128 then w.seen ++ [{ serial := x, reported := false }] else w.seen)) x c.conv resp))))

/-- A HELLO matched to a live record (R14, R22, R37): the sighting is noted; in AWAITING the record is ASSIGNED with the HELLO's convention and
response time and its ASSIGN queued; in ASSIGNED before its ASSIGN is taken, and in RELEASING, the sighting is all; in any other live state it
reappears: its work is abandoned, REAPPEAR is raised, its flags, line number and blocks acked are cleared, it is ASSIGNED again with its ASSIGN
queued, and its attempts used, retries and last deviation stay; one ASSIGNED already keeps its cycle of last state change (log 16). A channel
it held is passed on first, with the RECORD event of the record that receives it (log 8). The run length and the hunt record are emptied as the
arm line drops (log 38). A read still queued as its channel is freed or granted anew is marked and served first (log 32). -/
def Obligations.HelloMatched : Prop :=
  ∀ (s : State) (x : Serial) (conv : Conv) (resp : Nat) (i : RecIx), (s.record i).state.live = true → (s.record i).serial = x →
    (∀ k < i, ¬((s.record k).state.live = true ∧ (s.record k).serial = x)) →
    let r := s.record i
    let up := fun n : Nat => if n < 255 then n + 1 else n
    let seen : Record := { r with sightings := up r.sightings, lastHello := s.ltu.cycle }
    let u : State := { s with records := s.records.set i seen }
    (r.state = .awaiting → State.matchHello s x conv resp = State.raise
      { s with
        records := s.records.set i { seen with conv := conv, resp := resp, state := .assigned, lastChange := s.ltu.cycle }
        dsq := { s.dsq with control := s.dsq.control ++ [{ index := i, kind := .assign }] } }
      (recordEvent i .assigned .hello r.tag)) ∧
    (r.state = .releasing ∨ (r.state = .assigned ∧ r.assignTaken = false) → State.matchHello s x conv resp = u) ∧
    (r.state = .inService ∨ (r.state.inActivation = true ∧ (r.state = .assigned → r.assignTaken = true)) →
      let t := State.matchHello s x conv resp
      let again : Raise := { kind := .reappear, index := BitVec.ofNat 8 i.val, detail0 := actCode r.state, detail1 := 0, value := r.tag }
      Abandoned u t i ∧
      t.record i = { seen with
        restarts := up r.restarts, assignTaken := false, eqValid := false, profileDelivered := false, line := 0, blocksAcked := 0
        conv := conv, resp := resp, state := .assigned
        lastChange := if r.state = .assigned then r.lastChange else s.ltu.cycle } ∧
      t.dsq.control = s.dsq.control.filter (fun e => decide (e.index ≠ i)) ++ [{ index := i, kind := .assign }] ∧
      t.dsq.urgent = s.dsq.urgent ∧
      EventsRaised s t (passEvents s i ++ [again, recordEvent i .assigned .reappear r.tag]))

/-- A HELLO that no live record holds (R23, R37, R38, R39, R40, R44): the lowest-indexed HELD or FAILED holder notes the sighting and is marked
seen while held; with no holder outside EMPTY it is a stranger's, which with OpenDiscovery on and the maker and range filters passed
updates its entry, is appended with STRANGER while fewer than 32 are listed, or is dropped and counted, and is otherwise counted as
filtered. In every case a PARK is queued. -/
def Obligations.StrangerHeard : Prop :=
  ∀ (s : State) (x : Serial) (conv : Conv) (resp : Nat), (∀ k, (s.record k).state.live = true → (s.record k).serial ≠ x) →
    let up := fun n : Nat => if n < 255 then n + 1 else n
    let stopped := fun k : RecIx => ((s.record k).state = .held ∨ (s.record k).state = .failed) ∧ (s.record k).serial = x
    let maker := x.extractLsb' 32 32
    let unit := (x.extractLsb' 0 32).toNat
    let agrees := fun value mask : Word => ∀ b < 32, mask.getLsbD b = true → maker.getLsbD b = value.getLsbD b
    let h := s.header
    let passes := h.openDiscovery ≠ 0 ∧
      ((h.filterAOn = 0 ∧ h.filterBOn = 0) ∨ (h.filterAOn ≠ 0 ∧ agrees h.filterAValue h.filterAMask) ∨
        (h.filterBOn ≠ 0 ∧ agrees h.filterBValue h.filterBMask)) ∧
      (h.rangeMode = 1 → h.rangeLower.toNat ≤ unit ∧ unit ≤ h.rangeUpper.toNat) ∧
      (h.rangeMode = 2 → unit < h.rangeLower.toNat ∨ h.rangeUpper.toNat < unit)
    (∀ i, stopped i → (∀ k < i, ¬stopped k) →
      let noted : Record := { s.record i with sightings := up (s.record i).sightings, lastHello := s.ltu.cycle, seenWhileHeld := true }
      State.matchHello s x conv resp = parked { s with records := s.records.set i noted } x) ∧
    ((∀ k, ¬stopped k) →
      (¬passes → State.matchHello s x conv resp = parked { s with counters := s.counters.inc .strangersFiltered } x) ∧
      (passes → (∃ e ∈ s.dsu.strangers, e.serial = x) → State.matchHello s x conv resp = parked
        { s with dsu := { s.dsu with strangers := s.dsu.strangers.map (fun e =>
            if e.serial = x then { e with count := up e.count, last := s.ltu.cycle, conv := conv, resp := resp } else e) } } x) ∧
      (passes → (∀ e ∈ s.dsu.strangers, e.serial ≠ x) → s.dsu.strangers.length < 32 →
        State.matchHello s x conv resp = parked (State.raise
          { s with dsu := { s.dsu with strangers := s.dsu.strangers ++
              [{ serial := x, conv := conv, resp := resp, first := s.ltu.cycle, last := s.ltu.cycle, count := 1 }] } }
          { kind := .stranger, index := 255, detail0 := BitVec.ofNat 8 (s.dsu.strangers.length + 1), detail1 := 0
            value := x.extractLsb' 0 32 }) x) ∧
      (passes → (∀ e ∈ s.dsu.strangers, e.serial ≠ x) → 32 ≤ s.dsu.strangers.length →
        State.matchHello s x conv resp = parked { s with counters := s.counters.inc .strangersDropped } x))

/-- ROUND_DUE and DISCOVERY_ROUND_COMPLETE (R31, R32, R41, R42). While RUNNING with the line up and no round, once DiscoveryPeriod cycles have
passed from the base cycle and a record is AWAITING or OpenDiscovery is on, the DSU presents discovery demand (log 19). Once the window of an
open round has ended and no capture of it waits, the counter of its class rises, the exponent adapts (up after a garbled window, down after
a silent one or one at most a quarter full, within SpreadMin and SpreadMax), the base cycle is the current one and there is no round.
Otherwise nothing changes (log 1). -/
def Obligations.Rounds : Prop :=
  ∀ s : State,
    let due := s.pct.port = .running ∧ s.ltu.lineUp = true ∧ s.dsu.round = .idle ∧
      s.header.discoveryPeriod.toNat ≤ (s.ltu.cycle - s.dsu.base).toNat ∧
      ((∃ i, (s.record i).state = .awaiting) ∨ s.header.openDiscovery ≠ 0)
    (due → exec .roundDue s = .next { s with dsu := { s.dsu with demand := true } }) ∧
    (¬due → exec .roundDue s = .next s) ∧
    ((∀ w, s.dsu.round ≠ .opened w) → exec .discoveryRoundComplete s = .next s) ∧
    (∀ w, s.dsu.round = .opened w →
      let running := ∃ q, s.ltu.quiet = .opened q ∧ q.interval = .discovery w.ref
      let waiting := ∃ c ∈ s.brx.queue, c.interval = .discovery w.ref
      let done := fun (k : CounterId) (e : Nat) => exec .discoveryRoundComplete s = .next
        { s with counters := s.counters.inc k, dsu := { s.dsu with exponent := e, base := s.ltu.cycle, round := .idle } }
      let down := max (s.dsu.exponent - 1) s.header.spreadMin.toNat
      (running ∨ waiting → exec .discoveryRoundComplete s = .next s) ∧
      (¬running → ¬waiting →
        (w.garbled = true → done .windowsGarbled (min (s.dsu.exponent + 1) s.header.spreadMax.toNat)) ∧
        (w.garbled = false → w.valid = 0 → done .windowsSilent down) ∧
        (w.garbled = false → 1 ≤ w.valid → 4 * w.valid ≤ w.spread → done .windowsClean down) ∧
        (w.garbled = false → 1 ≤ w.valid → w.spread < 4 * w.valid → done .windowsClean s.dsu.exponent)))

/-! ### Ranging -/

/-- ECHO_TAKE (R57, R66, R103, R123): the RGU's oldest capture, an ECHO, leaves the queue. One that names no open attempt's window is discarded
uncounted; one outside the train is a stray; one of another line number counts as wrong sender; one of another convention is discarded; one
for a filled place sets its doubled mark; any other fills its place. With every place filled the attempt is JUDGING, and its own window, if
it is still OPEN, ends with DONE, the run length and the hunt record emptied as the arm line drops (log 38). With no capture of the RGU
waiting, or a SETTLE the oldest of them, nothing changes (log 1). -/
def Obligations.EchoTaken : Prop :=
  let mine := fun b : Capture => decide (b.kind = .echo ∨ (b.kind = .status ∧ b.low = 3))
  (∀ s : State, (∀ b ∈ s.brx.queue, mine b = false) → exec .echoTake s = .next s) ∧
  (∀ (s : State) (c : Capture) (before after : List Capture), OldestIs s mine c before after →
    let u := taken s before after
    (c.kind ≠ .echo → exec .echoTake s = .next s) ∧
    (c.kind = .echo →
      ((∀ a, s.rgu.attempt = some a → a.stage = .opened → ∀ cq, a.ref = some cq → c.interval ≠ .ranging cq a.index a.ident) →
        exec .echoTake s = .next u) ∧
      (∀ a cq, s.rgu.attempt = some a → a.stage = .opened → a.ref = some cq → c.interval = .ranging cq a.index a.ident →
        let r := s.record a.index
        let lineRight := (byteAt c.payload 0).toNat = r.line
        (a.count ≤ c.low → exec .echoTake s = .next { u with counters := s.counters.inc .strayBursts }) ∧
        (c.low < a.count → ¬lineRight → exec .echoTake s = .next { u with counters := s.counters.inc .wrongSender }) ∧
        (c.low < a.count → lineRight → c.conv ≠ r.conv → exec .echoTake s = .next u) ∧
        (∀ p, c.low < a.count → lineRight → c.conv = r.conv → a.places[c.low]? = some p →
          let p' : Place := if p.mark = none then { p with mark := some c.mark } else { p with doubled := true }
          let a' : Attempt := { a with places := a.places.set c.low p' }
          let v : State := { u with rgu := { s.rgu with attempt := some { a' with stage := .judging } } }
          ((∃ q ∈ a'.places, q.mark = none) → exec .echoTake s = .next { u with rgu := { s.rgu with attempt := some a' } }) ∧
          ((∀ q ∈ a'.places, q.mark ≠ none) →
            (∀ w, s.ltu.quiet = .opened w → w.interval = c.interval → exec .echoTake s = .next { v with
              ltu := { s.ltu with quiet := .idle, armed := if s.ltu.armed = some w.interval then none else s.ltu.armed }
              brx := if s.ltu.armed = some w.interval then disarmed u.brx else u.brx
              links := { s.links with sched := s.links.sched ++ [.done] } }) ∧
            ((∀ w, s.ltu.quiet = .opened w → w.interval ≠ c.interval) → exec .echoTake s = .next v))))))

/-- ATTEMPT_JUDGE (R58 to R65, R123): an attempt is judged once it is JUDGING, or its window has ended, and no capture of it waits. A place
empty or doubled fails it with MISS; a spread of the loop times above SpreadLimit16 with SPREAD; with L the sum of the loop times over N,
halves rounded up, L above 16 TargetLoop is REACH, L below 16 Resp fails with EARLY, and any other L succeeds with the equalization delay
16 TargetLoop - L in its two parts. The attempt is closed, its counter rises, and the outcome goes to the RTB under its identity. With no
attempt, or one not ready to judge, nothing changes (log 1). -/
def Obligations.AttemptJudge : Prop :=
  ∀ s : State,
    (s.rgu.attempt = none → exec .attemptJudge s = .next s) ∧
    (∀ a, s.rgu.attempt = some a →
      let uncaptured := ∀ cq, a.ref = some cq → ∀ x ∈ s.brx.queue, x.interval ≠ .ranging cq a.index a.ident
      let finished := (a.stage = .judging ∧ uncaptured) ∨ (a.stage = .opened ∧ uncaptured ∧ ∃ cq, a.ref = some cq ∧
        ∀ w, s.ltu.quiet = .opened w → w.interval ≠ .ranging cq a.index a.ident)
      let ends := fun (o : RangingOutcome) (k : CounterId) => exec .attemptJudge s = .next
        { s with
          counters := s.counters.inc k
          rgu := { s.rgu with
            attempt := none
            reports := s.rgu.reports ++ [{ index := a.index, ident := a.ident, outcome := o }] } }
      let target : Int := 16 * s.header.targetLoop.toNat
      let resp : Int := 16 * (s.record a.index).resp
      (¬finished → exec .attemptJudge s = .next s) ∧
      (finished →
        ((∃ p ∈ a.places, p.mark = none ∨ p.doubled = true) → ends (.failed .miss) .rangingFailed) ∧
        (∀ marks : List Int, marks ≠ [] → a.places = marks.map (fun m => { mark := some m, doubled := false }) →
          let loops := marks.zipIdx.map (fun (m, i) => m - 1024 - 16384 * (i : Int))
          let n : Int := marks.length
          ((∃ x ∈ loops, ∃ y ∈ loops, (s.header.spreadLimit.toNat : Int) < x - y) → ends (.failed .spread) .rangingFailed) ∧
          ((∀ x ∈ loops, ∀ y ∈ loops, x - y ≤ (s.header.spreadLimit.toNat : Int)) →
            ∀ l : Int, n * l ≤ loops.sum + n / 2 → loops.sum + n / 2 < n * (l + 1) →
              (target < l → ends .reach .rangingFailed) ∧
              (l ≤ target → l < resp → ends (.failed .early) .rangingFailed) ∧
              (l ≤ target → resp ≤ l →
                ends (.success l.toNat ((target - l) / 16).toNat ((target - l) % 16).toNat) .rangingOk)))))

/-- RANGING_OUTCOME (R11, R17, R25): the oldest ranging outcome is dropped unless its record is RANGING and it names the latest attempt. A
success stores L, coarse and fine, sets eq-valid, and the record is EQUALIZED with its EQUALIZE queued; a failed attempt counts one used, and
below RangeLimit the record is ASSIGNED at the back of the ranging queue, at it RELEASING to FAILED with reason RANGE; REACH is RELEASING to
FAILED with reason REACH and counts none. That the outcomes stand in a list whose oldest is taken is log 12. A count at a lowered limit stays
at the limit (log 37); with no outcome waiting nothing changes (log 1). The run length and the hunt record are emptied as the arm line drops
(log 38). A read still queued as its channel is freed or granted anew is marked and served first (log 32). -/
def Obligations.RangingOutcome : Prop :=
  (∀ s : State, s.rgu.reports = [] → exec .rangingOutcome s = .next s) ∧
  (∀ (s : State) (p : RangingReport) (rest : List RangingReport), s.rgu.reports = p :: rest →
    let i := p.index
    let r := s.record i
    let u : State := { s with rgu := { s.rgu with reports := rest } }
    let left := s.rgu.queue.filter (fun k => decide (k ≠ i))
    (r.state ≠ .ranging ∨ p.ident ≠ s.rgu.ident → exec .rangingOutcome s = .next u) ∧
    (r.state = .ranging → p.ident = s.rgu.ident →
      (∀ l coarse fine, p.outcome = .success l coarse fine → exec .rangingOutcome s = .next (State.raise
        { u with
          rgu := { u.rgu with queue := left }
          records := s.records.set i
            { r with loop := l, eqCoarse := coarse, eqFine := fine, eqValid := true, state := .equalized, lastChange := s.ltu.cycle }
          dsq := { s.dsq with control := s.dsq.control ++ [{ index := i, kind := .equalize }] } }
        (recordEvent i .equalized .ranged r.tag))) ∧
      (∀ why, p.outcome = .failed why →
        (r.rangeUsed + 1 < s.header.rangeLimit.toNat → exec .rangingOutcome s = .next (State.raise
          { u with
            rgu := { u.rgu with queue := left ++ [i], settles := s.rgu.settles.set i none }
            records := s.records.set i { r with rangeUsed := r.rangeUsed + 1, state := .assigned, lastChange := s.ltu.cycle } }
          (recordEvent i .assigned .attemptFailed r.tag))) ∧
        (s.header.rangeLimit.toNat ≤ r.rangeUsed + 1 → ∃ t, exec .rangingOutcome s = .next t ∧
          Released { u with records := s.records.set i { r with rangeUsed := s.header.rangeLimit.toNat } } t i .failed .failure
            (some .range))) ∧
      (p.outcome = .reach → ∃ t, exec .rangingOutcome s = .next t ∧ Released u t i .failed .failure (some .reach))))

/-! ### Settling -/

/-- SETTLE_REPLY (R70, R72, R73, R107, R123): the RGU's oldest capture, a SETTLE, leaves the queue. With no ask OUTSTANDING for its slot it is
a stray; one of another convention is discarded. Any other answers its booking: a wrong sum reports the mismatch; a right one adds its
deviation A - 16 E, and below K found the ask is queued again. At K found, with the average the sum over K, halves rounded away from zero:
within Tol16 a pass; within 4 Tol16 and not yet trimmed a trim of the equalization, clamped into 0 to 16 TargetLoop; otherwise a re-range. Sums
and deviations have no bound (log 34); the run length and the hunt record are emptied as an armed booking is answered (log 38). With no capture
of the RGU waiting, or an ECHO the oldest of them, nothing changes (log 1). -/
def Obligations.SettleReply : Prop :=
  let mine := fun b : Capture => decide (b.kind = .echo ∨ (b.kind = .status ∧ b.low = 3))
  (∀ s : State, (∀ b ∈ s.brx.queue, mine b = false) → exec .settleReply s = .next s) ∧
  (∀ (s : State) (c : Capture) (before after : List Capture), OldestIs s mine c before after →
    let u := taken s before after
    (c.kind = .echo → exec .settleReply s = .next s) ∧
    (c.kind ≠ .echo →
      (∀ n ct j i o, c.interval = .slot n ct j i o → ∀ k y ct' j', s.settle k = some y → y.stage ≠ .outstanding ct' j' n) →
      exec .settleReply s = .next { u with counters := s.counters.inc .strayBursts }) ∧
    (∀ n ct j k o i x, c.kind ≠ .echo → c.interval = .slot n ct j k o → s.settle i = some x → x.stage = .outstanding ct j n →
      (∀ m < i, ∀ y ct' j', s.settle m = some y → y.stage ≠ .outstanding ct' j' n) →
      let r := s.record i
      let v := answered u n
      let want := if r.profileIx = 255 then 0 else (s.dirEntry (profileDir r.profileIx)).sum
      let got := natLE ((c.payload.drop 2).take 2)
      let due := s.header.targetLoop.toNat + s.header.spanStart.toNat + j * s.header.slotLen.toNat + 64
      let total := x.sum + (c.mark - 16 * (due : Int))
      let x' : Settle := { x with found := x.found + 1, sum := total }
      let count := r.settleCount.toNat
      let tol := s.header.tol.toNat
      let reports := fun (y : Settle) (o : SettleOutcome) (st : SettleStage) => exec .settleReply s = .next { v with
        rgu := { s.rgu with
          settles := s.rgu.settles.set i (some { y with stage := st, report := some o })
          settleReports := s.rgu.settleReports ++ [i] } }
      (c.conv ≠ r.conv → exec .settleReply s = .next u) ∧
      (c.conv = r.conv → got ≠ want → reports x .sumMismatch .decided) ∧
      (c.conv = r.conv → got = want → x.found + 1 < count → exec .settleReply s = .next { v with
        rgu := { s.rgu with settles := s.rgu.settles.set i (some { x' with stage := .queued }) }
        dsq := { s.dsq with reply := s.dsq.reply ++ [{ index := i, kind := .confirmAsk }] } }) ∧
      (c.conv = r.conv → got = want → count ≤ x.found + 1 →
        ∀ avg : Int, avg.natAbs = (total.natAbs + count / 2) / count → (0 < total → 0 ≤ avg) → (total < 0 → avg ≤ 0) →
          (total = 0 → avg = 0) →
          (avg.natAbs ≤ tol → reports x' (.pass avg) .decided) ∧
          (tol < avg.natAbs → avg.natAbs ≤ 4 * tol → r.trimSent = false →
            let eq : Int := 16 * r.eqCoarse + r.eqFine - avg
            let eq' : Int := max 0 (min eq (16 * s.header.targetLoop.toNat))
            reports x' (.trim avg (eq' / 16).toNat (eq' % 16).toNat (decide (eq' ≠ eq))) .trimming) ∧
          (tol < avg.natAbs → r.trimSent = true ∨ 4 * tol < avg.natAbs → reports x' (.reRange (some avg)) .decided))))

/-- SETTLE_OUTCOME (R11, R20, R25): the oldest settle outcome is dropped unless its record is SETTLING with that outcome reported. A sum
mismatch is RELEASING to FAILED with reason SUM; a trim stores deviation and equalization, sets trim-sent, and queues TRIM with no event; a
pass enters COMMITTING with its COMMIT queued; a re-range stores the average it took, counts an attempt used, and returns the record to the
back of the ranging queue below RangeLimit, or is RELEASING to FAILED with reason RANGE at it. An outcome is current while its settle state
holds it (log 33); that the outcomes stand in a list whose oldest is taken is log 12; a count at a lowered limit stays at the limit (log 37);
with no outcome waiting nothing changes (log 1). The run length and the hunt record are emptied as the arm line drops (log 38). A read still
queued as its channel is freed or granted anew is marked and served first (log 32). -/
def Obligations.SettleOutcome : Prop :=
  (∀ s : State, s.rgu.settleReports = [] → exec .settleOutcome s = .next s) ∧
  (∀ (s : State) (i : RecIx) (rest : List RecIx), s.rgu.settleReports = i :: rest →
    let r := s.record i
    let u : State := { s with rgu := { s.rgu with settleReports := rest } }
    (r.state ≠ .settling ∨ (∀ x o, s.settle i = some x → x.report ≠ some o) → exec .settleOutcome s = .next u) ∧
    (∀ x o, r.state = .settling → s.settle i = some x → x.report = some o →
      (o = .sumMismatch → ∃ t, exec .settleOutcome s = .next t ∧ Released u t i .failed .failure (some .sum)) ∧
      (∀ avg coarse fine clamped, o = .trim avg coarse fine clamped → exec .settleOutcome s = .next { u with
        records := s.records.set i
          { r with
            lastDeviation := avg, eqCoarse := coarse, eqFine := fine, trimSent := true, trimClamped := r.trimClamped || clamped }
        rgu := { u.rgu with settles := s.rgu.settles.set i (some { x with report := none }) }
        dsq := { s.dsq with control := s.dsq.control ++ [{ index := i, kind := .trim }] } }) ∧
      (∀ avg, o = .pass avg → exec .settleOutcome s = .next (State.raise
        { u with
          records := s.records.set i { r with lastDeviation := avg, state := .committing, lastChange := s.ltu.cycle }
          rgu := { u.rgu with settles := s.rgu.settles.set i none }
          dsq := { s.dsq with control := s.dsq.control ++ [{ index := i, kind := .commit }] } }
        (recordEvent i .committing .settled r.tag))) ∧
      (∀ avg, o = .reRange avg →
        let dev := avg.getD r.lastDeviation
        (r.rangeUsed + 1 < s.header.rangeLimit.toNat → exec .settleOutcome s = .next (State.raise
          { u with
            records := s.records.set i
              { r with lastDeviation := dev, rangeUsed := r.rangeUsed + 1, state := .assigned, lastChange := s.ltu.cycle }
            rgu := { u.rgu with
              queue := s.rgu.queue.filter (fun k => decide (k ≠ i)) ++ [i], settles := s.rgu.settles.set i none } }
          (recordEvent i .assigned .reRange r.tag))) ∧
        (s.header.rangeLimit.toNat ≤ r.rangeUsed + 1 → ∃ t, exec .settleOutcome s = .next t ∧
          Released { u with records := s.records.set i { r with lastDeviation := dev, rangeUsed := s.header.rangeLimit.toNat } } t i
            .failed .failure (some .range)))))

/-! ### Profile delivery -/

/-- BLOCK_REPLY (R83, R86, R87, R89, R107, R123): the oldest ACK or NAK leaves the queue. With no channel SENT in its slot it is a stray; one
of another convention is discarded; one of another sequence is stale. A NAK answers the booking and counts a retry: below BlockRetries the
block is offered again, at it the push ends with a profile failure. An ACK answers the booking and counts a block acked: with the last block
the push is complete; otherwise the next block is current with retries 0, offered at once if its buffer is FULL, and the released buffer begins
to fill with the block after that, if the image has one: a repeat in progress gives its bytes at once, a word still wanted is asked for by an
inserted read, and at the image's end the block is padded with zeros. With no ACK or NAK waiting nothing changes (log 1); the run length and
the hunt record are emptied as an armed booking is answered (log 38). A read of a channel whose push fails waits on (log 44). A refill reads
again the word whose bytes were left over (log 45). -/
def Obligations.BlockReply : Prop :=
  let mine := fun b : Capture => decide (b.kind = .status ∧ (b.low = 1 ∨ b.low = 2))
  (∀ s : State, (∀ b ∈ s.brx.queue, mine b = false) → exec .blockReply s = .next s) ∧
  (∀ (s : State) (c : Capture) (before after : List Capture), OldestIs s mine c before after →
    let u := taken s before after
    ((∀ n ct j i o, c.interval = .slot n ct j i o → ∀ ch ct' j', (s.chan ch).stage ≠ .sent ct' j' n) →
      exec .blockReply s = .next { u with counters := s.counters.inc .strayBursts }) ∧
    (∀ n ct j i o ch, c.interval = .slot n ct j i o → (s.chan ch).stage = .sent ct j n →
      (∀ m < ch, ∀ ct' j', (s.chan m).stage ≠ .sent ct' j' n) →
      let x := s.chan ch
      let r := s.record x.index
      let v := answered u n
      let own := (byteAt c.payload 1).toNat = x.current
      let up := if r.retriesTotal < 65535 then r.retriesTotal + 1 else r.retriesTotal
      let acked := s.records.set x.index { r with blocksAcked := r.blocksAcked + 1 }
      (c.conv ≠ r.conv → exec .blockReply s = .next u) ∧
      (c.conv = r.conv → ¬own → exec .blockReply s = .next { u with counters := s.counters.inc .staleReplies }) ∧
      (c.conv = r.conv → own → c.low = 2 → x.retries + 1 < s.header.blockRetries.toNat → exec .blockReply s = .next { v with
        pex := { s.pex with chans := s.pex.chans.set ch { x with retries := x.retries + 1, stage := .ready } }
        records := s.records.set x.index { r with retriesTotal := up }
        dsq := { s.dsq with reply := s.dsq.reply ++ [{ index := x.index, kind := .profileBlock }] } }) ∧
      (c.conv = r.conv → own → c.low = 2 → s.header.blockRetries.toNat ≤ x.retries + 1 → exec .blockReply s = .next { v with
        pex := { s.pex with
          chans := s.pex.chans.set ch { x with retries := x.retries + 1, stage := .reported .profileFailed }
          reports := s.pex.reports ++ [{ index := x.index, chan := ch }] } }) ∧
      (c.conv = r.conv → own → c.low = 1 → x.blocks ≤ x.current + 1 → exec .blockReply s = .next { v with
        records := acked
        pex := { s.pex with
          chans := s.pex.chans.set ch { x with stage := .reported .complete }
          reports := s.pex.reports ++ [{ index := x.index, chan := ch }] } }) ∧
      (c.conv = r.conv → own → c.low = 1 → x.current + 1 < x.blocks → ∃ t, exec .blockReply s = .next t ∧
        t = { v with
          records := acked
          pex := { s.pex with chans := t.pex.chans }
          dsq := { s.dsq with reply := t.dsq.reply }
          bpt := { s.bpt with chanRequests := t.bpt.chanRequests } } ∧
        (∀ m, m ≠ ch → t.chan m = s.chan m ∧ t.chanRequest m = s.chanRequest m) ∧
        (t.chan ch).index = x.index ∧ (t.chan ch).dir = x.dir ∧ (t.chan ch).blocks = x.blocks ∧
        (t.chan ch).current = x.current + 1 ∧ (t.chan ch).retries = 0 ∧
        (((t.chan ch).stage = .ready ∧ t.dsq.reply = s.dsq.reply ++ [{ index := x.index, kind := .profileBlock }]) ∨
          ((t.chan ch).stage = .filling ∧ t.dsq.reply = s.dsq.reply)) ∧
        (∀ k last bytes, x.buffer (x.current + 1) = .full k last bytes →
          (t.chan ch).stage = .ready ∧ (t.chan ch).buffer (x.current + 1) = .full k last bytes) ∧
        (∀ k last bytes, x.next = x.current + 2 → x.buffer (x.current + 1) = .full k last bytes →
          let past := (s.dirEntry x.dir).offset.toNat + (s.dirEntry x.dir).length.toNat
          let refilled := (t.chan ch).buffer x.next
          let cut := fun bs : List Byte => refilled = .full x.next (decide (x.next + 1 = x.blocks)) (bs ++ List.replicate (16 - bs.length) 0)
          let wants := t.chanRequest ch = some ((s.chanRequest ch).getD { word := BitVec.ofNat 14 (x.pos / 4), dropped := false })
          let still := t.chanRequest ch = s.chanRequest ch
          (x.blocks ≤ x.next → refilled = .empty ∧ still) ∧
          (x.next < x.blocks → (∀ n, x.item ≠ .literal n) → (∀ n, x.item ≠ .awaitValue n) → (∀ v n, x.item ≠ .repeating v n) →
            (x.pos < past → refilled = .filling [] ∧ wants) ∧ (past ≤ x.pos → cut [] ∧ still)) ∧
          (x.next < x.blocks → ((∃ n, x.item = .literal n) ∨ ∃ n, x.item = .awaitValue n) → refilled = .filling [] ∧ wants) ∧
          (∀ v n, x.next < x.blocks → x.item = .repeating v n → 1 ≤ n →
            (16 ≤ n → cut (List.replicate 16 v) ∧ still) ∧
            (n < 16 → x.pos < past → refilled = .filling (List.replicate n v) ∧ wants) ∧
            (n < 16 → past ≤ x.pos → cut (List.replicate n v) ∧ still))))))

/-- PROFILE_OUTCOME (R11, R18, R19, R25, R81, R89): the oldest push outcome is dropped unless its channel still holds the ended push of a
PROFILING record. Completion sets profile-delivered, frees the channel, and the record enters SETTLING with its CONFIRM-ASK queued; the channel
goes to the head of the profile-wait queue, which enters PROFILING. A failed push is RELEASING to FAILED with reason PROFILE or IMAGE. That the
outcomes stand in a list whose oldest is taken, an ended push in a channel stage of the model's own, is log 12. With no outcome waiting nothing
changes (log 1); the RECORD event of the record served comes before that of the record granted its channel (log 8). The run length and the hunt
record are emptied as the arm line drops (log 38). A read still queued as its channel is freed or granted anew is marked and served first (log
32). A read of a channel whose push has failed waits on until this outcome is applied (log 44). -/
def Obligations.ProfileOutcome : Prop :=
  (∀ s : State, s.pex.reports = [] → exec .profileOutcome s = .next s) ∧
  (∀ (s : State) (p : PushReport) (rest : List PushReport), s.pex.reports = p :: rest →
    let i := p.index
    let r := s.record i
    let u : State := { s with pex := { s.pex with reports := rest } }
    let current := r.state = .profiling ∧ (s.chan p.chan).index = i
    let settled : Record :=
      { r with profileDelivered := true, trimSent := false, trimClamped := false, state := .settling, lastChange := s.ltu.cycle }
    let opens := s.rgu.settles.set i (some { found := 0, missed := 0, sum := 0, stage := .queued, report := none })
    (¬current ∨ (∀ o, (s.chan p.chan).stage ≠ .reported o) → exec .profileOutcome s = .next u) ∧
    (current → (s.chan p.chan).stage = .reported .complete →
      (s.pex.waiting = [] → exec .profileOutcome s = .next (State.raise
        { u with
          records := s.records.set i settled
          pex := { u.pex with chans := s.pex.chans.set p.chan Channel.reset }
          bpt := { s.bpt with
            chanRequests := s.bpt.chanRequests.set p.chan (droppedRead (s.chanRequest p.chan)) }
          rgu := { s.rgu with settles := opens }
          dsq := { s.dsq with reply := s.dsq.reply ++ [{ index := i, kind := .confirmAsk }] } }
        (recordEvent i .settling .profileDone r.tag))) ∧
      (∀ k ws, s.pex.waiting = k :: ws → k ≠ i → ∃ t, exec .profileOutcome s = .next t ∧ Granted u t p.chan k ∧
        t.pex.waiting = ws ∧ t.record i = settled ∧ (∀ m, m ≠ i → m ≠ k → t.record m = s.record m) ∧
        t = { s with
          records := t.records, pex := t.pex, evw := t.evw, counters := t.counters, bpt := t.bpt
          rgu := { s.rgu with settles := opens }
          dsq := { s.dsq with reply := s.dsq.reply ++ [{ index := i, kind := .confirmAsk }] } } ∧
        EventsRaised s t [recordEvent i .settling .profileDone r.tag, recordEvent k .profiling .channel (s.record k).tag])) ∧
    (current → (s.chan p.chan).stage = .reported .profileFailed → ∃ t, exec .profileOutcome s = .next t ∧
      Released u t i .failed .failure (some .profile)) ∧
    (current → (s.chan p.chan).stage = .reported .imageFailed → ∃ t, exec .profileOutcome s = .next t ∧
      Released u t i .failed .failure (some .image)))

/-! ### What every step keeps -/

/-- Hardware reset leaves a sound state (R9, R27, R39, R44, R105, R111, R151, R154). -/
def Obligations.ResetSound : Prop :=
  Bounded State.reset ∧ Lawful State.reset ∧ RingSound State.reset ∧ MapSound State.reset

/-- Every step keeps the capacities (R39, R44, R111, R149, R151, R154): the pending queue within 8 events, the stranger list within 32, the
park queue within 16, the capture queue within 2, the lost count within 65,535, the consecutive-access count within 16, SRAM in its
canonical form. -/
def Obligations.BoundedKept : Prop := ∀ s t : State, Bounded s → step s = .next t → Bounded t

/-- Every step keeps the law of serial numbers (R9, R12): no two live records hold the same serial, whatever is written, heard, taken or
lost, with the invariant that carries it. -/
def Obligations.LawfulKept : Prop := ∀ s t : State, Lawful s → step s = .next t → Lawful t

/-- Every step keeps the event ring (R151, R155, R156): in the overlay states the written cycles are as many as the unconsumed records, a
record under way has a free slot, its event at the head of the pending queue and its write queued, and no event waits in OFF and LOADING. -/
def Obligations.RingSoundKept : Prop := ∀ s t : State, RingSound s → step s = .next t → RingSound t

/-- Every step keeps the span slot map (R105, R106): no slot has two entries and no record two bookings. -/
def Obligations.MapSoundKept : Prop := ∀ s t : State, MapSound s → step s = .next t → MapSound t

/-! ### The layouts of held words -/

/-- Reads of held words in the overlay states that have no row of their own (R2, R4, R46, R47, R140, R141, R145, R146; 11.2 to 11.6): each
answers the whole word as its owner holds it and changes nothing else: the header setup words, the directory halves, pop words 1 to 7, the
setup words of a record, and the live words of the header and of a record while no snapshot of them is held. The layouts of the live words,
the flags and the codes are those of 11.3 and 11.4. Each header counter, raised, rises by 1 and stops at 65,535, and the other 24 stay (R164). -/
def Obligations.HeldWordReads : Prop :=
  ∀ (s : State) (w : WinWord),
    let h := s.header
    let n := w.toNat
    let q := s.counters
    let x := s.dsu.pop.entry
    let pair := fun a b : Nat => word2 (BitVec.ofNat 16 a) (BitVec.ofNat 16 b)
    let byte := fun a : Nat => BitVec.ofNat 8 a
    let listed := fun (l : List (Nat × Word)) (k : Nat) => (l.lookup k).getD 0
    let setup : List (Nat × Word) :=
      [(0, word4 h.portIntent 0 0 0), (1, h.targetLoop), (2, h.spanStart), (3, word2 h.slotLen (h.replyLead ++ h.slotCount)),
       (4, word4 h.quietWait h.rangeLimit h.spreadLimit h.tol), (5, word4 h.blockRetries 0 0 0),
       (16, word2 h.discoveryPeriod (h.parkRounds ++ h.discoveryDefer)),
       (17, word4 h.spreadMin h.spreadInit h.spreadMax h.openDiscovery), (18, word4 h.filterAOn h.filterBOn h.rangeMode 0),
       (19, h.filterAValue), (20, h.filterAMask), (21, h.filterBValue), (22, h.filterBMask), (23, h.rangeLower), (24, h.rangeUpper),
       (32, word2 (h.threshold ++ h.irqEnable) h.holdCycles), (33, word4 s.evw.consumer 0 0 0)]
    let live : List (Nat × Word) :=
      [(0, word4 (portCode s.pct.port) (if s.ltu.lineUp then 1 else 0) (refusalCode s.pct.refusal) (byte s.dsu.exponent)),
       (1, s.ltu.cycle), (2, word2 (byte s.dsu.strangers.length ++ s.evw.producer) (BitVec.ofNat 16 q.discoveryRounds)),
       (3, pair q.windowsClean q.windowsGarbled), (4, pair q.windowsSilent q.validHellos), (5, pair q.garbledBursts q.captureOverruns),
       (6, pair q.strayBursts q.wrongSender), (7, pair q.strangersDropped q.strangersFiltered), (8, pair q.parkDrops q.staleReplies),
       (9, pair q.rangingOk q.rangingFailed), (10, pair q.quietAsks q.quietDenies), (11, pair q.quietTimeouts q.quietLateGives),
       (12, pair q.quietRevokes q.quietLateRevokes), (13, pair q.quietStrays q.discards), (14, pair q.eventsLost q.stretched)]
    let pop : List (Nat × Word) :=
      [(1, x.serial.extractLsb' 0 32), (2, x.serial.extractLsb' 32 32), (3, pair x.resp 0), (4, x.first), (5, x.last)]
    let liveOf := fun r : Record => ([
      (0, word4 (actCode r.state) (failCode r.reason) (destCode r.dest) (byte r.line)),
      (1, word4 (convCode r.conv) r.flags (byte r.rangeUsed) (byte r.restarts)), (2, word2 (BitVec.setWidth 16 (byte r.sightings)) (BitVec.ofNat 16 r.resp)),
      (3, BitVec.ofNat 32 r.loop), (4, byte r.eqFine ++ BitVec.ofNat 24 r.eqCoarse), (5, BitVec.ofInt 32 r.lastDeviation),
      (6, pair r.blocksTotal r.blocksAcked), (7, pair r.retriesTotal 0), (8, r.lastChange), (9, r.lastHello)] : List (Nat × Word))
    let answers := fun v : Word => exec (.consecutiveAccess (.read (s.busAddr w))) s =
      .next { passed s with links := { s.links with readData := v } }
    (s.holdDue = false → s.pct.port ≠ .off → s.pct.port ≠ .loading →
      (n < 64 → answers (listed setup n)) ∧
      (64 < n → n < 128 → s.bpt.headerHeld = false → answers (listed live (n - 64))) ∧
      (∀ p : DirIx, n = 128 + 2 * p.val → answers (word2 (s.dirEntry p).offset (s.dirEntry p).length)) ∧
      (∀ p : DirIx, n = 129 + 2 * p.val → answers (pair (s.dirEntry p).expanded (s.dirEntry p).sum)) ∧
      (160 < n → n < 168 → answers (listed pop (n - 160))) ∧
      (∀ i : RecIx, let r := s.record i
        (n = 257 + 16 * i.val → answers (r.serial.extractLsb' 0 32)) ∧ (n = 258 + 16 * i.val → answers (r.serial.extractLsb' 32 32)) ∧
        (n = 259 + 16 * i.val → answers r.tag) ∧
        (∀ k < 12, n = 260 + 16 * i.val + k → ¬(s.bpt.snapHeld = true ∧ s.bpt.snapIndex = i) → answers (listed (liveOf r) k)))) ∧
    (∀ k < 64, headerLiveWord s k = listed live k) ∧
    (∀ (r : Record), (∀ k < 12, r.liveWord k = listed (liveOf r) k) ∧
      (∀ b < 8, r.flags.getLsbD b =
        [r.eqValid, r.trimSent, r.trimClamped, r.profileDelivered, r.seenWhileHeld, r.assignTaken].getD b false)) ∧
    (let ids := [CounterId.discoveryRounds, .windowsClean, .windowsGarbled, .windowsSilent, .validHellos, .garbledBursts, .captureOverruns
        , .strayBursts, .wrongSender, .strangersDropped, .strangersFiltered, .parkDrops, .staleReplies, .rangingOk, .rangingFailed
        , .quietAsks, .quietDenies, .quietTimeouts, .quietLateGives, .quietRevokes, .quietLateRevokes, .quietStrays, .discards
        , .eventsLost, .stretched]
      let values := fun c : Counters => [c.discoveryRounds, c.windowsClean, c.windowsGarbled, c.windowsSilent, c.validHellos
        , c.garbledBursts, c.captureOverruns, c.strayBursts, c.wrongSender, c.strangersDropped, c.strangersFiltered, c.parkDrops
        , c.staleReplies, c.rangingOk, c.rangingFailed, c.quietAsks, c.quietDenies, c.quietTimeouts, c.quietLateGives, c.quietRevokes
        , c.quietLateRevokes, c.quietStrays, c.discards, c.eventsLost, c.stretched]
      let up := fun v : Nat => if v < 65535 then v + 1 else v
      ∀ (c : Counters) (k : CounterId), k ∈ ids ∧
        values (c.inc k) = (ids.zip (values c)).map (fun (m, v) => if m = k then up v else v)) ∧
    [PortState.off, .loading, .config, .running, .draining, .halted].map portCode = [0, 1, 2, 3, 4, 5] ∧
    [RefusalCode.clear, .target, .span].map refusalCode = [0, 1, 2] ∧
    [ActState.empty, .awaiting, .assigned, .ranging, .equalized, .profiling, .settling, .committing, .inService, .releasing, .held
      , .failed].map actCode = [0, 1, 2, 3, 4, 5, 6, 7, 8, 9, 10, 11] ∧
    [FailReason.clear, .reach, .range, .profile, .image, .sum].map failCode = [0, 1, 2, 3, 4, 5] ∧
    [RelDest.clear, .empty, .held, .failed, .awaiting].map destCode = [0, 1, 2, 3, 4] ∧
    [Conv.unknown, .straight, .crossed].map convCode = [0, 1, 2]
end

