-- ==== Sys2Proof/Laws/State.lean ====
section
/-! SUPPORT. What each elementary update of the state leaves alone: one lemma per field per update, true by rfl. -/

namespace Sys2Proof.Machine

variable (s : State)

@[simp] theorem State.count_records (k : CounterId) : (s.count k).records = s.records := rfl
@[simp] theorem State.count_header (k : CounterId) : (s.count k).header = s.header := rfl
@[simp] theorem State.count_dsu (k : CounterId) : (s.count k).dsu = s.dsu := rfl
@[simp] theorem State.count_rgu (k : CounterId) : (s.count k).rgu = s.rgu := rfl
@[simp] theorem State.count_pex (k : CounterId) : (s.count k).pex = s.pex := rfl
@[simp] theorem State.count_ltu (k : CounterId) : (s.count k).ltu = s.ltu := rfl
@[simp] theorem State.count_brx (k : CounterId) : (s.count k).brx = s.brx := rfl
@[simp] theorem State.count_dsq (k : CounterId) : (s.count k).dsq = s.dsq := rfl
@[simp] theorem State.count_evw (k : CounterId) : (s.count k).evw = s.evw := rfl
@[simp] theorem State.count_pct (k : CounterId) : (s.count k).pct = s.pct := rfl
@[simp] theorem State.count_bpt (k : CounterId) : (s.count k).bpt = s.bpt := rfl
@[simp] theorem State.count_links (k : CounterId) : (s.count k).links = s.links := rfl
@[simp] theorem State.count_sram (k : CounterId) : (s.count k).sram = s.sram := rfl
@[simp] theorem State.count_pending (k : CounterId) : (s.count k).pending = s.pending := rfl

@[simp] theorem State.setRecord_header (i : RecIx) (r : Record) : (s.setRecord i r).header = s.header := rfl
@[simp] theorem State.setRecord_counters (i : RecIx) (r : Record) : (s.setRecord i r).counters = s.counters := rfl
@[simp] theorem State.setRecord_dsu (i : RecIx) (r : Record) : (s.setRecord i r).dsu = s.dsu := rfl
@[simp] theorem State.setRecord_rgu (i : RecIx) (r : Record) : (s.setRecord i r).rgu = s.rgu := rfl
@[simp] theorem State.setRecord_pex (i : RecIx) (r : Record) : (s.setRecord i r).pex = s.pex := rfl
@[simp] theorem State.setRecord_ltu (i : RecIx) (r : Record) : (s.setRecord i r).ltu = s.ltu := rfl
@[simp] theorem State.setRecord_brx (i : RecIx) (r : Record) : (s.setRecord i r).brx = s.brx := rfl
@[simp] theorem State.setRecord_dsq (i : RecIx) (r : Record) : (s.setRecord i r).dsq = s.dsq := rfl
@[simp] theorem State.setRecord_evw (i : RecIx) (r : Record) : (s.setRecord i r).evw = s.evw := rfl
@[simp] theorem State.setRecord_pct (i : RecIx) (r : Record) : (s.setRecord i r).pct = s.pct := rfl
@[simp] theorem State.setRecord_bpt (i : RecIx) (r : Record) : (s.setRecord i r).bpt = s.bpt := rfl
@[simp] theorem State.setRecord_links (i : RecIx) (r : Record) : (s.setRecord i r).links = s.links := rfl
@[simp] theorem State.setRecord_sram (i : RecIx) (r : Record) : (s.setRecord i r).sram = s.sram := rfl
@[simp] theorem State.setRecord_pending (i : RecIx) (r : Record) : (s.setRecord i r).pending = s.pending := rfl

@[simp] theorem State.onRecord_header (i : RecIx) (f : Record → Record) : (s.onRecord i f).header = s.header := rfl
@[simp] theorem State.onRecord_counters (i : RecIx) (f : Record → Record) : (s.onRecord i f).counters = s.counters := rfl
@[simp] theorem State.onRecord_dsu (i : RecIx) (f : Record → Record) : (s.onRecord i f).dsu = s.dsu := rfl
@[simp] theorem State.onRecord_rgu (i : RecIx) (f : Record → Record) : (s.onRecord i f).rgu = s.rgu := rfl
@[simp] theorem State.onRecord_pex (i : RecIx) (f : Record → Record) : (s.onRecord i f).pex = s.pex := rfl
@[simp] theorem State.onRecord_ltu (i : RecIx) (f : Record → Record) : (s.onRecord i f).ltu = s.ltu := rfl
@[simp] theorem State.onRecord_brx (i : RecIx) (f : Record → Record) : (s.onRecord i f).brx = s.brx := rfl
@[simp] theorem State.onRecord_dsq (i : RecIx) (f : Record → Record) : (s.onRecord i f).dsq = s.dsq := rfl
@[simp] theorem State.onRecord_evw (i : RecIx) (f : Record → Record) : (s.onRecord i f).evw = s.evw := rfl
@[simp] theorem State.onRecord_pct (i : RecIx) (f : Record → Record) : (s.onRecord i f).pct = s.pct := rfl
@[simp] theorem State.onRecord_bpt (i : RecIx) (f : Record → Record) : (s.onRecord i f).bpt = s.bpt := rfl
@[simp] theorem State.onRecord_links (i : RecIx) (f : Record → Record) : (s.onRecord i f).links = s.links := rfl
@[simp] theorem State.onRecord_sram (i : RecIx) (f : Record → Record) : (s.onRecord i f).sram = s.sram := rfl
@[simp] theorem State.onRecord_pending (i : RecIx) (f : Record → Record) : (s.onRecord i f).pending = s.pending := rfl

@[simp] theorem State.moveQuietly_header (i : RecIx) (st : ActState) : (s.moveQuietly i st).header = s.header := rfl
@[simp] theorem State.moveQuietly_counters (i : RecIx) (st : ActState) : (s.moveQuietly i st).counters = s.counters := rfl
@[simp] theorem State.moveQuietly_dsu (i : RecIx) (st : ActState) : (s.moveQuietly i st).dsu = s.dsu := rfl
@[simp] theorem State.moveQuietly_rgu (i : RecIx) (st : ActState) : (s.moveQuietly i st).rgu = s.rgu := rfl
@[simp] theorem State.moveQuietly_pex (i : RecIx) (st : ActState) : (s.moveQuietly i st).pex = s.pex := rfl
@[simp] theorem State.moveQuietly_ltu (i : RecIx) (st : ActState) : (s.moveQuietly i st).ltu = s.ltu := rfl
@[simp] theorem State.moveQuietly_brx (i : RecIx) (st : ActState) : (s.moveQuietly i st).brx = s.brx := rfl
@[simp] theorem State.moveQuietly_dsq (i : RecIx) (st : ActState) : (s.moveQuietly i st).dsq = s.dsq := rfl
@[simp] theorem State.moveQuietly_evw (i : RecIx) (st : ActState) : (s.moveQuietly i st).evw = s.evw := rfl
@[simp] theorem State.moveQuietly_pct (i : RecIx) (st : ActState) : (s.moveQuietly i st).pct = s.pct := rfl
@[simp] theorem State.moveQuietly_bpt (i : RecIx) (st : ActState) : (s.moveQuietly i st).bpt = s.bpt := rfl
@[simp] theorem State.moveQuietly_links (i : RecIx) (st : ActState) : (s.moveQuietly i st).links = s.links := rfl
@[simp] theorem State.moveQuietly_sram (i : RecIx) (st : ActState) : (s.moveQuietly i st).sram = s.sram := rfl
@[simp] theorem State.moveQuietly_pending (i : RecIx) (st : ActState) : (s.moveQuietly i st).pending = s.pending := rfl

@[simp] theorem State.followInterrupt_records : (s.followInterrupt).records = s.records := rfl
@[simp] theorem State.followInterrupt_header : (s.followInterrupt).header = s.header := rfl
@[simp] theorem State.followInterrupt_counters : (s.followInterrupt).counters = s.counters := rfl
@[simp] theorem State.followInterrupt_dsu : (s.followInterrupt).dsu = s.dsu := rfl
@[simp] theorem State.followInterrupt_rgu : (s.followInterrupt).rgu = s.rgu := rfl
@[simp] theorem State.followInterrupt_pex : (s.followInterrupt).pex = s.pex := rfl
@[simp] theorem State.followInterrupt_ltu : (s.followInterrupt).ltu = s.ltu := rfl
@[simp] theorem State.followInterrupt_brx : (s.followInterrupt).brx = s.brx := rfl
@[simp] theorem State.followInterrupt_dsq : (s.followInterrupt).dsq = s.dsq := rfl
@[simp] theorem State.followInterrupt_pct : (s.followInterrupt).pct = s.pct := rfl
@[simp] theorem State.followInterrupt_bpt : (s.followInterrupt).bpt = s.bpt := rfl
@[simp] theorem State.followInterrupt_links : (s.followInterrupt).links = s.links := rfl
@[simp] theorem State.followInterrupt_sram : (s.followInterrupt).sram = s.sram := rfl
@[simp] theorem State.followInterrupt_pending : (s.followInterrupt).pending = s.pending := rfl

@[simp] theorem State.send_records (m : SchedMessage) : (s.send m).records = s.records := rfl
@[simp] theorem State.send_header (m : SchedMessage) : (s.send m).header = s.header := rfl
@[simp] theorem State.send_counters (m : SchedMessage) : (s.send m).counters = s.counters := rfl
@[simp] theorem State.send_dsu (m : SchedMessage) : (s.send m).dsu = s.dsu := rfl
@[simp] theorem State.send_rgu (m : SchedMessage) : (s.send m).rgu = s.rgu := rfl
@[simp] theorem State.send_pex (m : SchedMessage) : (s.send m).pex = s.pex := rfl
@[simp] theorem State.send_ltu (m : SchedMessage) : (s.send m).ltu = s.ltu := rfl
@[simp] theorem State.send_brx (m : SchedMessage) : (s.send m).brx = s.brx := rfl
@[simp] theorem State.send_dsq (m : SchedMessage) : (s.send m).dsq = s.dsq := rfl
@[simp] theorem State.send_evw (m : SchedMessage) : (s.send m).evw = s.evw := rfl
@[simp] theorem State.send_pct (m : SchedMessage) : (s.send m).pct = s.pct := rfl
@[simp] theorem State.send_bpt (m : SchedMessage) : (s.send m).bpt = s.bpt := rfl
@[simp] theorem State.send_sram (m : SchedMessage) : (s.send m).sram = s.sram := rfl
@[simp] theorem State.send_pending (m : SchedMessage) : (s.send m).pending = s.pending := rfl

@[simp] theorem State.answerFetch_records (a : FramerAnswer) : (s.answerFetch a).records = s.records := rfl
@[simp] theorem State.answerFetch_header (a : FramerAnswer) : (s.answerFetch a).header = s.header := rfl
@[simp] theorem State.answerFetch_counters (a : FramerAnswer) : (s.answerFetch a).counters = s.counters := rfl
@[simp] theorem State.answerFetch_dsu (a : FramerAnswer) : (s.answerFetch a).dsu = s.dsu := rfl
@[simp] theorem State.answerFetch_rgu (a : FramerAnswer) : (s.answerFetch a).rgu = s.rgu := rfl
@[simp] theorem State.answerFetch_pex (a : FramerAnswer) : (s.answerFetch a).pex = s.pex := rfl
@[simp] theorem State.answerFetch_ltu (a : FramerAnswer) : (s.answerFetch a).ltu = s.ltu := rfl
@[simp] theorem State.answerFetch_brx (a : FramerAnswer) : (s.answerFetch a).brx = s.brx := rfl
@[simp] theorem State.answerFetch_dsq (a : FramerAnswer) : (s.answerFetch a).dsq = s.dsq := rfl
@[simp] theorem State.answerFetch_evw (a : FramerAnswer) : (s.answerFetch a).evw = s.evw := rfl
@[simp] theorem State.answerFetch_pct (a : FramerAnswer) : (s.answerFetch a).pct = s.pct := rfl
@[simp] theorem State.answerFetch_bpt (a : FramerAnswer) : (s.answerFetch a).bpt = s.bpt := rfl
@[simp] theorem State.answerFetch_sram (a : FramerAnswer) : (s.answerFetch a).sram = s.sram := rfl
@[simp] theorem State.answerFetch_pending (a : FramerAnswer) : (s.answerFetch a).pending = s.pending := rfl

@[simp] theorem State.answerRead_records (w : Word) : (s.answerRead w).records = s.records := rfl
@[simp] theorem State.answerRead_header (w : Word) : (s.answerRead w).header = s.header := rfl
@[simp] theorem State.answerRead_counters (w : Word) : (s.answerRead w).counters = s.counters := rfl
@[simp] theorem State.answerRead_dsu (w : Word) : (s.answerRead w).dsu = s.dsu := rfl
@[simp] theorem State.answerRead_rgu (w : Word) : (s.answerRead w).rgu = s.rgu := rfl
@[simp] theorem State.answerRead_pex (w : Word) : (s.answerRead w).pex = s.pex := rfl
@[simp] theorem State.answerRead_ltu (w : Word) : (s.answerRead w).ltu = s.ltu := rfl
@[simp] theorem State.answerRead_brx (w : Word) : (s.answerRead w).brx = s.brx := rfl
@[simp] theorem State.answerRead_dsq (w : Word) : (s.answerRead w).dsq = s.dsq := rfl
@[simp] theorem State.answerRead_evw (w : Word) : (s.answerRead w).evw = s.evw := rfl
@[simp] theorem State.answerRead_pct (w : Word) : (s.answerRead w).pct = s.pct := rfl
@[simp] theorem State.answerRead_bpt (w : Word) : (s.answerRead w).bpt = s.bpt := rfl
@[simp] theorem State.answerRead_sram (w : Word) : (s.answerRead w).sram = s.sram := rfl
@[simp] theorem State.answerRead_pending (w : Word) : (s.answerRead w).pending = s.pending := rfl

@[simp] theorem State.setQuiet_records (q : Quiet) : (s.setQuiet q).records = s.records := rfl
@[simp] theorem State.setQuiet_header (q : Quiet) : (s.setQuiet q).header = s.header := rfl
@[simp] theorem State.setQuiet_counters (q : Quiet) : (s.setQuiet q).counters = s.counters := rfl
@[simp] theorem State.setQuiet_dsu (q : Quiet) : (s.setQuiet q).dsu = s.dsu := rfl
@[simp] theorem State.setQuiet_rgu (q : Quiet) : (s.setQuiet q).rgu = s.rgu := rfl
@[simp] theorem State.setQuiet_pex (q : Quiet) : (s.setQuiet q).pex = s.pex := rfl
@[simp] theorem State.setQuiet_brx (q : Quiet) : (s.setQuiet q).brx = s.brx := rfl
@[simp] theorem State.setQuiet_dsq (q : Quiet) : (s.setQuiet q).dsq = s.dsq := rfl
@[simp] theorem State.setQuiet_evw (q : Quiet) : (s.setQuiet q).evw = s.evw := rfl
@[simp] theorem State.setQuiet_pct (q : Quiet) : (s.setQuiet q).pct = s.pct := rfl
@[simp] theorem State.setQuiet_bpt (q : Quiet) : (s.setQuiet q).bpt = s.bpt := rfl
@[simp] theorem State.setQuiet_links (q : Quiet) : (s.setQuiet q).links = s.links := rfl
@[simp] theorem State.setQuiet_sram (q : Quiet) : (s.setQuiet q).sram = s.sram := rfl
@[simp] theorem State.setQuiet_pending (q : Quiet) : (s.setQuiet q).pending = s.pending := rfl

@[simp] theorem State.setMap_records (m : List Slot) : (s.setMap m).records = s.records := rfl
@[simp] theorem State.setMap_header (m : List Slot) : (s.setMap m).header = s.header := rfl
@[simp] theorem State.setMap_counters (m : List Slot) : (s.setMap m).counters = s.counters := rfl
@[simp] theorem State.setMap_dsu (m : List Slot) : (s.setMap m).dsu = s.dsu := rfl
@[simp] theorem State.setMap_rgu (m : List Slot) : (s.setMap m).rgu = s.rgu := rfl
@[simp] theorem State.setMap_pex (m : List Slot) : (s.setMap m).pex = s.pex := rfl
@[simp] theorem State.setMap_brx (m : List Slot) : (s.setMap m).brx = s.brx := rfl
@[simp] theorem State.setMap_dsq (m : List Slot) : (s.setMap m).dsq = s.dsq := rfl
@[simp] theorem State.setMap_evw (m : List Slot) : (s.setMap m).evw = s.evw := rfl
@[simp] theorem State.setMap_pct (m : List Slot) : (s.setMap m).pct = s.pct := rfl
@[simp] theorem State.setMap_bpt (m : List Slot) : (s.setMap m).bpt = s.bpt := rfl
@[simp] theorem State.setMap_links (m : List Slot) : (s.setMap m).links = s.links := rfl
@[simp] theorem State.setMap_sram (m : List Slot) : (s.setMap m).sram = s.sram := rfl
@[simp] theorem State.setMap_pending (m : List Slot) : (s.setMap m).pending = s.pending := rfl

@[simp] theorem State.freeSlot_records (ct : Cycle) (j : Nat) : (s.freeSlot ct j).records = s.records := rfl
@[simp] theorem State.freeSlot_header (ct : Cycle) (j : Nat) : (s.freeSlot ct j).header = s.header := rfl
@[simp] theorem State.freeSlot_counters (ct : Cycle) (j : Nat) : (s.freeSlot ct j).counters = s.counters := rfl
@[simp] theorem State.freeSlot_dsu (ct : Cycle) (j : Nat) : (s.freeSlot ct j).dsu = s.dsu := rfl
@[simp] theorem State.freeSlot_rgu (ct : Cycle) (j : Nat) : (s.freeSlot ct j).rgu = s.rgu := rfl
@[simp] theorem State.freeSlot_pex (ct : Cycle) (j : Nat) : (s.freeSlot ct j).pex = s.pex := rfl
@[simp] theorem State.freeSlot_brx (ct : Cycle) (j : Nat) : (s.freeSlot ct j).brx = s.brx := rfl
@[simp] theorem State.freeSlot_dsq (ct : Cycle) (j : Nat) : (s.freeSlot ct j).dsq = s.dsq := rfl
@[simp] theorem State.freeSlot_evw (ct : Cycle) (j : Nat) : (s.freeSlot ct j).evw = s.evw := rfl
@[simp] theorem State.freeSlot_pct (ct : Cycle) (j : Nat) : (s.freeSlot ct j).pct = s.pct := rfl
@[simp] theorem State.freeSlot_bpt (ct : Cycle) (j : Nat) : (s.freeSlot ct j).bpt = s.bpt := rfl
@[simp] theorem State.freeSlot_links (ct : Cycle) (j : Nat) : (s.freeSlot ct j).links = s.links := rfl
@[simp] theorem State.freeSlot_sram (ct : Cycle) (j : Nat) : (s.freeSlot ct j).sram = s.sram := rfl
@[simp] theorem State.freeSlot_pending (ct : Cycle) (j : Nat) : (s.freeSlot ct j).pending = s.pending := rfl

@[simp] theorem State.book_records (ct : Cycle) (j : Nat) (i : RecIx) (o : Owner) : (s.book ct j i o).records = s.records := rfl
@[simp] theorem State.book_header (ct : Cycle) (j : Nat) (i : RecIx) (o : Owner) : (s.book ct j i o).header = s.header := rfl
@[simp] theorem State.book_counters (ct : Cycle) (j : Nat) (i : RecIx) (o : Owner) : (s.book ct j i o).counters = s.counters := rfl
@[simp] theorem State.book_dsu (ct : Cycle) (j : Nat) (i : RecIx) (o : Owner) : (s.book ct j i o).dsu = s.dsu := rfl
@[simp] theorem State.book_rgu (ct : Cycle) (j : Nat) (i : RecIx) (o : Owner) : (s.book ct j i o).rgu = s.rgu := rfl
@[simp] theorem State.book_pex (ct : Cycle) (j : Nat) (i : RecIx) (o : Owner) : (s.book ct j i o).pex = s.pex := rfl
@[simp] theorem State.book_brx (ct : Cycle) (j : Nat) (i : RecIx) (o : Owner) : (s.book ct j i o).brx = s.brx := rfl
@[simp] theorem State.book_dsq (ct : Cycle) (j : Nat) (i : RecIx) (o : Owner) : (s.book ct j i o).dsq = s.dsq := rfl
@[simp] theorem State.book_evw (ct : Cycle) (j : Nat) (i : RecIx) (o : Owner) : (s.book ct j i o).evw = s.evw := rfl
@[simp] theorem State.book_pct (ct : Cycle) (j : Nat) (i : RecIx) (o : Owner) : (s.book ct j i o).pct = s.pct := rfl
@[simp] theorem State.book_bpt (ct : Cycle) (j : Nat) (i : RecIx) (o : Owner) : (s.book ct j i o).bpt = s.bpt := rfl
@[simp] theorem State.book_links (ct : Cycle) (j : Nat) (i : RecIx) (o : Owner) : (s.book ct j i o).links = s.links := rfl
@[simp] theorem State.book_sram (ct : Cycle) (j : Nat) (i : RecIx) (o : Owner) : (s.book ct j i o).sram = s.sram := rfl
@[simp] theorem State.book_pending (ct : Cycle) (j : Nat) (i : RecIx) (o : Owner) : (s.book ct j i o).pending = s.pending := rfl

@[simp] theorem State.emptyWindowSlot_records : (s.emptyWindowSlot).records = s.records := rfl
@[simp] theorem State.emptyWindowSlot_header : (s.emptyWindowSlot).header = s.header := rfl
@[simp] theorem State.emptyWindowSlot_counters : (s.emptyWindowSlot).counters = s.counters := rfl
@[simp] theorem State.emptyWindowSlot_dsu : (s.emptyWindowSlot).dsu = s.dsu := rfl
@[simp] theorem State.emptyWindowSlot_rgu : (s.emptyWindowSlot).rgu = s.rgu := rfl
@[simp] theorem State.emptyWindowSlot_pex : (s.emptyWindowSlot).pex = s.pex := rfl
@[simp] theorem State.emptyWindowSlot_ltu : (s.emptyWindowSlot).ltu = s.ltu := rfl
@[simp] theorem State.emptyWindowSlot_brx : (s.emptyWindowSlot).brx = s.brx := rfl
@[simp] theorem State.emptyWindowSlot_evw : (s.emptyWindowSlot).evw = s.evw := rfl
@[simp] theorem State.emptyWindowSlot_pct : (s.emptyWindowSlot).pct = s.pct := rfl
@[simp] theorem State.emptyWindowSlot_bpt : (s.emptyWindowSlot).bpt = s.bpt := rfl
@[simp] theorem State.emptyWindowSlot_links : (s.emptyWindowSlot).links = s.links := rfl
@[simp] theorem State.emptyWindowSlot_sram : (s.emptyWindowSlot).sram = s.sram := rfl
@[simp] theorem State.emptyWindowSlot_pending : (s.emptyWindowSlot).pending = s.pending := rfl

@[simp] theorem State.arm_records (id : Interval) : (s.arm id).records = s.records := rfl
@[simp] theorem State.arm_header (id : Interval) : (s.arm id).header = s.header := rfl
@[simp] theorem State.arm_counters (id : Interval) : (s.arm id).counters = s.counters := rfl
@[simp] theorem State.arm_dsu (id : Interval) : (s.arm id).dsu = s.dsu := rfl
@[simp] theorem State.arm_rgu (id : Interval) : (s.arm id).rgu = s.rgu := rfl
@[simp] theorem State.arm_pex (id : Interval) : (s.arm id).pex = s.pex := rfl
@[simp] theorem State.arm_dsq (id : Interval) : (s.arm id).dsq = s.dsq := rfl
@[simp] theorem State.arm_evw (id : Interval) : (s.arm id).evw = s.evw := rfl
@[simp] theorem State.arm_pct (id : Interval) : (s.arm id).pct = s.pct := rfl
@[simp] theorem State.arm_bpt (id : Interval) : (s.arm id).bpt = s.bpt := rfl
@[simp] theorem State.arm_links (id : Interval) : (s.arm id).links = s.links := rfl
@[simp] theorem State.arm_sram (id : Interval) : (s.arm id).sram = s.sram := rfl
@[simp] theorem State.arm_pending (id : Interval) : (s.arm id).pending = s.pending := rfl

@[simp] theorem State.disarm_records : (s.disarm).records = s.records := rfl
@[simp] theorem State.disarm_header : (s.disarm).header = s.header := rfl
@[simp] theorem State.disarm_counters : (s.disarm).counters = s.counters := rfl
@[simp] theorem State.disarm_dsu : (s.disarm).dsu = s.dsu := rfl
@[simp] theorem State.disarm_rgu : (s.disarm).rgu = s.rgu := rfl
@[simp] theorem State.disarm_pex : (s.disarm).pex = s.pex := rfl
@[simp] theorem State.disarm_dsq : (s.disarm).dsq = s.dsq := rfl
@[simp] theorem State.disarm_evw : (s.disarm).evw = s.evw := rfl
@[simp] theorem State.disarm_pct : (s.disarm).pct = s.pct := rfl
@[simp] theorem State.disarm_bpt : (s.disarm).bpt = s.bpt := rfl
@[simp] theorem State.disarm_links : (s.disarm).links = s.links := rfl
@[simp] theorem State.disarm_sram : (s.disarm).sram = s.sram := rfl
@[simp] theorem State.disarm_pending : (s.disarm).pending = s.pending := rfl

@[simp] theorem State.setChan_records (ch : ChanIx) (c : Channel) : (s.setChan ch c).records = s.records := rfl
@[simp] theorem State.setChan_header (ch : ChanIx) (c : Channel) : (s.setChan ch c).header = s.header := rfl
@[simp] theorem State.setChan_counters (ch : ChanIx) (c : Channel) : (s.setChan ch c).counters = s.counters := rfl
@[simp] theorem State.setChan_dsu (ch : ChanIx) (c : Channel) : (s.setChan ch c).dsu = s.dsu := rfl
@[simp] theorem State.setChan_rgu (ch : ChanIx) (c : Channel) : (s.setChan ch c).rgu = s.rgu := rfl
@[simp] theorem State.setChan_ltu (ch : ChanIx) (c : Channel) : (s.setChan ch c).ltu = s.ltu := rfl
@[simp] theorem State.setChan_brx (ch : ChanIx) (c : Channel) : (s.setChan ch c).brx = s.brx := rfl
@[simp] theorem State.setChan_dsq (ch : ChanIx) (c : Channel) : (s.setChan ch c).dsq = s.dsq := rfl
@[simp] theorem State.setChan_evw (ch : ChanIx) (c : Channel) : (s.setChan ch c).evw = s.evw := rfl
@[simp] theorem State.setChan_pct (ch : ChanIx) (c : Channel) : (s.setChan ch c).pct = s.pct := rfl
@[simp] theorem State.setChan_bpt (ch : ChanIx) (c : Channel) : (s.setChan ch c).bpt = s.bpt := rfl
@[simp] theorem State.setChan_links (ch : ChanIx) (c : Channel) : (s.setChan ch c).links = s.links := rfl
@[simp] theorem State.setChan_sram (ch : ChanIx) (c : Channel) : (s.setChan ch c).sram = s.sram := rfl
@[simp] theorem State.setChan_pending (ch : ChanIx) (c : Channel) : (s.setChan ch c).pending = s.pending := rfl

@[simp] theorem State.setDir_records (p : DirIx) (e : DirEntry) : (s.setDir p e).records = s.records := rfl
@[simp] theorem State.setDir_header (p : DirIx) (e : DirEntry) : (s.setDir p e).header = s.header := rfl
@[simp] theorem State.setDir_counters (p : DirIx) (e : DirEntry) : (s.setDir p e).counters = s.counters := rfl
@[simp] theorem State.setDir_dsu (p : DirIx) (e : DirEntry) : (s.setDir p e).dsu = s.dsu := rfl
@[simp] theorem State.setDir_rgu (p : DirIx) (e : DirEntry) : (s.setDir p e).rgu = s.rgu := rfl
@[simp] theorem State.setDir_ltu (p : DirIx) (e : DirEntry) : (s.setDir p e).ltu = s.ltu := rfl
@[simp] theorem State.setDir_brx (p : DirIx) (e : DirEntry) : (s.setDir p e).brx = s.brx := rfl
@[simp] theorem State.setDir_dsq (p : DirIx) (e : DirEntry) : (s.setDir p e).dsq = s.dsq := rfl
@[simp] theorem State.setDir_evw (p : DirIx) (e : DirEntry) : (s.setDir p e).evw = s.evw := rfl
@[simp] theorem State.setDir_pct (p : DirIx) (e : DirEntry) : (s.setDir p e).pct = s.pct := rfl
@[simp] theorem State.setDir_bpt (p : DirIx) (e : DirEntry) : (s.setDir p e).bpt = s.bpt := rfl
@[simp] theorem State.setDir_links (p : DirIx) (e : DirEntry) : (s.setDir p e).links = s.links := rfl
@[simp] theorem State.setDir_sram (p : DirIx) (e : DirEntry) : (s.setDir p e).sram = s.sram := rfl
@[simp] theorem State.setDir_pending (p : DirIx) (e : DirEntry) : (s.setDir p e).pending = s.pending := rfl

@[simp] theorem State.setRequest_records (ch : ChanIx) (r : Option ReadRequest) : (s.setRequest ch r).records = s.records := rfl
@[simp] theorem State.setRequest_header (ch : ChanIx) (r : Option ReadRequest) : (s.setRequest ch r).header = s.header := rfl
@[simp] theorem State.setRequest_counters (ch : ChanIx) (r : Option ReadRequest) : (s.setRequest ch r).counters = s.counters := rfl
@[simp] theorem State.setRequest_dsu (ch : ChanIx) (r : Option ReadRequest) : (s.setRequest ch r).dsu = s.dsu := rfl
@[simp] theorem State.setRequest_rgu (ch : ChanIx) (r : Option ReadRequest) : (s.setRequest ch r).rgu = s.rgu := rfl
@[simp] theorem State.setRequest_pex (ch : ChanIx) (r : Option ReadRequest) : (s.setRequest ch r).pex = s.pex := rfl
@[simp] theorem State.setRequest_ltu (ch : ChanIx) (r : Option ReadRequest) : (s.setRequest ch r).ltu = s.ltu := rfl
@[simp] theorem State.setRequest_brx (ch : ChanIx) (r : Option ReadRequest) : (s.setRequest ch r).brx = s.brx := rfl
@[simp] theorem State.setRequest_dsq (ch : ChanIx) (r : Option ReadRequest) : (s.setRequest ch r).dsq = s.dsq := rfl
@[simp] theorem State.setRequest_evw (ch : ChanIx) (r : Option ReadRequest) : (s.setRequest ch r).evw = s.evw := rfl
@[simp] theorem State.setRequest_pct (ch : ChanIx) (r : Option ReadRequest) : (s.setRequest ch r).pct = s.pct := rfl
@[simp] theorem State.setRequest_links (ch : ChanIx) (r : Option ReadRequest) : (s.setRequest ch r).links = s.links := rfl
@[simp] theorem State.setRequest_sram (ch : ChanIx) (r : Option ReadRequest) : (s.setRequest ch r).sram = s.sram := rfl
@[simp] theorem State.setRequest_pending (ch : ChanIx) (r : Option ReadRequest) : (s.setRequest ch r).pending = s.pending := rfl

@[simp] theorem State.appendReply_records (i : RecIx) (k : ReplyKind) : (s.appendReply i k).records = s.records := rfl
@[simp] theorem State.appendReply_header (i : RecIx) (k : ReplyKind) : (s.appendReply i k).header = s.header := rfl
@[simp] theorem State.appendReply_counters (i : RecIx) (k : ReplyKind) : (s.appendReply i k).counters = s.counters := rfl
@[simp] theorem State.appendReply_dsu (i : RecIx) (k : ReplyKind) : (s.appendReply i k).dsu = s.dsu := rfl
@[simp] theorem State.appendReply_rgu (i : RecIx) (k : ReplyKind) : (s.appendReply i k).rgu = s.rgu := rfl
@[simp] theorem State.appendReply_pex (i : RecIx) (k : ReplyKind) : (s.appendReply i k).pex = s.pex := rfl
@[simp] theorem State.appendReply_ltu (i : RecIx) (k : ReplyKind) : (s.appendReply i k).ltu = s.ltu := rfl
@[simp] theorem State.appendReply_brx (i : RecIx) (k : ReplyKind) : (s.appendReply i k).brx = s.brx := rfl
@[simp] theorem State.appendReply_evw (i : RecIx) (k : ReplyKind) : (s.appendReply i k).evw = s.evw := rfl
@[simp] theorem State.appendReply_pct (i : RecIx) (k : ReplyKind) : (s.appendReply i k).pct = s.pct := rfl
@[simp] theorem State.appendReply_bpt (i : RecIx) (k : ReplyKind) : (s.appendReply i k).bpt = s.bpt := rfl
@[simp] theorem State.appendReply_links (i : RecIx) (k : ReplyKind) : (s.appendReply i k).links = s.links := rfl
@[simp] theorem State.appendReply_sram (i : RecIx) (k : ReplyKind) : (s.appendReply i k).sram = s.sram := rfl
@[simp] theorem State.appendReply_pending (i : RecIx) (k : ReplyKind) : (s.appendReply i k).pending = s.pending := rfl

@[simp] theorem State.reportPush_records (ch : ChanIx) (o : PushOutcome) : (s.reportPush ch o).records = s.records := rfl
@[simp] theorem State.reportPush_header (ch : ChanIx) (o : PushOutcome) : (s.reportPush ch o).header = s.header := rfl
@[simp] theorem State.reportPush_counters (ch : ChanIx) (o : PushOutcome) : (s.reportPush ch o).counters = s.counters := rfl
@[simp] theorem State.reportPush_dsu (ch : ChanIx) (o : PushOutcome) : (s.reportPush ch o).dsu = s.dsu := rfl
@[simp] theorem State.reportPush_rgu (ch : ChanIx) (o : PushOutcome) : (s.reportPush ch o).rgu = s.rgu := rfl
@[simp] theorem State.reportPush_ltu (ch : ChanIx) (o : PushOutcome) : (s.reportPush ch o).ltu = s.ltu := rfl
@[simp] theorem State.reportPush_brx (ch : ChanIx) (o : PushOutcome) : (s.reportPush ch o).brx = s.brx := rfl
@[simp] theorem State.reportPush_dsq (ch : ChanIx) (o : PushOutcome) : (s.reportPush ch o).dsq = s.dsq := rfl
@[simp] theorem State.reportPush_evw (ch : ChanIx) (o : PushOutcome) : (s.reportPush ch o).evw = s.evw := rfl
@[simp] theorem State.reportPush_pct (ch : ChanIx) (o : PushOutcome) : (s.reportPush ch o).pct = s.pct := rfl
@[simp] theorem State.reportPush_bpt (ch : ChanIx) (o : PushOutcome) : (s.reportPush ch o).bpt = s.bpt := rfl
@[simp] theorem State.reportPush_links (ch : ChanIx) (o : PushOutcome) : (s.reportPush ch o).links = s.links := rfl
@[simp] theorem State.reportPush_sram (ch : ChanIx) (o : PushOutcome) : (s.reportPush ch o).sram = s.sram := rfl
@[simp] theorem State.reportPush_pending (ch : ChanIx) (o : PushOutcome) : (s.reportPush ch o).pending = s.pending := rfl

@[simp] theorem State.setSettle_records (i : RecIx) (x : Option Settle) : (s.setSettle i x).records = s.records := rfl
@[simp] theorem State.setSettle_header (i : RecIx) (x : Option Settle) : (s.setSettle i x).header = s.header := rfl
@[simp] theorem State.setSettle_counters (i : RecIx) (x : Option Settle) : (s.setSettle i x).counters = s.counters := rfl
@[simp] theorem State.setSettle_dsu (i : RecIx) (x : Option Settle) : (s.setSettle i x).dsu = s.dsu := rfl
@[simp] theorem State.setSettle_pex (i : RecIx) (x : Option Settle) : (s.setSettle i x).pex = s.pex := rfl
@[simp] theorem State.setSettle_ltu (i : RecIx) (x : Option Settle) : (s.setSettle i x).ltu = s.ltu := rfl
@[simp] theorem State.setSettle_brx (i : RecIx) (x : Option Settle) : (s.setSettle i x).brx = s.brx := rfl
@[simp] theorem State.setSettle_dsq (i : RecIx) (x : Option Settle) : (s.setSettle i x).dsq = s.dsq := rfl
@[simp] theorem State.setSettle_evw (i : RecIx) (x : Option Settle) : (s.setSettle i x).evw = s.evw := rfl
@[simp] theorem State.setSettle_pct (i : RecIx) (x : Option Settle) : (s.setSettle i x).pct = s.pct := rfl
@[simp] theorem State.setSettle_bpt (i : RecIx) (x : Option Settle) : (s.setSettle i x).bpt = s.bpt := rfl
@[simp] theorem State.setSettle_links (i : RecIx) (x : Option Settle) : (s.setSettle i x).links = s.links := rfl
@[simp] theorem State.setSettle_sram (i : RecIx) (x : Option Settle) : (s.setSettle i x).sram = s.sram := rfl
@[simp] theorem State.setSettle_pending (i : RecIx) (x : Option Settle) : (s.setSettle i x).pending = s.pending := rfl

@[simp] theorem State.joinRanging_records (i : RecIx) : (s.joinRanging i).records = s.records := rfl
@[simp] theorem State.joinRanging_header (i : RecIx) : (s.joinRanging i).header = s.header := rfl
@[simp] theorem State.joinRanging_counters (i : RecIx) : (s.joinRanging i).counters = s.counters := rfl
@[simp] theorem State.joinRanging_dsu (i : RecIx) : (s.joinRanging i).dsu = s.dsu := rfl
@[simp] theorem State.joinRanging_pex (i : RecIx) : (s.joinRanging i).pex = s.pex := rfl
@[simp] theorem State.joinRanging_ltu (i : RecIx) : (s.joinRanging i).ltu = s.ltu := rfl
@[simp] theorem State.joinRanging_brx (i : RecIx) : (s.joinRanging i).brx = s.brx := rfl
@[simp] theorem State.joinRanging_dsq (i : RecIx) : (s.joinRanging i).dsq = s.dsq := rfl
@[simp] theorem State.joinRanging_evw (i : RecIx) : (s.joinRanging i).evw = s.evw := rfl
@[simp] theorem State.joinRanging_pct (i : RecIx) : (s.joinRanging i).pct = s.pct := rfl
@[simp] theorem State.joinRanging_bpt (i : RecIx) : (s.joinRanging i).bpt = s.bpt := rfl
@[simp] theorem State.joinRanging_links (i : RecIx) : (s.joinRanging i).links = s.links := rfl
@[simp] theorem State.joinRanging_sram (i : RecIx) : (s.joinRanging i).sram = s.sram := rfl
@[simp] theorem State.joinRanging_pending (i : RecIx) : (s.joinRanging i).pending = s.pending := rfl

@[simp] theorem State.leaveRanging_records (i : RecIx) : (s.leaveRanging i).records = s.records := rfl
@[simp] theorem State.leaveRanging_header (i : RecIx) : (s.leaveRanging i).header = s.header := rfl
@[simp] theorem State.leaveRanging_counters (i : RecIx) : (s.leaveRanging i).counters = s.counters := rfl
@[simp] theorem State.leaveRanging_dsu (i : RecIx) : (s.leaveRanging i).dsu = s.dsu := rfl
@[simp] theorem State.leaveRanging_pex (i : RecIx) : (s.leaveRanging i).pex = s.pex := rfl
@[simp] theorem State.leaveRanging_ltu (i : RecIx) : (s.leaveRanging i).ltu = s.ltu := rfl
@[simp] theorem State.leaveRanging_brx (i : RecIx) : (s.leaveRanging i).brx = s.brx := rfl
@[simp] theorem State.leaveRanging_dsq (i : RecIx) : (s.leaveRanging i).dsq = s.dsq := rfl
@[simp] theorem State.leaveRanging_evw (i : RecIx) : (s.leaveRanging i).evw = s.evw := rfl
@[simp] theorem State.leaveRanging_pct (i : RecIx) : (s.leaveRanging i).pct = s.pct := rfl
@[simp] theorem State.leaveRanging_bpt (i : RecIx) : (s.leaveRanging i).bpt = s.bpt := rfl
@[simp] theorem State.leaveRanging_links (i : RecIx) : (s.leaveRanging i).links = s.links := rfl
@[simp] theorem State.leaveRanging_sram (i : RecIx) : (s.leaveRanging i).sram = s.sram := rfl
@[simp] theorem State.leaveRanging_pending (i : RecIx) : (s.leaveRanging i).pending = s.pending := rfl

@[simp] theorem State.appendControl_records (i : RecIx) (k : ControlKind) : (s.appendControl i k).records = s.records := rfl
@[simp] theorem State.appendControl_header (i : RecIx) (k : ControlKind) : (s.appendControl i k).header = s.header := rfl
@[simp] theorem State.appendControl_counters (i : RecIx) (k : ControlKind) : (s.appendControl i k).counters = s.counters := rfl
@[simp] theorem State.appendControl_dsu (i : RecIx) (k : ControlKind) : (s.appendControl i k).dsu = s.dsu := rfl
@[simp] theorem State.appendControl_rgu (i : RecIx) (k : ControlKind) : (s.appendControl i k).rgu = s.rgu := rfl
@[simp] theorem State.appendControl_pex (i : RecIx) (k : ControlKind) : (s.appendControl i k).pex = s.pex := rfl
@[simp] theorem State.appendControl_ltu (i : RecIx) (k : ControlKind) : (s.appendControl i k).ltu = s.ltu := rfl
@[simp] theorem State.appendControl_brx (i : RecIx) (k : ControlKind) : (s.appendControl i k).brx = s.brx := rfl
@[simp] theorem State.appendControl_evw (i : RecIx) (k : ControlKind) : (s.appendControl i k).evw = s.evw := rfl
@[simp] theorem State.appendControl_pct (i : RecIx) (k : ControlKind) : (s.appendControl i k).pct = s.pct := rfl
@[simp] theorem State.appendControl_bpt (i : RecIx) (k : ControlKind) : (s.appendControl i k).bpt = s.bpt := rfl
@[simp] theorem State.appendControl_links (i : RecIx) (k : ControlKind) : (s.appendControl i k).links = s.links := rfl
@[simp] theorem State.appendControl_sram (i : RecIx) (k : ControlKind) : (s.appendControl i k).sram = s.sram := rfl
@[simp] theorem State.appendControl_pending (i : RecIx) (k : ControlKind) : (s.appendControl i k).pending = s.pending := rfl

@[simp] theorem State.appendUrgent_records (i : RecIx) : (s.appendUrgent i).records = s.records := rfl
@[simp] theorem State.appendUrgent_header (i : RecIx) : (s.appendUrgent i).header = s.header := rfl
@[simp] theorem State.appendUrgent_counters (i : RecIx) : (s.appendUrgent i).counters = s.counters := rfl
@[simp] theorem State.appendUrgent_dsu (i : RecIx) : (s.appendUrgent i).dsu = s.dsu := rfl
@[simp] theorem State.appendUrgent_rgu (i : RecIx) : (s.appendUrgent i).rgu = s.rgu := rfl
@[simp] theorem State.appendUrgent_pex (i : RecIx) : (s.appendUrgent i).pex = s.pex := rfl
@[simp] theorem State.appendUrgent_ltu (i : RecIx) : (s.appendUrgent i).ltu = s.ltu := rfl
@[simp] theorem State.appendUrgent_brx (i : RecIx) : (s.appendUrgent i).brx = s.brx := rfl
@[simp] theorem State.appendUrgent_evw (i : RecIx) : (s.appendUrgent i).evw = s.evw := rfl
@[simp] theorem State.appendUrgent_pct (i : RecIx) : (s.appendUrgent i).pct = s.pct := rfl
@[simp] theorem State.appendUrgent_bpt (i : RecIx) : (s.appendUrgent i).bpt = s.bpt := rfl
@[simp] theorem State.appendUrgent_links (i : RecIx) : (s.appendUrgent i).links = s.links := rfl
@[simp] theorem State.appendUrgent_sram (i : RecIx) : (s.appendUrgent i).sram = s.sram := rfl
@[simp] theorem State.appendUrgent_pending (i : RecIx) : (s.appendUrgent i).pending = s.pending := rfl

@[simp] theorem State.unlist_records (serial : Serial) : (s.unlist serial).records = s.records := rfl
@[simp] theorem State.unlist_header (serial : Serial) : (s.unlist serial).header = s.header := rfl
@[simp] theorem State.unlist_counters (serial : Serial) : (s.unlist serial).counters = s.counters := rfl
@[simp] theorem State.unlist_rgu (serial : Serial) : (s.unlist serial).rgu = s.rgu := rfl
@[simp] theorem State.unlist_pex (serial : Serial) : (s.unlist serial).pex = s.pex := rfl
@[simp] theorem State.unlist_ltu (serial : Serial) : (s.unlist serial).ltu = s.ltu := rfl
@[simp] theorem State.unlist_brx (serial : Serial) : (s.unlist serial).brx = s.brx := rfl
@[simp] theorem State.unlist_dsq (serial : Serial) : (s.unlist serial).dsq = s.dsq := rfl
@[simp] theorem State.unlist_evw (serial : Serial) : (s.unlist serial).evw = s.evw := rfl
@[simp] theorem State.unlist_pct (serial : Serial) : (s.unlist serial).pct = s.pct := rfl
@[simp] theorem State.unlist_bpt (serial : Serial) : (s.unlist serial).bpt = s.bpt := rfl
@[simp] theorem State.unlist_links (serial : Serial) : (s.unlist serial).links = s.links := rfl
@[simp] theorem State.unlist_sram (serial : Serial) : (s.unlist serial).sram = s.sram := rfl
@[simp] theorem State.unlist_pending (serial : Serial) : (s.unlist serial).pending = s.pending := rfl

@[simp] theorem State.dropMessages_records (i : RecIx) : (s.dropMessages i).records = s.records := rfl
@[simp] theorem State.dropMessages_header (i : RecIx) : (s.dropMessages i).header = s.header := rfl
@[simp] theorem State.dropMessages_counters (i : RecIx) : (s.dropMessages i).counters = s.counters := rfl
@[simp] theorem State.dropMessages_dsu (i : RecIx) : (s.dropMessages i).dsu = s.dsu := rfl
@[simp] theorem State.dropMessages_rgu (i : RecIx) : (s.dropMessages i).rgu = s.rgu := rfl
@[simp] theorem State.dropMessages_pex (i : RecIx) : (s.dropMessages i).pex = s.pex := rfl
@[simp] theorem State.dropMessages_ltu (i : RecIx) : (s.dropMessages i).ltu = s.ltu := rfl
@[simp] theorem State.dropMessages_brx (i : RecIx) : (s.dropMessages i).brx = s.brx := rfl
@[simp] theorem State.dropMessages_evw (i : RecIx) : (s.dropMessages i).evw = s.evw := rfl
@[simp] theorem State.dropMessages_pct (i : RecIx) : (s.dropMessages i).pct = s.pct := rfl
@[simp] theorem State.dropMessages_bpt (i : RecIx) : (s.dropMessages i).bpt = s.bpt := rfl
@[simp] theorem State.dropMessages_links (i : RecIx) : (s.dropMessages i).links = s.links := rfl
@[simp] theorem State.dropMessages_sram (i : RecIx) : (s.dropMessages i).sram = s.sram := rfl
@[simp] theorem State.dropMessages_pending (i : RecIx) : (s.dropMessages i).pending = s.pending := rfl

@[simp] theorem State.redirect_header (i : RecIx) (d : RelDest) : (s.redirect i d).header = s.header := rfl
@[simp] theorem State.redirect_counters (i : RecIx) (d : RelDest) : (s.redirect i d).counters = s.counters := rfl
@[simp] theorem State.redirect_dsu (i : RecIx) (d : RelDest) : (s.redirect i d).dsu = s.dsu := rfl
@[simp] theorem State.redirect_rgu (i : RecIx) (d : RelDest) : (s.redirect i d).rgu = s.rgu := rfl
@[simp] theorem State.redirect_pex (i : RecIx) (d : RelDest) : (s.redirect i d).pex = s.pex := rfl
@[simp] theorem State.redirect_ltu (i : RecIx) (d : RelDest) : (s.redirect i d).ltu = s.ltu := rfl
@[simp] theorem State.redirect_brx (i : RecIx) (d : RelDest) : (s.redirect i d).brx = s.brx := rfl
@[simp] theorem State.redirect_dsq (i : RecIx) (d : RelDest) : (s.redirect i d).dsq = s.dsq := rfl
@[simp] theorem State.redirect_evw (i : RecIx) (d : RelDest) : (s.redirect i d).evw = s.evw := rfl
@[simp] theorem State.redirect_pct (i : RecIx) (d : RelDest) : (s.redirect i d).pct = s.pct := rfl
@[simp] theorem State.redirect_bpt (i : RecIx) (d : RelDest) : (s.redirect i d).bpt = s.bpt := rfl
@[simp] theorem State.redirect_links (i : RecIx) (d : RelDest) : (s.redirect i d).links = s.links := rfl
@[simp] theorem State.redirect_sram (i : RecIx) (d : RelDest) : (s.redirect i d).sram = s.sram := rfl
@[simp] theorem State.redirect_pending (i : RecIx) (d : RelDest) : (s.redirect i d).pending = s.pending := rfl

@[simp] theorem State.presentDemand_records : (s.presentDemand).records = s.records := rfl
@[simp] theorem State.presentDemand_header : (s.presentDemand).header = s.header := rfl
@[simp] theorem State.presentDemand_counters : (s.presentDemand).counters = s.counters := rfl
@[simp] theorem State.presentDemand_rgu : (s.presentDemand).rgu = s.rgu := rfl
@[simp] theorem State.presentDemand_pex : (s.presentDemand).pex = s.pex := rfl
@[simp] theorem State.presentDemand_ltu : (s.presentDemand).ltu = s.ltu := rfl
@[simp] theorem State.presentDemand_brx : (s.presentDemand).brx = s.brx := rfl
@[simp] theorem State.presentDemand_dsq : (s.presentDemand).dsq = s.dsq := rfl
@[simp] theorem State.presentDemand_evw : (s.presentDemand).evw = s.evw := rfl
@[simp] theorem State.presentDemand_pct : (s.presentDemand).pct = s.pct := rfl
@[simp] theorem State.presentDemand_bpt : (s.presentDemand).bpt = s.bpt := rfl
@[simp] theorem State.presentDemand_links : (s.presentDemand).links = s.links := rfl
@[simp] theorem State.presentDemand_sram : (s.presentDemand).sram = s.sram := rfl
@[simp] theorem State.presentDemand_pending : (s.presentDemand).pending = s.pending := rfl

@[simp] theorem State.takeCapture_records (c : Capture) : (s.takeCapture c).records = s.records := rfl
@[simp] theorem State.takeCapture_header (c : Capture) : (s.takeCapture c).header = s.header := rfl
@[simp] theorem State.takeCapture_counters (c : Capture) : (s.takeCapture c).counters = s.counters := rfl
@[simp] theorem State.takeCapture_dsu (c : Capture) : (s.takeCapture c).dsu = s.dsu := rfl
@[simp] theorem State.takeCapture_rgu (c : Capture) : (s.takeCapture c).rgu = s.rgu := rfl
@[simp] theorem State.takeCapture_pex (c : Capture) : (s.takeCapture c).pex = s.pex := rfl
@[simp] theorem State.takeCapture_ltu (c : Capture) : (s.takeCapture c).ltu = s.ltu := rfl
@[simp] theorem State.takeCapture_dsq (c : Capture) : (s.takeCapture c).dsq = s.dsq := rfl
@[simp] theorem State.takeCapture_evw (c : Capture) : (s.takeCapture c).evw = s.evw := rfl
@[simp] theorem State.takeCapture_pct (c : Capture) : (s.takeCapture c).pct = s.pct := rfl
@[simp] theorem State.takeCapture_bpt (c : Capture) : (s.takeCapture c).bpt = s.bpt := rfl
@[simp] theorem State.takeCapture_links (c : Capture) : (s.takeCapture c).links = s.links := rfl
@[simp] theorem State.takeCapture_sram (c : Capture) : (s.takeCapture c).sram = s.sram := rfl
@[simp] theorem State.takeCapture_pending (c : Capture) : (s.takeCapture c).pending = s.pending := rfl

@[simp] theorem State.setRound_records (r : Round) : (s.setRound r).records = s.records := rfl
@[simp] theorem State.setRound_header (r : Round) : (s.setRound r).header = s.header := rfl
@[simp] theorem State.setRound_counters (r : Round) : (s.setRound r).counters = s.counters := rfl
@[simp] theorem State.setRound_rgu (r : Round) : (s.setRound r).rgu = s.rgu := rfl
@[simp] theorem State.setRound_pex (r : Round) : (s.setRound r).pex = s.pex := rfl
@[simp] theorem State.setRound_ltu (r : Round) : (s.setRound r).ltu = s.ltu := rfl
@[simp] theorem State.setRound_brx (r : Round) : (s.setRound r).brx = s.brx := rfl
@[simp] theorem State.setRound_dsq (r : Round) : (s.setRound r).dsq = s.dsq := rfl
@[simp] theorem State.setRound_evw (r : Round) : (s.setRound r).evw = s.evw := rfl
@[simp] theorem State.setRound_pct (r : Round) : (s.setRound r).pct = s.pct := rfl
@[simp] theorem State.setRound_bpt (r : Round) : (s.setRound r).bpt = s.bpt := rfl
@[simp] theorem State.setRound_links (r : Round) : (s.setRound r).links = s.links := rfl
@[simp] theorem State.setRound_sram (r : Round) : (s.setRound r).sram = s.sram := rfl
@[simp] theorem State.setRound_pending (r : Round) : (s.setRound r).pending = s.pending := rfl

@[simp] theorem State.setStrangers_records (l : List Stranger) : (s.setStrangers l).records = s.records := rfl
@[simp] theorem State.setStrangers_header (l : List Stranger) : (s.setStrangers l).header = s.header := rfl
@[simp] theorem State.setStrangers_counters (l : List Stranger) : (s.setStrangers l).counters = s.counters := rfl
@[simp] theorem State.setStrangers_rgu (l : List Stranger) : (s.setStrangers l).rgu = s.rgu := rfl
@[simp] theorem State.setStrangers_pex (l : List Stranger) : (s.setStrangers l).pex = s.pex := rfl
@[simp] theorem State.setStrangers_ltu (l : List Stranger) : (s.setStrangers l).ltu = s.ltu := rfl
@[simp] theorem State.setStrangers_brx (l : List Stranger) : (s.setStrangers l).brx = s.brx := rfl
@[simp] theorem State.setStrangers_dsq (l : List Stranger) : (s.setStrangers l).dsq = s.dsq := rfl
@[simp] theorem State.setStrangers_evw (l : List Stranger) : (s.setStrangers l).evw = s.evw := rfl
@[simp] theorem State.setStrangers_pct (l : List Stranger) : (s.setStrangers l).pct = s.pct := rfl
@[simp] theorem State.setStrangers_bpt (l : List Stranger) : (s.setStrangers l).bpt = s.bpt := rfl
@[simp] theorem State.setStrangers_links (l : List Stranger) : (s.setStrangers l).links = s.links := rfl
@[simp] theorem State.setStrangers_sram (l : List Stranger) : (s.setStrangers l).sram = s.sram := rfl
@[simp] theorem State.setStrangers_pending (l : List Stranger) : (s.setStrangers l).pending = s.pending := rfl

@[simp] theorem State.setAttempt_records (a : Option Attempt) : (s.setAttempt a).records = s.records := rfl
@[simp] theorem State.setAttempt_header (a : Option Attempt) : (s.setAttempt a).header = s.header := rfl
@[simp] theorem State.setAttempt_counters (a : Option Attempt) : (s.setAttempt a).counters = s.counters := rfl
@[simp] theorem State.setAttempt_dsu (a : Option Attempt) : (s.setAttempt a).dsu = s.dsu := rfl
@[simp] theorem State.setAttempt_pex (a : Option Attempt) : (s.setAttempt a).pex = s.pex := rfl
@[simp] theorem State.setAttempt_ltu (a : Option Attempt) : (s.setAttempt a).ltu = s.ltu := rfl
@[simp] theorem State.setAttempt_brx (a : Option Attempt) : (s.setAttempt a).brx = s.brx := rfl
@[simp] theorem State.setAttempt_dsq (a : Option Attempt) : (s.setAttempt a).dsq = s.dsq := rfl
@[simp] theorem State.setAttempt_evw (a : Option Attempt) : (s.setAttempt a).evw = s.evw := rfl
@[simp] theorem State.setAttempt_pct (a : Option Attempt) : (s.setAttempt a).pct = s.pct := rfl
@[simp] theorem State.setAttempt_bpt (a : Option Attempt) : (s.setAttempt a).bpt = s.bpt := rfl
@[simp] theorem State.setAttempt_links (a : Option Attempt) : (s.setAttempt a).links = s.links := rfl
@[simp] theorem State.setAttempt_sram (a : Option Attempt) : (s.setAttempt a).sram = s.sram := rfl
@[simp] theorem State.setAttempt_pending (a : Option Attempt) : (s.setAttempt a).pending = s.pending := rfl

@[simp] theorem State.setBrx_records (b : Brx) : (s.setBrx b).records = s.records := rfl
@[simp] theorem State.setBrx_header (b : Brx) : (s.setBrx b).header = s.header := rfl
@[simp] theorem State.setBrx_counters (b : Brx) : (s.setBrx b).counters = s.counters := rfl
@[simp] theorem State.setBrx_dsu (b : Brx) : (s.setBrx b).dsu = s.dsu := rfl
@[simp] theorem State.setBrx_rgu (b : Brx) : (s.setBrx b).rgu = s.rgu := rfl
@[simp] theorem State.setBrx_pex (b : Brx) : (s.setBrx b).pex = s.pex := rfl
@[simp] theorem State.setBrx_ltu (b : Brx) : (s.setBrx b).ltu = s.ltu := rfl
@[simp] theorem State.setBrx_dsq (b : Brx) : (s.setBrx b).dsq = s.dsq := rfl
@[simp] theorem State.setBrx_evw (b : Brx) : (s.setBrx b).evw = s.evw := rfl
@[simp] theorem State.setBrx_pct (b : Brx) : (s.setBrx b).pct = s.pct := rfl
@[simp] theorem State.setBrx_bpt (b : Brx) : (s.setBrx b).bpt = s.bpt := rfl
@[simp] theorem State.setBrx_links (b : Brx) : (s.setBrx b).links = s.links := rfl
@[simp] theorem State.setBrx_sram (b : Brx) : (s.setBrx b).sram = s.sram := rfl
@[simp] theorem State.setBrx_pending (b : Brx) : (s.setBrx b).pending = s.pending := rfl

@[simp] theorem State.rehunt_records : (s.rehunt).records = s.records := rfl
@[simp] theorem State.rehunt_header : (s.rehunt).header = s.header := rfl
@[simp] theorem State.rehunt_counters : (s.rehunt).counters = s.counters := rfl
@[simp] theorem State.rehunt_dsu : (s.rehunt).dsu = s.dsu := rfl
@[simp] theorem State.rehunt_rgu : (s.rehunt).rgu = s.rgu := rfl
@[simp] theorem State.rehunt_pex : (s.rehunt).pex = s.pex := rfl
@[simp] theorem State.rehunt_ltu : (s.rehunt).ltu = s.ltu := rfl
@[simp] theorem State.rehunt_dsq : (s.rehunt).dsq = s.dsq := rfl
@[simp] theorem State.rehunt_evw : (s.rehunt).evw = s.evw := rfl
@[simp] theorem State.rehunt_pct : (s.rehunt).pct = s.pct := rfl
@[simp] theorem State.rehunt_bpt : (s.rehunt).bpt = s.bpt := rfl
@[simp] theorem State.rehunt_links : (s.rehunt).links = s.links := rfl
@[simp] theorem State.rehunt_sram : (s.rehunt).sram = s.sram := rfl
@[simp] theorem State.rehunt_pending : (s.rehunt).pending = s.pending := rfl

@[simp] theorem State.nextLineBit_records : (s.nextLineBit).records = s.records := rfl
@[simp] theorem State.nextLineBit_header : (s.nextLineBit).header = s.header := rfl
@[simp] theorem State.nextLineBit_counters : (s.nextLineBit).counters = s.counters := rfl
@[simp] theorem State.nextLineBit_dsu : (s.nextLineBit).dsu = s.dsu := rfl
@[simp] theorem State.nextLineBit_rgu : (s.nextLineBit).rgu = s.rgu := rfl
@[simp] theorem State.nextLineBit_pex : (s.nextLineBit).pex = s.pex := rfl
@[simp] theorem State.nextLineBit_brx : (s.nextLineBit).brx = s.brx := rfl
@[simp] theorem State.nextLineBit_dsq : (s.nextLineBit).dsq = s.dsq := rfl
@[simp] theorem State.nextLineBit_evw : (s.nextLineBit).evw = s.evw := rfl
@[simp] theorem State.nextLineBit_pct : (s.nextLineBit).pct = s.pct := rfl
@[simp] theorem State.nextLineBit_bpt : (s.nextLineBit).bpt = s.bpt := rfl
@[simp] theorem State.nextLineBit_links : (s.nextLineBit).links = s.links := rfl
@[simp] theorem State.nextLineBit_sram : (s.nextLineBit).sram = s.sram := rfl
@[simp] theorem State.nextLineBit_pending : (s.nextLineBit).pending = s.pending := rfl

@[simp] theorem State.startCycle_records (c : Cycle) : (s.startCycle c).records = s.records := rfl
@[simp] theorem State.startCycle_header (c : Cycle) : (s.startCycle c).header = s.header := rfl
@[simp] theorem State.startCycle_counters (c : Cycle) : (s.startCycle c).counters = s.counters := rfl
@[simp] theorem State.startCycle_dsu (c : Cycle) : (s.startCycle c).dsu = s.dsu := rfl
@[simp] theorem State.startCycle_rgu (c : Cycle) : (s.startCycle c).rgu = s.rgu := rfl
@[simp] theorem State.startCycle_pex (c : Cycle) : (s.startCycle c).pex = s.pex := rfl
@[simp] theorem State.startCycle_brx (c : Cycle) : (s.startCycle c).brx = s.brx := rfl
@[simp] theorem State.startCycle_dsq (c : Cycle) : (s.startCycle c).dsq = s.dsq := rfl
@[simp] theorem State.startCycle_evw (c : Cycle) : (s.startCycle c).evw = s.evw := rfl
@[simp] theorem State.startCycle_pct (c : Cycle) : (s.startCycle c).pct = s.pct := rfl
@[simp] theorem State.startCycle_bpt (c : Cycle) : (s.startCycle c).bpt = s.bpt := rfl
@[simp] theorem State.startCycle_links (c : Cycle) : (s.startCycle c).links = s.links := rfl
@[simp] theorem State.startCycle_sram (c : Cycle) : (s.startCycle c).sram = s.sram := rfl
@[simp] theorem State.startCycle_pending (c : Cycle) : (s.startCycle c).pending = s.pending := rfl

@[simp] theorem State.recordFetch_records (c : Cycle) : (s.recordFetch c).records = s.records := rfl
@[simp] theorem State.recordFetch_header (c : Cycle) : (s.recordFetch c).header = s.header := rfl
@[simp] theorem State.recordFetch_counters (c : Cycle) : (s.recordFetch c).counters = s.counters := rfl
@[simp] theorem State.recordFetch_dsu (c : Cycle) : (s.recordFetch c).dsu = s.dsu := rfl
@[simp] theorem State.recordFetch_rgu (c : Cycle) : (s.recordFetch c).rgu = s.rgu := rfl
@[simp] theorem State.recordFetch_pex (c : Cycle) : (s.recordFetch c).pex = s.pex := rfl
@[simp] theorem State.recordFetch_brx (c : Cycle) : (s.recordFetch c).brx = s.brx := rfl
@[simp] theorem State.recordFetch_dsq (c : Cycle) : (s.recordFetch c).dsq = s.dsq := rfl
@[simp] theorem State.recordFetch_evw (c : Cycle) : (s.recordFetch c).evw = s.evw := rfl
@[simp] theorem State.recordFetch_pct (c : Cycle) : (s.recordFetch c).pct = s.pct := rfl
@[simp] theorem State.recordFetch_bpt (c : Cycle) : (s.recordFetch c).bpt = s.bpt := rfl
@[simp] theorem State.recordFetch_links (c : Cycle) : (s.recordFetch c).links = s.links := rfl
@[simp] theorem State.recordFetch_sram (c : Cycle) : (s.recordFetch c).sram = s.sram := rfl
@[simp] theorem State.recordFetch_pending (c : Cycle) : (s.recordFetch c).pending = s.pending := rfl

@[simp] theorem State.setRefusal_records (r : RefusalCode) : (s.setRefusal r).records = s.records := rfl
@[simp] theorem State.setRefusal_header (r : RefusalCode) : (s.setRefusal r).header = s.header := rfl
@[simp] theorem State.setRefusal_counters (r : RefusalCode) : (s.setRefusal r).counters = s.counters := rfl
@[simp] theorem State.setRefusal_dsu (r : RefusalCode) : (s.setRefusal r).dsu = s.dsu := rfl
@[simp] theorem State.setRefusal_rgu (r : RefusalCode) : (s.setRefusal r).rgu = s.rgu := rfl
@[simp] theorem State.setRefusal_pex (r : RefusalCode) : (s.setRefusal r).pex = s.pex := rfl
@[simp] theorem State.setRefusal_ltu (r : RefusalCode) : (s.setRefusal r).ltu = s.ltu := rfl
@[simp] theorem State.setRefusal_brx (r : RefusalCode) : (s.setRefusal r).brx = s.brx := rfl
@[simp] theorem State.setRefusal_dsq (r : RefusalCode) : (s.setRefusal r).dsq = s.dsq := rfl
@[simp] theorem State.setRefusal_evw (r : RefusalCode) : (s.setRefusal r).evw = s.evw := rfl
@[simp] theorem State.setRefusal_bpt (r : RefusalCode) : (s.setRefusal r).bpt = s.bpt := rfl
@[simp] theorem State.setRefusal_links (r : RefusalCode) : (s.setRefusal r).links = s.links := rfl
@[simp] theorem State.setRefusal_sram (r : RefusalCode) : (s.setRefusal r).sram = s.sram := rfl
@[simp] theorem State.setRefusal_pending (r : RefusalCode) : (s.setRefusal r).pending = s.pending := rfl

@[simp] theorem State.zeroCounters_records : (s.zeroCounters).records = s.records := rfl
@[simp] theorem State.zeroCounters_header : (s.zeroCounters).header = s.header := rfl
@[simp] theorem State.zeroCounters_dsu : (s.zeroCounters).dsu = s.dsu := rfl
@[simp] theorem State.zeroCounters_rgu : (s.zeroCounters).rgu = s.rgu := rfl
@[simp] theorem State.zeroCounters_pex : (s.zeroCounters).pex = s.pex := rfl
@[simp] theorem State.zeroCounters_ltu : (s.zeroCounters).ltu = s.ltu := rfl
@[simp] theorem State.zeroCounters_brx : (s.zeroCounters).brx = s.brx := rfl
@[simp] theorem State.zeroCounters_dsq : (s.zeroCounters).dsq = s.dsq := rfl
@[simp] theorem State.zeroCounters_evw : (s.zeroCounters).evw = s.evw := rfl
@[simp] theorem State.zeroCounters_pct : (s.zeroCounters).pct = s.pct := rfl
@[simp] theorem State.zeroCounters_bpt : (s.zeroCounters).bpt = s.bpt := rfl
@[simp] theorem State.zeroCounters_links : (s.zeroCounters).links = s.links := rfl
@[simp] theorem State.zeroCounters_sram : (s.zeroCounters).sram = s.sram := rfl
@[simp] theorem State.zeroCounters_pending : (s.zeroCounters).pending = s.pending := rfl

@[simp] theorem State.lowerRangeUsed_header : (s.lowerRangeUsed).header = s.header := rfl
@[simp] theorem State.lowerRangeUsed_counters : (s.lowerRangeUsed).counters = s.counters := rfl
@[simp] theorem State.lowerRangeUsed_dsu : (s.lowerRangeUsed).dsu = s.dsu := rfl
@[simp] theorem State.lowerRangeUsed_rgu : (s.lowerRangeUsed).rgu = s.rgu := rfl
@[simp] theorem State.lowerRangeUsed_pex : (s.lowerRangeUsed).pex = s.pex := rfl
@[simp] theorem State.lowerRangeUsed_ltu : (s.lowerRangeUsed).ltu = s.ltu := rfl
@[simp] theorem State.lowerRangeUsed_brx : (s.lowerRangeUsed).brx = s.brx := rfl
@[simp] theorem State.lowerRangeUsed_dsq : (s.lowerRangeUsed).dsq = s.dsq := rfl
@[simp] theorem State.lowerRangeUsed_evw : (s.lowerRangeUsed).evw = s.evw := rfl
@[simp] theorem State.lowerRangeUsed_pct : (s.lowerRangeUsed).pct = s.pct := rfl
@[simp] theorem State.lowerRangeUsed_bpt : (s.lowerRangeUsed).bpt = s.bpt := rfl
@[simp] theorem State.lowerRangeUsed_links : (s.lowerRangeUsed).links = s.links := rfl
@[simp] theorem State.lowerRangeUsed_sram : (s.lowerRangeUsed).sram = s.sram := rfl
@[simp] theorem State.lowerRangeUsed_pending : (s.lowerRangeUsed).pending = s.pending := rfl

@[simp] theorem State.placeLoad_records (n : Nat) : (s.placeLoad n).records = s.records := rfl
@[simp] theorem State.placeLoad_header (n : Nat) : (s.placeLoad n).header = s.header := rfl
@[simp] theorem State.placeLoad_counters (n : Nat) : (s.placeLoad n).counters = s.counters := rfl
@[simp] theorem State.placeLoad_dsu (n : Nat) : (s.placeLoad n).dsu = s.dsu := rfl
@[simp] theorem State.placeLoad_rgu (n : Nat) : (s.placeLoad n).rgu = s.rgu := rfl
@[simp] theorem State.placeLoad_pex (n : Nat) : (s.placeLoad n).pex = s.pex := rfl
@[simp] theorem State.placeLoad_ltu (n : Nat) : (s.placeLoad n).ltu = s.ltu := rfl
@[simp] theorem State.placeLoad_brx (n : Nat) : (s.placeLoad n).brx = s.brx := rfl
@[simp] theorem State.placeLoad_dsq (n : Nat) : (s.placeLoad n).dsq = s.dsq := rfl
@[simp] theorem State.placeLoad_evw (n : Nat) : (s.placeLoad n).evw = s.evw := rfl
@[simp] theorem State.placeLoad_links (n : Nat) : (s.placeLoad n).links = s.links := rfl
@[simp] theorem State.placeLoad_sram (n : Nat) : (s.placeLoad n).sram = s.sram := rfl
@[simp] theorem State.placeLoad_pending (n : Nat) : (s.placeLoad n).pending = s.pending := rfl

@[simp] theorem State.sramWrite_records (a : BusAddr) (data : Word) (be : Enables) : (s.sramWrite a data be).records = s.records := rfl
@[simp] theorem State.sramWrite_header (a : BusAddr) (data : Word) (be : Enables) : (s.sramWrite a data be).header = s.header := rfl
@[simp] theorem State.sramWrite_counters (a : BusAddr) (data : Word) (be : Enables) : (s.sramWrite a data be).counters = s.counters := rfl
@[simp] theorem State.sramWrite_dsu (a : BusAddr) (data : Word) (be : Enables) : (s.sramWrite a data be).dsu = s.dsu := rfl
@[simp] theorem State.sramWrite_rgu (a : BusAddr) (data : Word) (be : Enables) : (s.sramWrite a data be).rgu = s.rgu := rfl
@[simp] theorem State.sramWrite_pex (a : BusAddr) (data : Word) (be : Enables) : (s.sramWrite a data be).pex = s.pex := rfl
@[simp] theorem State.sramWrite_ltu (a : BusAddr) (data : Word) (be : Enables) : (s.sramWrite a data be).ltu = s.ltu := rfl
@[simp] theorem State.sramWrite_brx (a : BusAddr) (data : Word) (be : Enables) : (s.sramWrite a data be).brx = s.brx := rfl
@[simp] theorem State.sramWrite_dsq (a : BusAddr) (data : Word) (be : Enables) : (s.sramWrite a data be).dsq = s.dsq := rfl
@[simp] theorem State.sramWrite_evw (a : BusAddr) (data : Word) (be : Enables) : (s.sramWrite a data be).evw = s.evw := rfl
@[simp] theorem State.sramWrite_pct (a : BusAddr) (data : Word) (be : Enables) : (s.sramWrite a data be).pct = s.pct := rfl
@[simp] theorem State.sramWrite_bpt (a : BusAddr) (data : Word) (be : Enables) : (s.sramWrite a data be).bpt = s.bpt := rfl
@[simp] theorem State.sramWrite_links (a : BusAddr) (data : Word) (be : Enables) : (s.sramWrite a data be).links = s.links := rfl
@[simp] theorem State.sramWrite_pending (a : BusAddr) (data : Word) (be : Enables) : (s.sramWrite a data be).pending = s.pending := rfl

@[simp] theorem State.endSnapshots_records (w : WinWord) : (s.endSnapshots w).records = s.records := rfl
@[simp] theorem State.endSnapshots_header (w : WinWord) : (s.endSnapshots w).header = s.header := rfl
@[simp] theorem State.endSnapshots_counters (w : WinWord) : (s.endSnapshots w).counters = s.counters := rfl
@[simp] theorem State.endSnapshots_dsu (w : WinWord) : (s.endSnapshots w).dsu = s.dsu := rfl
@[simp] theorem State.endSnapshots_rgu (w : WinWord) : (s.endSnapshots w).rgu = s.rgu := rfl
@[simp] theorem State.endSnapshots_pex (w : WinWord) : (s.endSnapshots w).pex = s.pex := rfl
@[simp] theorem State.endSnapshots_ltu (w : WinWord) : (s.endSnapshots w).ltu = s.ltu := rfl
@[simp] theorem State.endSnapshots_brx (w : WinWord) : (s.endSnapshots w).brx = s.brx := rfl
@[simp] theorem State.endSnapshots_dsq (w : WinWord) : (s.endSnapshots w).dsq = s.dsq := rfl
@[simp] theorem State.endSnapshots_evw (w : WinWord) : (s.endSnapshots w).evw = s.evw := rfl
@[simp] theorem State.endSnapshots_pct (w : WinWord) : (s.endSnapshots w).pct = s.pct := rfl
@[simp] theorem State.endSnapshots_links (w : WinWord) : (s.endSnapshots w).links = s.links := rfl
@[simp] theorem State.endSnapshots_sram (w : WinWord) : (s.endSnapshots w).sram = s.sram := rfl
@[simp] theorem State.endSnapshots_pending (w : WinWord) : (s.endSnapshots w).pending = s.pending := rfl

@[simp] theorem State.latchRecord_records (i : RecIx) : (s.latchRecord i).records = s.records := rfl
@[simp] theorem State.latchRecord_header (i : RecIx) : (s.latchRecord i).header = s.header := rfl
@[simp] theorem State.latchRecord_counters (i : RecIx) : (s.latchRecord i).counters = s.counters := rfl
@[simp] theorem State.latchRecord_dsu (i : RecIx) : (s.latchRecord i).dsu = s.dsu := rfl
@[simp] theorem State.latchRecord_rgu (i : RecIx) : (s.latchRecord i).rgu = s.rgu := rfl
@[simp] theorem State.latchRecord_pex (i : RecIx) : (s.latchRecord i).pex = s.pex := rfl
@[simp] theorem State.latchRecord_ltu (i : RecIx) : (s.latchRecord i).ltu = s.ltu := rfl
@[simp] theorem State.latchRecord_brx (i : RecIx) : (s.latchRecord i).brx = s.brx := rfl
@[simp] theorem State.latchRecord_dsq (i : RecIx) : (s.latchRecord i).dsq = s.dsq := rfl
@[simp] theorem State.latchRecord_evw (i : RecIx) : (s.latchRecord i).evw = s.evw := rfl
@[simp] theorem State.latchRecord_pct (i : RecIx) : (s.latchRecord i).pct = s.pct := rfl
@[simp] theorem State.latchRecord_links (i : RecIx) : (s.latchRecord i).links = s.links := rfl
@[simp] theorem State.latchRecord_sram (i : RecIx) : (s.latchRecord i).sram = s.sram := rfl
@[simp] theorem State.latchRecord_pending (i : RecIx) : (s.latchRecord i).pending = s.pending := rfl

@[simp] theorem State.latchHeader_records : (s.latchHeader).records = s.records := rfl
@[simp] theorem State.latchHeader_header : (s.latchHeader).header = s.header := rfl
@[simp] theorem State.latchHeader_counters : (s.latchHeader).counters = s.counters := rfl
@[simp] theorem State.latchHeader_dsu : (s.latchHeader).dsu = s.dsu := rfl
@[simp] theorem State.latchHeader_rgu : (s.latchHeader).rgu = s.rgu := rfl
@[simp] theorem State.latchHeader_pex : (s.latchHeader).pex = s.pex := rfl
@[simp] theorem State.latchHeader_ltu : (s.latchHeader).ltu = s.ltu := rfl
@[simp] theorem State.latchHeader_brx : (s.latchHeader).brx = s.brx := rfl
@[simp] theorem State.latchHeader_dsq : (s.latchHeader).dsq = s.dsq := rfl
@[simp] theorem State.latchHeader_evw : (s.latchHeader).evw = s.evw := rfl
@[simp] theorem State.latchHeader_pct : (s.latchHeader).pct = s.pct := rfl
@[simp] theorem State.latchHeader_links : (s.latchHeader).links = s.links := rfl
@[simp] theorem State.latchHeader_sram : (s.latchHeader).sram = s.sram := rfl
@[simp] theorem State.latchHeader_pending : (s.latchHeader).pending = s.pending := rfl

@[simp] theorem State.placeEventWord_records (e : Event) (k : Nat) : (s.placeEventWord e k).records = s.records := rfl
@[simp] theorem State.placeEventWord_header (e : Event) (k : Nat) : (s.placeEventWord e k).header = s.header := rfl
@[simp] theorem State.placeEventWord_counters (e : Event) (k : Nat) : (s.placeEventWord e k).counters = s.counters := rfl
@[simp] theorem State.placeEventWord_dsu (e : Event) (k : Nat) : (s.placeEventWord e k).dsu = s.dsu := rfl
@[simp] theorem State.placeEventWord_rgu (e : Event) (k : Nat) : (s.placeEventWord e k).rgu = s.rgu := rfl
@[simp] theorem State.placeEventWord_pex (e : Event) (k : Nat) : (s.placeEventWord e k).pex = s.pex := rfl
@[simp] theorem State.placeEventWord_ltu (e : Event) (k : Nat) : (s.placeEventWord e k).ltu = s.ltu := rfl
@[simp] theorem State.placeEventWord_brx (e : Event) (k : Nat) : (s.placeEventWord e k).brx = s.brx := rfl
@[simp] theorem State.placeEventWord_dsq (e : Event) (k : Nat) : (s.placeEventWord e k).dsq = s.dsq := rfl
@[simp] theorem State.placeEventWord_pct (e : Event) (k : Nat) : (s.placeEventWord e k).pct = s.pct := rfl
@[simp] theorem State.placeEventWord_links (e : Event) (k : Nat) : (s.placeEventWord e k).links = s.links := rfl
@[simp] theorem State.placeEventWord_sram (e : Event) (k : Nat) : (s.placeEventWord e k).sram = s.sram := rfl
@[simp] theorem State.placeEventWord_pending (e : Event) (k : Nat) : (s.placeEventWord e k).pending = s.pending := rfl

@[simp] theorem State.servedOne_records : (s.servedOne).records = s.records := rfl
@[simp] theorem State.servedOne_header : (s.servedOne).header = s.header := rfl
@[simp] theorem State.servedOne_counters : (s.servedOne).counters = s.counters := rfl
@[simp] theorem State.servedOne_dsu : (s.servedOne).dsu = s.dsu := rfl
@[simp] theorem State.servedOne_rgu : (s.servedOne).rgu = s.rgu := rfl
@[simp] theorem State.servedOne_pex : (s.servedOne).pex = s.pex := rfl
@[simp] theorem State.servedOne_ltu : (s.servedOne).ltu = s.ltu := rfl
@[simp] theorem State.servedOne_brx : (s.servedOne).brx = s.brx := rfl
@[simp] theorem State.servedOne_dsq : (s.servedOne).dsq = s.dsq := rfl
@[simp] theorem State.servedOne_evw : (s.servedOne).evw = s.evw := rfl
@[simp] theorem State.servedOne_pct : (s.servedOne).pct = s.pct := rfl
@[simp] theorem State.servedOne_links : (s.servedOne).links = s.links := rfl
@[simp] theorem State.servedOne_sram : (s.servedOne).sram = s.sram := rfl
@[simp] theorem State.servedOne_pending : (s.servedOne).pending = s.pending := rfl

@[simp] theorem State.passAccess_records : (s.passAccess).records = s.records := rfl
@[simp] theorem State.passAccess_header : (s.passAccess).header = s.header := rfl
@[simp] theorem State.passAccess_counters : (s.passAccess).counters = s.counters := rfl
@[simp] theorem State.passAccess_dsu : (s.passAccess).dsu = s.dsu := rfl
@[simp] theorem State.passAccess_rgu : (s.passAccess).rgu = s.rgu := rfl
@[simp] theorem State.passAccess_pex : (s.passAccess).pex = s.pex := rfl
@[simp] theorem State.passAccess_ltu : (s.passAccess).ltu = s.ltu := rfl
@[simp] theorem State.passAccess_brx : (s.passAccess).brx = s.brx := rfl
@[simp] theorem State.passAccess_dsq : (s.passAccess).dsq = s.dsq := rfl
@[simp] theorem State.passAccess_evw : (s.passAccess).evw = s.evw := rfl
@[simp] theorem State.passAccess_pct : (s.passAccess).pct = s.pct := rfl
@[simp] theorem State.passAccess_links : (s.passAccess).links = s.links := rfl
@[simp] theorem State.passAccess_sram : (s.passAccess).sram = s.sram := rfl
@[simp] theorem State.passAccess_pending : (s.passAccess).pending = s.pending := rfl

@[simp] theorem State.deferDiscovery_records : (s.deferDiscovery).records = s.records := rfl
@[simp] theorem State.deferDiscovery_header : (s.deferDiscovery).header = s.header := rfl
@[simp] theorem State.deferDiscovery_counters : (s.deferDiscovery).counters = s.counters := rfl
@[simp] theorem State.deferDiscovery_rgu : (s.deferDiscovery).rgu = s.rgu := rfl
@[simp] theorem State.deferDiscovery_pex : (s.deferDiscovery).pex = s.pex := rfl
@[simp] theorem State.deferDiscovery_ltu : (s.deferDiscovery).ltu = s.ltu := rfl
@[simp] theorem State.deferDiscovery_brx : (s.deferDiscovery).brx = s.brx := rfl
@[simp] theorem State.deferDiscovery_dsq : (s.deferDiscovery).dsq = s.dsq := rfl
@[simp] theorem State.deferDiscovery_evw : (s.deferDiscovery).evw = s.evw := rfl
@[simp] theorem State.deferDiscovery_pct : (s.deferDiscovery).pct = s.pct := rfl
@[simp] theorem State.deferDiscovery_bpt : (s.deferDiscovery).bpt = s.bpt := rfl
@[simp] theorem State.deferDiscovery_links : (s.deferDiscovery).links = s.links := rfl
@[simp] theorem State.deferDiscovery_sram : (s.deferDiscovery).sram = s.sram := rfl
@[simp] theorem State.deferDiscovery_pending : (s.deferDiscovery).pending = s.pending := rfl

@[simp] theorem State.advanceMap_records : (s.advanceMap).records = s.records := rfl
@[simp] theorem State.advanceMap_header : (s.advanceMap).header = s.header := rfl
@[simp] theorem State.advanceMap_counters : (s.advanceMap).counters = s.counters := rfl
@[simp] theorem State.advanceMap_dsu : (s.advanceMap).dsu = s.dsu := rfl
@[simp] theorem State.advanceMap_rgu : (s.advanceMap).rgu = s.rgu := rfl
@[simp] theorem State.advanceMap_pex : (s.advanceMap).pex = s.pex := rfl
@[simp] theorem State.advanceMap_brx : (s.advanceMap).brx = s.brx := rfl
@[simp] theorem State.advanceMap_dsq : (s.advanceMap).dsq = s.dsq := rfl
@[simp] theorem State.advanceMap_evw : (s.advanceMap).evw = s.evw := rfl
@[simp] theorem State.advanceMap_pct : (s.advanceMap).pct = s.pct := rfl
@[simp] theorem State.advanceMap_bpt : (s.advanceMap).bpt = s.bpt := rfl
@[simp] theorem State.advanceMap_links : (s.advanceMap).links = s.links := rfl
@[simp] theorem State.advanceMap_sram : (s.advanceMap).sram = s.sram := rfl
@[simp] theorem State.advanceMap_pending : (s.advanceMap).pending = s.pending := rfl

@[simp] theorem State.restartDiscovery_records : (s.restartDiscovery).records = s.records := rfl
@[simp] theorem State.restartDiscovery_header : (s.restartDiscovery).header = s.header := rfl
@[simp] theorem State.restartDiscovery_counters : (s.restartDiscovery).counters = s.counters := rfl
@[simp] theorem State.restartDiscovery_rgu : (s.restartDiscovery).rgu = s.rgu := rfl
@[simp] theorem State.restartDiscovery_pex : (s.restartDiscovery).pex = s.pex := rfl
@[simp] theorem State.restartDiscovery_ltu : (s.restartDiscovery).ltu = s.ltu := rfl
@[simp] theorem State.restartDiscovery_brx : (s.restartDiscovery).brx = s.brx := rfl
@[simp] theorem State.restartDiscovery_dsq : (s.restartDiscovery).dsq = s.dsq := rfl
@[simp] theorem State.restartDiscovery_evw : (s.restartDiscovery).evw = s.evw := rfl
@[simp] theorem State.restartDiscovery_pct : (s.restartDiscovery).pct = s.pct := rfl
@[simp] theorem State.restartDiscovery_bpt : (s.restartDiscovery).bpt = s.bpt := rfl
@[simp] theorem State.restartDiscovery_links : (s.restartDiscovery).links = s.links := rfl
@[simp] theorem State.restartDiscovery_sram : (s.restartDiscovery).sram = s.sram := rfl
@[simp] theorem State.restartDiscovery_pending : (s.restartDiscovery).pending = s.pending := rfl

@[simp] theorem State.parkTaken_records : (s.parkTaken).records = s.records := rfl
@[simp] theorem State.parkTaken_header : (s.parkTaken).header = s.header := rfl
@[simp] theorem State.parkTaken_counters : (s.parkTaken).counters = s.counters := rfl
@[simp] theorem State.parkTaken_rgu : (s.parkTaken).rgu = s.rgu := rfl
@[simp] theorem State.parkTaken_pex : (s.parkTaken).pex = s.pex := rfl
@[simp] theorem State.parkTaken_ltu : (s.parkTaken).ltu = s.ltu := rfl
@[simp] theorem State.parkTaken_brx : (s.parkTaken).brx = s.brx := rfl
@[simp] theorem State.parkTaken_dsq : (s.parkTaken).dsq = s.dsq := rfl
@[simp] theorem State.parkTaken_evw : (s.parkTaken).evw = s.evw := rfl
@[simp] theorem State.parkTaken_pct : (s.parkTaken).pct = s.pct := rfl
@[simp] theorem State.parkTaken_bpt : (s.parkTaken).bpt = s.bpt := rfl
@[simp] theorem State.parkTaken_links : (s.parkTaken).links = s.links := rfl
@[simp] theorem State.parkTaken_sram : (s.parkTaken).sram = s.sram := rfl
@[simp] theorem State.parkTaken_pending : (s.parkTaken).pending = s.pending := rfl

@[simp] theorem State.finishEvent_records (e : Event) : (s.finishEvent e).records = s.records := rfl
@[simp] theorem State.finishEvent_header (e : Event) : (s.finishEvent e).header = s.header := rfl
@[simp] theorem State.finishEvent_counters (e : Event) : (s.finishEvent e).counters = s.counters := rfl
@[simp] theorem State.finishEvent_dsu (e : Event) : (s.finishEvent e).dsu = s.dsu := rfl
@[simp] theorem State.finishEvent_rgu (e : Event) : (s.finishEvent e).rgu = s.rgu := rfl
@[simp] theorem State.finishEvent_pex (e : Event) : (s.finishEvent e).pex = s.pex := rfl
@[simp] theorem State.finishEvent_ltu (e : Event) : (s.finishEvent e).ltu = s.ltu := rfl
@[simp] theorem State.finishEvent_brx (e : Event) : (s.finishEvent e).brx = s.brx := rfl
@[simp] theorem State.finishEvent_dsq (e : Event) : (s.finishEvent e).dsq = s.dsq := rfl
@[simp] theorem State.finishEvent_pct (e : Event) : (s.finishEvent e).pct = s.pct := rfl
@[simp] theorem State.finishEvent_links (e : Event) : (s.finishEvent e).links = s.links := rfl
@[simp] theorem State.finishEvent_sram (e : Event) : (s.finishEvent e).sram = s.sram := rfl
@[simp] theorem State.finishEvent_pending (e : Event) : (s.finishEvent e).pending = s.pending := rfl

@[simp] theorem State.withPending_records (q : List Instr) : (s.withPending q).records = s.records := rfl
@[simp] theorem State.withPending_header (q : List Instr) : (s.withPending q).header = s.header := rfl
@[simp] theorem State.withPending_counters (q : List Instr) : (s.withPending q).counters = s.counters := rfl
@[simp] theorem State.withPending_dsu (q : List Instr) : (s.withPending q).dsu = s.dsu := rfl
@[simp] theorem State.withPending_rgu (q : List Instr) : (s.withPending q).rgu = s.rgu := rfl
@[simp] theorem State.withPending_pex (q : List Instr) : (s.withPending q).pex = s.pex := rfl
@[simp] theorem State.withPending_ltu (q : List Instr) : (s.withPending q).ltu = s.ltu := rfl
@[simp] theorem State.withPending_brx (q : List Instr) : (s.withPending q).brx = s.brx := rfl
@[simp] theorem State.withPending_dsq (q : List Instr) : (s.withPending q).dsq = s.dsq := rfl
@[simp] theorem State.withPending_evw (q : List Instr) : (s.withPending q).evw = s.evw := rfl
@[simp] theorem State.withPending_pct (q : List Instr) : (s.withPending q).pct = s.pct := rfl
@[simp] theorem State.withPending_bpt (q : List Instr) : (s.withPending q).bpt = s.bpt := rfl
@[simp] theorem State.withPending_links (q : List Instr) : (s.withPending q).links = s.links := rfl
@[simp] theorem State.withPending_sram (q : List Instr) : (s.withPending q).sram = s.sram := rfl

/-! ### Records and channels read after an update -/

@[simp] theorem State.record_setRecord_same (i : RecIx) (r : Record) : (s.setRecord i r).record i = r := by
  simp [State.record, State.setRecord]

theorem State.record_setRecord_other {i k : RecIx} (r : Record) (h : k ≠ i) : (s.setRecord i r).record k = s.record k := by
  have hv : i.val ≠ k.val := fun e => h (Fin.ext e.symm)
  simp [State.record, State.setRecord, hv]

@[simp] theorem State.record_onRecord_same (i : RecIx) (f : Record → Record) : (s.onRecord i f).record i = f (s.record i) := by
  simp [State.onRecord]

theorem State.record_onRecord_other {i k : RecIx} (f : Record → Record) (h : k ≠ i) :
    (s.onRecord i f).record k = s.record k := by
  simp [State.onRecord, State.record_setRecord_other _ _ h]

@[simp] theorem State.chan_setChan_same (ch : ChanIx) (c : Channel) : (s.setChan ch c).chan ch = c := by
  simp [State.chan, State.setChan]

theorem State.chan_setChan_other {ch k : ChanIx} (c : Channel) (h : k ≠ ch) : (s.setChan ch c).chan k = s.chan k := by
  have hv : ch.val ≠ k.val := fun e => h (Fin.ext e.symm)
  simp [State.chan, State.setChan, hv]

@[simp] theorem State.settle_setSettle_same (i : RecIx) (x : Option Settle) : (s.setSettle i x).settle i = x := by
  simp [State.settle, State.setSettle]

theorem State.settle_setSettle_other {i k : RecIx} (x : Option Settle) (h : k ≠ i) :
    (s.setSettle i x).settle k = s.settle k := by
  have hv : i.val ≠ k.val := fun e => h (Fin.ext e.symm)
  simp [State.settle, State.setSettle, hv]

@[simp] theorem State.dirEntry_setDir_same (p : DirIx) (e : DirEntry) : (s.setDir p e).dirEntry p = e := by
  simp [State.dirEntry, State.setDir]

theorem State.dirEntry_setDir_other {p q : DirIx} (e : DirEntry) (h : q ≠ p) : (s.setDir p e).dirEntry q = s.dirEntry q := by
  have hv : p.val ≠ q.val := fun e => h (Fin.ext e.symm)
  simp [State.dirEntry, State.setDir, hv]

@[simp] theorem State.chanRequest_setRequest_same (ch : ChanIx) (r : Option ReadRequest) :
    (s.setRequest ch r).chanRequest ch = r := by
  simp [State.chanRequest, State.setRequest]

theorem State.chanRequest_setRequest_other {ch k : ChanIx} (r : Option ReadRequest) (h : k ≠ ch) :
    (s.setRequest ch r).chanRequest k = s.chanRequest k := by
  have hv : ch.val ≠ k.val := fun e => h (Fin.ext e.symm)
  simp [State.chanRequest, State.setRequest, hv]

/-- Two states with the same records have the same record i. -/
theorem State.record_congr {t : State} (h : t.records = s.records) (i : RecIx) : t.record i = s.record i := by
  simp [State.record, h]

end Sys2Proof.Machine
end

