-- ==== Sys2Proof/Laws/Frames.lean ====
section
/-! SUPPORT. The frames of the shared operations: which parts of the state each one leaves alone, once for each. -/

namespace Sys2Proof.Machine

/-- What each step of a fold keeps, the fold keeps. -/
theorem foldl_keeps {α β : Type} (f : State → α → State) (g : State → β) (h : ∀ t a, g (f t a) = g t) (l : List α) :
    ∀ s, g (l.foldl f s) = g s := by
  induction l with
  | nil => exact fun _ => rfl
  | cons a l ih => exact fun s => (ih (f s a)).trans (h s a)

variable (s : State)

@[simp] theorem State.raise_frame (e : Raise) :
    (s.raise e).records = s.records ∧ (s.raise e).header = s.header ∧ (s.raise e).dsu = s.dsu ∧
    (s.raise e).rgu = s.rgu ∧ (s.raise e).pex = s.pex ∧ (s.raise e).ltu = s.ltu ∧ (s.raise e).brx = s.brx ∧
    (s.raise e).dsq = s.dsq ∧ (s.raise e).pct = s.pct ∧ (s.raise e).bpt = s.bpt ∧ (s.raise e).links = s.links ∧
    (s.raise e).sram = s.sram ∧ (s.raise e).pending = s.pending := by
  obtain ⟨t, h⟩ : ∃ t, s.raise e = t := ⟨_, rfl⟩
  rw [h]
  unfold State.raise at h
  try dsimp only at h
  (repeat' split at h) <;> subst h <;> simp

@[simp] theorem State.raiseRecord_frame (i : RecIx) (why : ChangeReason) :
    (s.raiseRecord i why).records = s.records ∧ (s.raiseRecord i why).header = s.header ∧
    (s.raiseRecord i why).dsu = s.dsu ∧ (s.raiseRecord i why).rgu = s.rgu ∧ (s.raiseRecord i why).pex = s.pex ∧
    (s.raiseRecord i why).ltu = s.ltu ∧ (s.raiseRecord i why).brx = s.brx ∧ (s.raiseRecord i why).dsq = s.dsq ∧
    (s.raiseRecord i why).pct = s.pct ∧ (s.raiseRecord i why).bpt = s.bpt ∧ (s.raiseRecord i why).links = s.links ∧
    (s.raiseRecord i why).sram = s.sram ∧ (s.raiseRecord i why).pending = s.pending := by
  simp [State.raiseRecord]

@[simp] theorem State.enter_frame (i : RecIx) (st : ActState) (why : ChangeReason) :
    (s.enter i st why).header = s.header ∧ (s.enter i st why).dsu = s.dsu ∧ (s.enter i st why).rgu = s.rgu ∧
    (s.enter i st why).pex = s.pex ∧ (s.enter i st why).ltu = s.ltu ∧ (s.enter i st why).brx = s.brx ∧
    (s.enter i st why).dsq = s.dsq ∧ (s.enter i st why).pct = s.pct ∧ (s.enter i st why).bpt = s.bpt ∧
    (s.enter i st why).links = s.links ∧ (s.enter i st why).sram = s.sram ∧ (s.enter i st why).pending = s.pending := by
  simp [State.enter]

@[simp] theorem State.discard_frame (x : Byte) (why : DiscardReason) (o : Nat) :
    (s.discard x why o).records = s.records ∧ (s.discard x why o).header = s.header ∧
    (s.discard x why o).dsu = s.dsu ∧ (s.discard x why o).rgu = s.rgu ∧ (s.discard x why o).pex = s.pex ∧
    (s.discard x why o).ltu = s.ltu ∧ (s.discard x why o).brx = s.brx ∧ (s.discard x why o).dsq = s.dsq ∧
    (s.discard x why o).pct = s.pct ∧ (s.discard x why o).bpt = s.bpt ∧ (s.discard x why o).links = s.links ∧
    (s.discard x why o).sram = s.sram ∧ (s.discard x why o).pending = s.pending := by
  obtain ⟨t, h⟩ : ∃ t, s.discard x why o = t := ⟨_, rfl⟩
  rw [h]
  unfold State.discard at h
  try dsimp only at h
  (repeat' split at h) <;> subst h <;> simp

@[simp] theorem State.raisePort_frame :
    (s.raisePort).records = s.records ∧ (s.raisePort).header = s.header ∧ (s.raisePort).dsu = s.dsu ∧
    (s.raisePort).rgu = s.rgu ∧ (s.raisePort).pex = s.pex ∧ (s.raisePort).ltu = s.ltu ∧ (s.raisePort).brx = s.brx ∧
    (s.raisePort).dsq = s.dsq ∧ (s.raisePort).pct = s.pct ∧ (s.raisePort).bpt = s.bpt ∧
    (s.raisePort).links = s.links ∧ (s.raisePort).sram = s.sram ∧ (s.raisePort).pending = s.pending := by
  simp [State.raisePort]

@[simp] theorem State.enterPort_frame (p : PortState) :
    (s.enterPort p).records = s.records ∧ (s.enterPort p).header = s.header ∧ (s.enterPort p).dsu = s.dsu ∧
    (s.enterPort p).rgu = s.rgu ∧ (s.enterPort p).pex = s.pex ∧ (s.enterPort p).ltu = s.ltu ∧
    (s.enterPort p).brx = s.brx ∧ (s.enterPort p).dsq = s.dsq ∧ (s.enterPort p).bpt = s.bpt ∧
    (s.enterPort p).links = s.links ∧ (s.enterPort p).sram = s.sram ∧ (s.enterPort p).pending = s.pending := by
  simp [State.enterPort]

@[simp] theorem State.raiseLine_frame (d : LineDetail) :
    (s.raiseLine d).records = s.records ∧ (s.raiseLine d).header = s.header ∧ (s.raiseLine d).dsu = s.dsu ∧
    (s.raiseLine d).rgu = s.rgu ∧ (s.raiseLine d).pex = s.pex ∧ (s.raiseLine d).ltu = s.ltu ∧
    (s.raiseLine d).brx = s.brx ∧ (s.raiseLine d).dsq = s.dsq ∧ (s.raiseLine d).pct = s.pct ∧
    (s.raiseLine d).bpt = s.bpt ∧ (s.raiseLine d).links = s.links ∧ (s.raiseLine d).sram = s.sram ∧
    (s.raiseLine d).pending = s.pending := by
  simp [State.raiseLine]

@[simp] theorem State.raiseQuiet_frame (p : Purpose) (d : QuietDetail) (v : Cycle) :
    (s.raiseQuiet p d v).records = s.records ∧ (s.raiseQuiet p d v).header = s.header ∧
    (s.raiseQuiet p d v).dsu = s.dsu ∧ (s.raiseQuiet p d v).rgu = s.rgu ∧ (s.raiseQuiet p d v).pex = s.pex ∧
    (s.raiseQuiet p d v).ltu = s.ltu ∧ (s.raiseQuiet p d v).brx = s.brx ∧ (s.raiseQuiet p d v).dsq = s.dsq ∧
    (s.raiseQuiet p d v).pct = s.pct ∧ (s.raiseQuiet p d v).bpt = s.bpt ∧ (s.raiseQuiet p d v).links = s.links ∧
    (s.raiseQuiet p d v).sram = s.sram ∧ (s.raiseQuiet p d v).pending = s.pending := by
  simp [State.raiseQuiet]

@[simp] theorem State.disarmFor_frame (id : Interval) :
    (s.disarmFor id).records = s.records ∧ (s.disarmFor id).header = s.header ∧
    (s.disarmFor id).counters = s.counters ∧ (s.disarmFor id).dsu = s.dsu ∧ (s.disarmFor id).rgu = s.rgu ∧
    (s.disarmFor id).pex = s.pex ∧ (s.disarmFor id).dsq = s.dsq ∧ (s.disarmFor id).evw = s.evw ∧
    (s.disarmFor id).pct = s.pct ∧ (s.disarmFor id).bpt = s.bpt ∧ (s.disarmFor id).links = s.links ∧
    (s.disarmFor id).sram = s.sram ∧ (s.disarmFor id).pending = s.pending := by
  obtain ⟨t, h⟩ : ∃ t, s.disarmFor id = t := ⟨_, rfl⟩
  rw [h]
  unfold State.disarmFor at h
  try dsimp only at h
  (repeat' split at h) <;> subst h <;> simp

@[simp] theorem State.disarmFor_captures (id : Interval) : (s.disarmFor id).brx.queue = s.brx.queue := by
  unfold State.disarmFor
  split <;> rfl

@[simp] theorem State.endWindow_frame (w : Window) :
    (s.endWindow w).records = s.records ∧ (s.endWindow w).header = s.header ∧ (s.endWindow w).counters = s.counters ∧
    (s.endWindow w).dsu = s.dsu ∧ (s.endWindow w).rgu = s.rgu ∧ (s.endWindow w).pex = s.pex ∧
    (s.endWindow w).dsq = s.dsq ∧ (s.endWindow w).evw = s.evw ∧ (s.endWindow w).pct = s.pct ∧
    (s.endWindow w).bpt = s.bpt ∧ (s.endWindow w).sram = s.sram ∧ (s.endWindow w).pending = s.pending := by
  simp [State.endWindow]

@[simp] theorem State.endQuiet_frame :
    (s.endQuiet).records = s.records ∧ (s.endQuiet).header = s.header ∧ (s.endQuiet).counters = s.counters ∧
    (s.endQuiet).dsu = s.dsu ∧ (s.endQuiet).rgu = s.rgu ∧ (s.endQuiet).pex = s.pex ∧ (s.endQuiet).evw = s.evw ∧
    (s.endQuiet).pct = s.pct ∧ (s.endQuiet).bpt = s.bpt ∧ (s.endQuiet).sram = s.sram ∧
    (s.endQuiet).pending = s.pending := by
  obtain ⟨t, h⟩ : ∃ t, s.endQuiet = t := ⟨_, rfl⟩
  rw [h]
  unfold State.endQuiet at h
  try dsimp only at h
  (repeat' split at h) <;> subst h <;> simp

@[simp] theorem State.abandonRound_frame :
    (s.abandonRound).records = s.records ∧ (s.abandonRound).header = s.header ∧
    (s.abandonRound).counters = s.counters ∧ (s.abandonRound).rgu = s.rgu ∧ (s.abandonRound).pex = s.pex ∧
    (s.abandonRound).ltu = s.ltu ∧ (s.abandonRound).brx = s.brx ∧ (s.abandonRound).dsq = s.dsq ∧
    (s.abandonRound).evw = s.evw ∧ (s.abandonRound).pct = s.pct ∧ (s.abandonRound).bpt = s.bpt ∧
    (s.abandonRound).links = s.links ∧ (s.abandonRound).sram = s.sram ∧ (s.abandonRound).pending = s.pending := by
  obtain ⟨t, h⟩ : ∃ t, s.abandonRound = t := ⟨_, rfl⟩
  rw [h]
  unfold State.abandonRound at h
  try dsimp only at h
  (repeat' split at h) <;> subst h <;> simp

@[simp] theorem State.abandonAttempt_frame :
    (s.abandonAttempt).header = s.header ∧ (s.abandonAttempt).counters = s.counters ∧ (s.abandonAttempt).dsu = s.dsu ∧
    (s.abandonAttempt).pex = s.pex ∧ (s.abandonAttempt).ltu = s.ltu ∧ (s.abandonAttempt).brx = s.brx ∧
    (s.abandonAttempt).dsq = s.dsq ∧ (s.abandonAttempt).evw = s.evw ∧ (s.abandonAttempt).pct = s.pct ∧
    (s.abandonAttempt).bpt = s.bpt ∧ (s.abandonAttempt).links = s.links ∧ (s.abandonAttempt).sram = s.sram ∧
    (s.abandonAttempt).pending = s.pending := by
  obtain ⟨t, h⟩ : ∃ t, s.abandonAttempt = t := ⟨_, rfl⟩
  rw [h]
  unfold State.abandonAttempt at h
  try dsimp only at h
  (repeat' split at h) <;> subst h <;> simp

@[simp] theorem State.askEnded_frame (p : Purpose) :
    (s.askEnded p).header = s.header ∧ (s.askEnded p).counters = s.counters ∧ (s.askEnded p).pex = s.pex ∧
    (s.askEnded p).ltu = s.ltu ∧ (s.askEnded p).brx = s.brx ∧ (s.askEnded p).evw = s.evw ∧
    (s.askEnded p).pct = s.pct ∧ (s.askEnded p).bpt = s.bpt ∧ (s.askEnded p).links = s.links ∧
    (s.askEnded p).sram = s.sram ∧ (s.askEnded p).pending = s.pending := by
  obtain ⟨t, h⟩ : ∃ t, s.askEnded p = t := ⟨_, rfl⟩
  rw [h]
  unfold State.askEnded at h
  try dsimp only at h
  (repeat' split at h) <;> subst h <;> simp

@[simp] theorem State.voidSlots_frame (p : Slot → Bool) :
    (s.voidSlots p).records = s.records ∧ (s.voidSlots p).header = s.header ∧ (s.voidSlots p).counters = s.counters ∧
    (s.voidSlots p).dsu = s.dsu ∧ (s.voidSlots p).rgu = s.rgu ∧ (s.voidSlots p).pex = s.pex ∧
    (s.voidSlots p).dsq = s.dsq ∧ (s.voidSlots p).evw = s.evw ∧ (s.voidSlots p).pct = s.pct ∧
    (s.voidSlots p).bpt = s.bpt ∧ (s.voidSlots p).links = s.links ∧ (s.voidSlots p).sram = s.sram ∧
    (s.voidSlots p).pending = s.pending := by
  obtain ⟨t, h⟩ : ∃ t, s.voidSlots p = t := ⟨_, rfl⟩
  rw [h]
  unfold State.voidSlots at h
  try dsimp only at h
  (repeat' split at h) <;> subst h <;> simp

@[simp] theorem State.voidBookingOf_frame (i : RecIx) :
    (s.voidBookingOf i).records = s.records ∧ (s.voidBookingOf i).header = s.header ∧
    (s.voidBookingOf i).counters = s.counters ∧ (s.voidBookingOf i).dsu = s.dsu ∧ (s.voidBookingOf i).rgu = s.rgu ∧
    (s.voidBookingOf i).pex = s.pex ∧ (s.voidBookingOf i).dsq = s.dsq ∧ (s.voidBookingOf i).evw = s.evw ∧
    (s.voidBookingOf i).pct = s.pct ∧ (s.voidBookingOf i).bpt = s.bpt ∧ (s.voidBookingOf i).links = s.links ∧
    (s.voidBookingOf i).sram = s.sram ∧ (s.voidBookingOf i).pending = s.pending := by
  simp [State.voidBookingOf]

@[simp] theorem State.voidIdent_frame (n : Nat) :
    (s.voidIdent n).records = s.records ∧ (s.voidIdent n).header = s.header ∧ (s.voidIdent n).counters = s.counters ∧
    (s.voidIdent n).dsu = s.dsu ∧ (s.voidIdent n).rgu = s.rgu ∧ (s.voidIdent n).pex = s.pex ∧
    (s.voidIdent n).dsq = s.dsq ∧ (s.voidIdent n).evw = s.evw ∧ (s.voidIdent n).pct = s.pct ∧
    (s.voidIdent n).bpt = s.bpt ∧ (s.voidIdent n).links = s.links ∧ (s.voidIdent n).sram = s.sram ∧
    (s.voidIdent n).pending = s.pending := by
  simp [State.voidIdent]

@[simp] theorem State.voidAllSlots_frame :
    (s.voidAllSlots).records = s.records ∧ (s.voidAllSlots).header = s.header ∧
    (s.voidAllSlots).counters = s.counters ∧ (s.voidAllSlots).dsu = s.dsu ∧ (s.voidAllSlots).rgu = s.rgu ∧
    (s.voidAllSlots).pex = s.pex ∧ (s.voidAllSlots).dsq = s.dsq ∧ (s.voidAllSlots).evw = s.evw ∧
    (s.voidAllSlots).pct = s.pct ∧ (s.voidAllSlots).bpt = s.bpt ∧ (s.voidAllSlots).links = s.links ∧
    (s.voidAllSlots).sram = s.sram ∧ (s.voidAllSlots).pending = s.pending := by
  simp [State.voidAllSlots]

@[simp] theorem State.placeRead_frame (ch : ChanIx) :
    (s.placeRead ch).records = s.records ∧ (s.placeRead ch).header = s.header ∧
    (s.placeRead ch).counters = s.counters ∧ (s.placeRead ch).dsu = s.dsu ∧ (s.placeRead ch).rgu = s.rgu ∧
    (s.placeRead ch).pex = s.pex ∧ (s.placeRead ch).ltu = s.ltu ∧ (s.placeRead ch).brx = s.brx ∧
    (s.placeRead ch).dsq = s.dsq ∧ (s.placeRead ch).evw = s.evw ∧ (s.placeRead ch).pct = s.pct ∧
    (s.placeRead ch).links = s.links ∧ (s.placeRead ch).sram = s.sram ∧ (s.placeRead ch).pending = s.pending := by
  obtain ⟨t, h⟩ : ∃ t, s.placeRead ch = t := ⟨_, rfl⟩
  rw [h]
  unfold State.placeRead at h
  try dsimp only at h
  (repeat' split at h) <;> subst h <;> simp

@[simp] theorem State.dropRead_frame (ch : ChanIx) :
    (s.dropRead ch).records = s.records ∧ (s.dropRead ch).header = s.header ∧ (s.dropRead ch).counters = s.counters ∧
    (s.dropRead ch).dsu = s.dsu ∧ (s.dropRead ch).rgu = s.rgu ∧ (s.dropRead ch).pex = s.pex ∧
    (s.dropRead ch).ltu = s.ltu ∧ (s.dropRead ch).brx = s.brx ∧ (s.dropRead ch).dsq = s.dsq ∧
    (s.dropRead ch).evw = s.evw ∧ (s.dropRead ch).pct = s.pct ∧ (s.dropRead ch).links = s.links ∧
    (s.dropRead ch).sram = s.sram ∧ (s.dropRead ch).pending = s.pending := by
  obtain ⟨t, h⟩ : ∃ t, s.dropRead ch = t := ⟨_, rfl⟩
  rw [h]
  unfold State.dropRead at h
  try dsimp only at h
  (repeat' split at h) <;> subst h <;> simp

@[simp] theorem State.runFill_frame (ch : ChanIx) (bs : List Byte) :
    (s.runFill ch bs).records = s.records ∧ (s.runFill ch bs).header = s.header ∧
    (s.runFill ch bs).counters = s.counters ∧ (s.runFill ch bs).dsu = s.dsu ∧ (s.runFill ch bs).rgu = s.rgu ∧
    (s.runFill ch bs).ltu = s.ltu ∧ (s.runFill ch bs).brx = s.brx ∧ (s.runFill ch bs).evw = s.evw ∧
    (s.runFill ch bs).pct = s.pct ∧ (s.runFill ch bs).links = s.links ∧ (s.runFill ch bs).sram = s.sram ∧
    (s.runFill ch bs).pending = s.pending := by
  obtain ⟨t, h⟩ : ∃ t, s.runFill ch bs = t := ⟨_, rfl⟩
  rw [h]
  unfold State.runFill at h
  try dsimp only at h
  (repeat' split at h) <;> subst h <;> simp

@[simp] theorem State.scanGood_frame (ch : ChanIx) :
    (s.scanGood ch).header = s.header ∧ (s.scanGood ch).counters = s.counters ∧ (s.scanGood ch).dsu = s.dsu ∧
    (s.scanGood ch).rgu = s.rgu ∧ (s.scanGood ch).ltu = s.ltu ∧ (s.scanGood ch).brx = s.brx ∧
    (s.scanGood ch).evw = s.evw ∧ (s.scanGood ch).pct = s.pct ∧ (s.scanGood ch).links = s.links ∧
    (s.scanGood ch).sram = s.sram ∧ (s.scanGood ch).pending = s.pending := by
  obtain ⟨t, h⟩ : ∃ t, s.scanGood ch = t := ⟨_, rfl⟩
  rw [h]
  unfold State.scanGood at h
  try dsimp only at h
  (repeat' split at h) <;> subst h <;> simp

@[simp] theorem State.startScan_frame (ch : ChanIx) :
    (s.startScan ch).header = s.header ∧ (s.startScan ch).counters = s.counters ∧ (s.startScan ch).dsu = s.dsu ∧
    (s.startScan ch).rgu = s.rgu ∧ (s.startScan ch).ltu = s.ltu ∧ (s.startScan ch).brx = s.brx ∧
    (s.startScan ch).evw = s.evw ∧ (s.startScan ch).pct = s.pct ∧ (s.startScan ch).links = s.links ∧
    (s.startScan ch).sram = s.sram ∧ (s.startScan ch).pending = s.pending := by
  obtain ⟨t, h⟩ : ∃ t, s.startScan ch = t := ⟨_, rfl⟩
  rw [h]
  unfold State.startScan at h
  try dsimp only at h
  (repeat' split at h) <;> subst h <;> simp

@[simp] theorem State.grantChannel_frame (ch : ChanIx) (i : RecIx) :
    (s.grantChannel ch i).header = s.header ∧ (s.grantChannel ch i).counters = s.counters ∧
    (s.grantChannel ch i).dsu = s.dsu ∧ (s.grantChannel ch i).rgu = s.rgu ∧ (s.grantChannel ch i).ltu = s.ltu ∧
    (s.grantChannel ch i).brx = s.brx ∧ (s.grantChannel ch i).evw = s.evw ∧ (s.grantChannel ch i).pct = s.pct ∧
    (s.grantChannel ch i).links = s.links ∧ (s.grantChannel ch i).sram = s.sram ∧
    (s.grantChannel ch i).pending = s.pending := by
  simp [State.grantChannel]

@[simp] theorem State.freeChannel_frame (ch : ChanIx) :
    (s.freeChannel ch).records = s.records ∧ (s.freeChannel ch).header = s.header ∧
    (s.freeChannel ch).counters = s.counters ∧ (s.freeChannel ch).dsu = s.dsu ∧ (s.freeChannel ch).rgu = s.rgu ∧
    (s.freeChannel ch).ltu = s.ltu ∧ (s.freeChannel ch).brx = s.brx ∧ (s.freeChannel ch).dsq = s.dsq ∧
    (s.freeChannel ch).evw = s.evw ∧ (s.freeChannel ch).pct = s.pct ∧ (s.freeChannel ch).links = s.links ∧
    (s.freeChannel ch).sram = s.sram ∧ (s.freeChannel ch).pending = s.pending := by
  simp [State.freeChannel]

@[simp] theorem State.grantWaiting_frame (ch : ChanIx) :
    (s.grantWaiting ch).header = s.header ∧ (s.grantWaiting ch).dsu = s.dsu ∧ (s.grantWaiting ch).rgu = s.rgu ∧
    (s.grantWaiting ch).ltu = s.ltu ∧ (s.grantWaiting ch).brx = s.brx ∧ (s.grantWaiting ch).pct = s.pct ∧
    (s.grantWaiting ch).links = s.links ∧ (s.grantWaiting ch).sram = s.sram ∧
    (s.grantWaiting ch).pending = s.pending := by
  obtain ⟨t, h⟩ : ∃ t, s.grantWaiting ch = t := ⟨_, rfl⟩
  rw [h]
  unfold State.grantWaiting at h
  try dsimp only at h
  (repeat' split at h) <;> subst h <;> simp

@[simp] theorem State.offerAgain_frame (ch : ChanIx) :
    (s.offerAgain ch).records = s.records ∧ (s.offerAgain ch).header = s.header ∧
    (s.offerAgain ch).counters = s.counters ∧ (s.offerAgain ch).dsu = s.dsu ∧ (s.offerAgain ch).rgu = s.rgu ∧
    (s.offerAgain ch).ltu = s.ltu ∧ (s.offerAgain ch).brx = s.brx ∧ (s.offerAgain ch).evw = s.evw ∧
    (s.offerAgain ch).pct = s.pct ∧ (s.offerAgain ch).bpt = s.bpt ∧ (s.offerAgain ch).links = s.links ∧
    (s.offerAgain ch).sram = s.sram ∧ (s.offerAgain ch).pending = s.pending := by
  simp [State.offerAgain]

@[simp] theorem State.negativeOutcome_frame (ch : ChanIx) :
    (s.negativeOutcome ch).header = s.header ∧ (s.negativeOutcome ch).counters = s.counters ∧
    (s.negativeOutcome ch).dsu = s.dsu ∧ (s.negativeOutcome ch).rgu = s.rgu ∧ (s.negativeOutcome ch).ltu = s.ltu ∧
    (s.negativeOutcome ch).brx = s.brx ∧ (s.negativeOutcome ch).evw = s.evw ∧ (s.negativeOutcome ch).pct = s.pct ∧
    (s.negativeOutcome ch).bpt = s.bpt ∧ (s.negativeOutcome ch).links = s.links ∧
    (s.negativeOutcome ch).sram = s.sram ∧ (s.negativeOutcome ch).pending = s.pending := by
  obtain ⟨t, h⟩ : ∃ t, s.negativeOutcome ch = t := ⟨_, rfl⟩
  rw [h]
  unfold State.negativeOutcome at h
  try dsimp only at h
  (repeat' split at h) <;> subst h <;> simp

@[simp] theorem State.ackBlock_frame (ch : ChanIx) :
    (s.ackBlock ch).header = s.header ∧ (s.ackBlock ch).counters = s.counters ∧ (s.ackBlock ch).dsu = s.dsu ∧
    (s.ackBlock ch).rgu = s.rgu ∧ (s.ackBlock ch).ltu = s.ltu ∧ (s.ackBlock ch).brx = s.brx ∧
    (s.ackBlock ch).evw = s.evw ∧ (s.ackBlock ch).pct = s.pct ∧ (s.ackBlock ch).links = s.links ∧
    (s.ackBlock ch).sram = s.sram ∧ (s.ackBlock ch).pending = s.pending := by
  obtain ⟨t, h⟩ : ∃ t, s.ackBlock ch = t := ⟨_, rfl⟩
  rw [h]
  unfold State.ackBlock at h
  try dsimp only at h
  (repeat' split at h) <;> subst h <;> simp

@[simp] theorem State.deliver_frame (ch : ChanIx) (d : Word) :
    (s.deliver ch d).header = s.header ∧ (s.deliver ch d).counters = s.counters ∧ (s.deliver ch d).dsu = s.dsu ∧
    (s.deliver ch d).rgu = s.rgu ∧ (s.deliver ch d).ltu = s.ltu ∧ (s.deliver ch d).brx = s.brx ∧
    (s.deliver ch d).evw = s.evw ∧ (s.deliver ch d).pct = s.pct ∧ (s.deliver ch d).links = s.links ∧
    (s.deliver ch d).sram = s.sram ∧ (s.deliver ch d).pending = s.pending := by
  obtain ⟨t, h⟩ : ∃ t, s.deliver ch d = t := ⟨_, rfl⟩
  rw [h]
  unfold State.deliver at h
  try dsimp only at h
  (repeat' split at h) <;> subst h <;> simp

@[simp] theorem State.resume_frame (ch : ChanIx) :
    (s.resume ch).records = s.records ∧ (s.resume ch).header = s.header ∧ (s.resume ch).counters = s.counters ∧
    (s.resume ch).dsu = s.dsu ∧ (s.resume ch).rgu = s.rgu ∧ (s.resume ch).ltu = s.ltu ∧ (s.resume ch).brx = s.brx ∧
    (s.resume ch).evw = s.evw ∧ (s.resume ch).pct = s.pct ∧ (s.resume ch).links = s.links ∧
    (s.resume ch).sram = s.sram ∧ (s.resume ch).pending = s.pending := by
  obtain ⟨t, h⟩ : ∃ t, s.resume ch = t := ⟨_, rfl⟩
  rw [h]
  unfold State.resume at h
  try dsimp only at h
  (repeat' split at h) <;> subst h <;> simp

@[simp] theorem State.restartChannel_frame (ch : ChanIx) :
    (s.restartChannel ch).header = s.header ∧ (s.restartChannel ch).dsu = s.dsu ∧ (s.restartChannel ch).rgu = s.rgu ∧
    (s.restartChannel ch).pct = s.pct ∧ (s.restartChannel ch).links = s.links ∧ (s.restartChannel ch).sram = s.sram ∧
    (s.restartChannel ch).pending = s.pending := by
  obtain ⟨t, h⟩ : ∃ t, s.restartChannel ch = t := ⟨_, rfl⟩
  rw [h]
  unfold State.restartChannel at h
  try dsimp only at h
  (repeat' split at h) <;> subst h <;> simp

@[simp] theorem State.imageTouched_frame (w : WinWord) (be : Enables) :
    (s.imageTouched w be).header = s.header ∧ (s.imageTouched w be).dsu = s.dsu ∧ (s.imageTouched w be).rgu = s.rgu ∧
    (s.imageTouched w be).pct = s.pct ∧ (s.imageTouched w be).links = s.links ∧ (s.imageTouched w be).sram = s.sram ∧
    (s.imageTouched w be).pending = s.pending := by
  unfold State.imageTouched
  exact ⟨(foldl_keeps _ State.header (fun t a => by split <;> simp) _ _),
    (foldl_keeps _ State.dsu (fun t a => by split <;> simp) _ _),
    (foldl_keeps _ State.rgu (fun t a => by split <;> simp) _ _),
    (foldl_keeps _ State.pct (fun t a => by split <;> simp) _ _),
    (foldl_keeps _ State.links (fun t a => by split <;> simp) _ _),
    (foldl_keeps _ State.sram (fun t a => by split <;> simp) _ _),
    (foldl_keeps _ State.pending (fun t a => by split <;> simp) _ _)⟩

@[simp] theorem State.clearPex_frame :
    (s.clearPex).records = s.records ∧ (s.clearPex).header = s.header ∧ (s.clearPex).counters = s.counters ∧
    (s.clearPex).dsu = s.dsu ∧ (s.clearPex).rgu = s.rgu ∧ (s.clearPex).ltu = s.ltu ∧ (s.clearPex).brx = s.brx ∧
    (s.clearPex).dsq = s.dsq ∧ (s.clearPex).evw = s.evw ∧ (s.clearPex).pct = s.pct ∧ (s.clearPex).links = s.links ∧
    (s.clearPex).sram = s.sram ∧ (s.clearPex).pending = s.pending := by
  unfold State.clearPex
  exact ⟨(foldl_keeps _ State.records (fun t a => by simp) _ _),
    (foldl_keeps _ State.header (fun t a => by simp) _ _),
    (foldl_keeps _ State.counters (fun t a => by simp) _ _),
    (foldl_keeps _ State.dsu (fun t a => by simp) _ _),
    (foldl_keeps _ State.rgu (fun t a => by simp) _ _),
    (foldl_keeps _ State.ltu (fun t a => by simp) _ _),
    (foldl_keeps _ State.brx (fun t a => by simp) _ _),
    (foldl_keeps _ State.dsq (fun t a => by simp) _ _),
    (foldl_keeps _ State.evw (fun t a => by simp) _ _),
    (foldl_keeps _ State.pct (fun t a => by simp) _ _),
    (foldl_keeps _ State.links (fun t a => by simp) _ _),
    (foldl_keeps _ State.sram (fun t a => by simp) _ _),
    (foldl_keeps _ State.pending (fun t a => by simp) _ _)⟩

@[simp] theorem State.closeAttemptOf_frame (i : RecIx) :
    (s.closeAttemptOf i).records = s.records ∧ (s.closeAttemptOf i).header = s.header ∧
    (s.closeAttemptOf i).counters = s.counters ∧ (s.closeAttemptOf i).dsu = s.dsu ∧ (s.closeAttemptOf i).pex = s.pex ∧
    (s.closeAttemptOf i).ltu = s.ltu ∧ (s.closeAttemptOf i).brx = s.brx ∧ (s.closeAttemptOf i).dsq = s.dsq ∧
    (s.closeAttemptOf i).evw = s.evw ∧ (s.closeAttemptOf i).pct = s.pct ∧ (s.closeAttemptOf i).bpt = s.bpt ∧
    (s.closeAttemptOf i).links = s.links ∧ (s.closeAttemptOf i).sram = s.sram ∧
    (s.closeAttemptOf i).pending = s.pending := by
  obtain ⟨t, h⟩ : ∃ t, s.closeAttemptOf i = t := ⟨_, rfl⟩
  rw [h]
  unfold State.closeAttemptOf at h
  try dsimp only at h
  (repeat' split at h) <;> subst h <;> simp

@[simp] theorem State.dropRanging_frame (i : RecIx) :
    (s.dropRanging i).records = s.records ∧ (s.dropRanging i).header = s.header ∧
    (s.dropRanging i).counters = s.counters ∧ (s.dropRanging i).dsu = s.dsu ∧ (s.dropRanging i).pex = s.pex ∧
    (s.dropRanging i).evw = s.evw ∧ (s.dropRanging i).pct = s.pct ∧ (s.dropRanging i).bpt = s.bpt ∧
    (s.dropRanging i).sram = s.sram ∧ (s.dropRanging i).pending = s.pending := by
  obtain ⟨t, h⟩ : ∃ t, s.dropRanging i = t := ⟨_, rfl⟩
  rw [h]
  unfold State.dropRanging at h
  try dsimp only at h
  (repeat' split at h) <;> subst h <;> simp

@[simp] theorem State.dropPush_frame (i : RecIx) :
    (s.dropPush i).header = s.header ∧ (s.dropPush i).dsu = s.dsu ∧ (s.dropPush i).rgu = s.rgu ∧
    (s.dropPush i).ltu = s.ltu ∧ (s.dropPush i).brx = s.brx ∧ (s.dropPush i).pct = s.pct ∧
    (s.dropPush i).links = s.links ∧ (s.dropPush i).sram = s.sram ∧ (s.dropPush i).pending = s.pending := by
  obtain ⟨t, h⟩ : ∃ t, s.dropPush i = t := ⟨_, rfl⟩
  rw [h]
  unfold State.dropPush at h
  try dsimp only at h
  (repeat' split at h) <;> subst h <;> simp

@[simp] theorem State.abandonWork_frame (i : RecIx) :
    (s.abandonWork i).header = s.header ∧ (s.abandonWork i).dsu = s.dsu ∧ (s.abandonWork i).pct = s.pct ∧
    (s.abandonWork i).sram = s.sram ∧ (s.abandonWork i).pending = s.pending := by
  simp [State.abandonWork]

@[simp] theorem State.release_frame (i : RecIx) (d : RelDest) (why : ChangeReason) (f : Option FailReason) :
    (s.release i d why f).header = s.header ∧ (s.release i d why f).dsu = s.dsu ∧ (s.release i d why f).pct = s.pct ∧
    (s.release i d why f).sram = s.sram ∧ (s.release i d why f).pending = s.pending := by
  simp [State.release]

@[simp] theorem State.fail_frame (i : RecIx) (f : FailReason) :
    (s.fail i f).header = s.header ∧ (s.fail i f).dsu = s.dsu ∧ (s.fail i f).pct = s.pct ∧
    (s.fail i f).sram = s.sram ∧ (s.fail i f).pending = s.pending := by
  simp [State.fail]

@[simp] theorem State.enterEmpty_frame (i : RecIx) (why : ChangeReason) :
    (s.enterEmpty i why).header = s.header ∧ (s.enterEmpty i why).dsu = s.dsu ∧ (s.enterEmpty i why).rgu = s.rgu ∧
    (s.enterEmpty i why).pex = s.pex ∧ (s.enterEmpty i why).ltu = s.ltu ∧ (s.enterEmpty i why).brx = s.brx ∧
    (s.enterEmpty i why).dsq = s.dsq ∧ (s.enterEmpty i why).pct = s.pct ∧ (s.enterEmpty i why).bpt = s.bpt ∧
    (s.enterEmpty i why).links = s.links ∧ (s.enterEmpty i why).sram = s.sram ∧
    (s.enterEmpty i why).pending = s.pending := by
  simp [State.enterEmpty]

@[simp] theorem State.queuePark_frame (x : Serial) (r : Byte) :
    (s.queuePark x r).records = s.records ∧ (s.queuePark x r).header = s.header ∧ (s.queuePark x r).rgu = s.rgu ∧
    (s.queuePark x r).pex = s.pex ∧ (s.queuePark x r).ltu = s.ltu ∧ (s.queuePark x r).brx = s.brx ∧
    (s.queuePark x r).dsq = s.dsq ∧ (s.queuePark x r).evw = s.evw ∧ (s.queuePark x r).pct = s.pct ∧
    (s.queuePark x r).bpt = s.bpt ∧ (s.queuePark x r).links = s.links ∧ (s.queuePark x r).sram = s.sram ∧
    (s.queuePark x r).pending = s.pending := by
  obtain ⟨t, h⟩ : ∃ t, s.queuePark x r = t := ⟨_, rfl⟩
  rw [h]
  unfold State.queuePark at h
  try dsimp only at h
  (repeat' split at h) <;> subst h <;> simp

@[simp] theorem State.admission_frame (i : RecIx) :
    (s.admission i).header = s.header ∧ (s.admission i).rgu = s.rgu ∧ (s.admission i).pex = s.pex ∧
    (s.admission i).ltu = s.ltu ∧ (s.admission i).brx = s.brx ∧ (s.admission i).dsq = s.dsq ∧
    (s.admission i).pct = s.pct ∧ (s.admission i).bpt = s.bpt ∧ (s.admission i).links = s.links ∧
    (s.admission i).sram = s.sram ∧ (s.admission i).pending = s.pending := by
  obtain ⟨t, h⟩ : ∃ t, s.admission i = t := ⟨_, rfl⟩
  rw [h]
  unfold State.admission at h
  try dsimp only at h
  (repeat' split at h) <;> subst h <;> simp

@[simp] theorem State.actAdmit_frame (i : RecIx) :
    (s.actAdmit i).header = s.header ∧ (s.actAdmit i).rgu = s.rgu ∧ (s.actAdmit i).pex = s.pex ∧
    (s.actAdmit i).ltu = s.ltu ∧ (s.actAdmit i).brx = s.brx ∧ (s.actAdmit i).dsq = s.dsq ∧
    (s.actAdmit i).pct = s.pct ∧ (s.actAdmit i).bpt = s.bpt ∧ (s.actAdmit i).links = s.links ∧
    (s.actAdmit i).sram = s.sram ∧ (s.actAdmit i).pending = s.pending := by
  obtain ⟨t, h⟩ : ∃ t, s.actAdmit i = t := ⟨_, rfl⟩
  rw [h]
  unfold State.actAdmit at h
  try dsimp only at h
  (repeat' split at h) <;> subst h <;> simp

@[simp] theorem State.actHold_frame (i : RecIx) :
    (s.actHold i).header = s.header ∧ (s.actHold i).dsu = s.dsu ∧ (s.actHold i).pct = s.pct ∧
    (s.actHold i).sram = s.sram ∧ (s.actHold i).pending = s.pending := by
  obtain ⟨t, h⟩ : ∃ t, s.actHold i = t := ⟨_, rfl⟩
  rw [h]
  unfold State.actHold at h
  try dsimp only at h
  (repeat' split at h) <;> subst h <;> simp

@[simp] theorem State.actVacant_frame (i : RecIx) :
    (s.actVacant i).header = s.header ∧ (s.actVacant i).dsu = s.dsu ∧ (s.actVacant i).pct = s.pct ∧
    (s.actVacant i).sram = s.sram ∧ (s.actVacant i).pending = s.pending := by
  obtain ⟨t, h⟩ : ∃ t, s.actVacant i = t := ⟨_, rfl⟩
  rw [h]
  unfold State.actVacant at h
  try dsimp only at h
  (repeat' split at h) <;> subst h <;> simp

@[simp] theorem State.actIntent_frame (i : RecIx) :
    (s.actIntent i).header = s.header ∧ (s.actIntent i).pct = s.pct ∧ (s.actIntent i).sram = s.sram ∧
    (s.actIntent i).pending = s.pending := by
  obtain ⟨t, h⟩ : ∃ t, s.actIntent i = t := ⟨_, rfl⟩
  rw [h]
  unfold State.actIntent at h
  try dsimp only at h
  (repeat' split at h) <;> subst h <;> simp

@[simp] theorem State.actAllIntents_frame :
    (s.actAllIntents).header = s.header ∧ (s.actAllIntents).pct = s.pct ∧ (s.actAllIntents).sram = s.sram ∧
    (s.actAllIntents).pending = s.pending := by
  unfold State.actAllIntents
  exact ⟨(foldl_keeps _ State.header (fun t a => by simp) _ _),
    (foldl_keeps _ State.pct (fun t a => by simp) _ _),
    (foldl_keeps _ State.sram (fun t a => by simp) _ _),
    (foldl_keeps _ State.pending (fun t a => by simp) _ _)⟩

@[simp] theorem State.enterSettling_frame (i : RecIx) (why : ChangeReason) :
    (s.enterSettling i why).header = s.header ∧ (s.enterSettling i why).dsu = s.dsu ∧
    (s.enterSettling i why).pex = s.pex ∧ (s.enterSettling i why).ltu = s.ltu ∧ (s.enterSettling i why).brx = s.brx ∧
    (s.enterSettling i why).pct = s.pct ∧ (s.enterSettling i why).bpt = s.bpt ∧
    (s.enterSettling i why).links = s.links ∧ (s.enterSettling i why).sram = s.sram ∧
    (s.enterSettling i why).pending = s.pending := by
  simp [State.enterSettling]

@[simp] theorem State.returnRecord_frame (i : RecIx) :
    (s.returnRecord i).header = s.header ∧ (s.returnRecord i).dsu = s.dsu ∧ (s.returnRecord i).rgu = s.rgu ∧
    (s.returnRecord i).pex = s.pex ∧ (s.returnRecord i).ltu = s.ltu ∧ (s.returnRecord i).brx = s.brx ∧
    (s.returnRecord i).dsq = s.dsq ∧ (s.returnRecord i).pct = s.pct ∧ (s.returnRecord i).bpt = s.bpt ∧
    (s.returnRecord i).links = s.links ∧ (s.returnRecord i).sram = s.sram ∧ (s.returnRecord i).pending = s.pending := by
  obtain ⟨t, h⟩ : ∃ t, s.returnRecord i = t := ⟨_, rfl⟩
  rw [h]
  unfold State.returnRecord at h
  try dsimp only at h
  (repeat' split at h) <;> subst h <;> simp

@[simp] theorem State.endAllWork_frame :
    (s.endAllWork).records = s.records ∧ (s.endAllWork).header = s.header ∧ (s.endAllWork).counters = s.counters ∧
    (s.endAllWork).evw = s.evw ∧ (s.endAllWork).pct = s.pct ∧ (s.endAllWork).sram = s.sram ∧
    (s.endAllWork).pending = s.pending := by
  simp [State.endAllWork]

@[simp] theorem State.portReturn_frame :
    (s.portReturn).header = s.header ∧ (s.portReturn).pct = s.pct ∧ (s.portReturn).sram = s.sram ∧
    (s.portReturn).pending = s.pending := by
  unfold State.portReturn
  exact ⟨(foldl_keeps _ State.header (fun t a => by simp) _ _).trans (by simp),
    (foldl_keeps _ State.pct (fun t a => by simp) _ _).trans (by simp),
    (foldl_keeps _ State.sram (fun t a => by simp) _ _).trans (by simp),
    (foldl_keeps _ State.pending (fun t a => by simp) _ _).trans (by simp)⟩

@[simp] theorem State.markGarbled_frame (id : Interval) :
    (s.markGarbled id).records = s.records ∧ (s.markGarbled id).header = s.header ∧
    (s.markGarbled id).counters = s.counters ∧ (s.markGarbled id).rgu = s.rgu ∧ (s.markGarbled id).pex = s.pex ∧
    (s.markGarbled id).ltu = s.ltu ∧ (s.markGarbled id).brx = s.brx ∧ (s.markGarbled id).dsq = s.dsq ∧
    (s.markGarbled id).evw = s.evw ∧ (s.markGarbled id).pct = s.pct ∧ (s.markGarbled id).bpt = s.bpt ∧
    (s.markGarbled id).links = s.links ∧ (s.markGarbled id).sram = s.sram ∧ (s.markGarbled id).pending = s.pending := by
  obtain ⟨t, h⟩ : ∃ t, s.markGarbled id = t := ⟨_, rfl⟩
  rw [h]
  unfold State.markGarbled at h
  try dsimp only at h
  (repeat' split at h) <;> subst h <;> simp

@[simp] theorem State.parkSerial_frame (x : Serial) :
    (s.parkSerial x).records = s.records ∧ (s.parkSerial x).header = s.header ∧ (s.parkSerial x).rgu = s.rgu ∧
    (s.parkSerial x).pex = s.pex ∧ (s.parkSerial x).ltu = s.ltu ∧ (s.parkSerial x).brx = s.brx ∧
    (s.parkSerial x).dsq = s.dsq ∧ (s.parkSerial x).evw = s.evw ∧ (s.parkSerial x).pct = s.pct ∧
    (s.parkSerial x).bpt = s.bpt ∧ (s.parkSerial x).links = s.links ∧ (s.parkSerial x).sram = s.sram ∧
    (s.parkSerial x).pending = s.pending := by
  obtain ⟨t, h⟩ : ∃ t, s.parkSerial x = t := ⟨_, rfl⟩
  rw [h]
  unfold State.parkSerial at h
  try dsimp only at h
  (repeat' split at h) <;> subst h <;> simp

@[simp] theorem State.listStranger_frame (x : Serial) (c : Conv) (r : Nat) :
    (s.listStranger x c r).records = s.records ∧ (s.listStranger x c r).header = s.header ∧
    (s.listStranger x c r).rgu = s.rgu ∧ (s.listStranger x c r).pex = s.pex ∧ (s.listStranger x c r).ltu = s.ltu ∧
    (s.listStranger x c r).brx = s.brx ∧ (s.listStranger x c r).dsq = s.dsq ∧ (s.listStranger x c r).pct = s.pct ∧
    (s.listStranger x c r).bpt = s.bpt ∧ (s.listStranger x c r).links = s.links ∧
    (s.listStranger x c r).sram = s.sram ∧ (s.listStranger x c r).pending = s.pending := by
  obtain ⟨t, h⟩ : ∃ t, s.listStranger x c r = t := ⟨_, rfl⟩
  rw [h]
  unfold State.listStranger at h
  try dsimp only at h
  (repeat' split at h) <;> subst h <;> simp

@[simp] theorem State.reappear_frame (i : RecIx) (c : Conv) (r : Nat) :
    (s.reappear i c r).header = s.header ∧ (s.reappear i c r).dsu = s.dsu ∧ (s.reappear i c r).pct = s.pct ∧
    (s.reappear i c r).sram = s.sram ∧ (s.reappear i c r).pending = s.pending := by
  simp [State.reappear]

@[simp] theorem State.helloLive_frame (i : RecIx) (c : Conv) (r : Nat) :
    (s.helloLive i c r).header = s.header ∧ (s.helloLive i c r).dsu = s.dsu ∧ (s.helloLive i c r).pct = s.pct ∧
    (s.helloLive i c r).sram = s.sram ∧ (s.helloLive i c r).pending = s.pending := by
  obtain ⟨t, h⟩ : ∃ t, s.helloLive i c r = t := ⟨_, rfl⟩
  rw [h]
  unfold State.helloLive at h
  try dsimp only at h
  (repeat' split at h) <;> subst h <;> simp

@[simp] theorem State.matchHello_frame (x : Serial) (c : Conv) (r : Nat) :
    (s.matchHello x c r).header = s.header ∧ (s.matchHello x c r).pct = s.pct ∧ (s.matchHello x c r).sram = s.sram ∧
    (s.matchHello x c r).pending = s.pending := by
  obtain ⟨t, h⟩ : ∃ t, s.matchHello x c r = t := ⟨_, rfl⟩
  rw [h]
  unfold State.matchHello at h
  try dsimp only at h
  (repeat' split at h) <;> subst h <;> simp

@[simp] theorem State.duplicateHello_frame (w : DiscWindow) (e : Seen) :
    (s.duplicateHello w e).records = s.records ∧ (s.duplicateHello w e).header = s.header ∧
    (s.duplicateHello w e).rgu = s.rgu ∧ (s.duplicateHello w e).pex = s.pex ∧ (s.duplicateHello w e).ltu = s.ltu ∧
    (s.duplicateHello w e).brx = s.brx ∧ (s.duplicateHello w e).dsq = s.dsq ∧ (s.duplicateHello w e).pct = s.pct ∧
    (s.duplicateHello w e).bpt = s.bpt ∧ (s.duplicateHello w e).links = s.links ∧
    (s.duplicateHello w e).sram = s.sram ∧ (s.duplicateHello w e).pending = s.pending := by
  obtain ⟨t, h⟩ : ∃ t, s.duplicateHello w e = t := ⟨_, rfl⟩
  rw [h]
  unfold State.duplicateHello at h
  try dsimp only at h
  (repeat' split at h) <;> subst h <;> simp

@[simp] theorem State.helloInWindow_frame (w : DiscWindow) (c : Capture) :
    (s.helloInWindow w c).header = s.header ∧ (s.helloInWindow w c).pct = s.pct ∧
    (s.helloInWindow w c).sram = s.sram ∧ (s.helloInWindow w c).pending = s.pending := by
  obtain ⟨t, h⟩ : ∃ t, s.helloInWindow w c = t := ⟨_, rfl⟩
  rw [h]
  unfold State.helloInWindow at h
  try dsimp only at h
  (repeat' split at h) <;> subst h <;> simp

@[simp] theorem State.handleHello_frame (c : Capture) :
    (s.handleHello c).header = s.header ∧ (s.handleHello c).pct = s.pct ∧ (s.handleHello c).sram = s.sram ∧
    (s.handleHello c).pending = s.pending := by
  obtain ⟨t, h⟩ : ∃ t, s.handleHello c = t := ⟨_, rfl⟩
  rw [h]
  unfold State.handleHello at h
  try dsimp only at h
  (repeat' split at h) <;> subst h <;> simp

@[simp] theorem State.completeRound_frame (w : DiscWindow) :
    (s.completeRound w).records = s.records ∧ (s.completeRound w).header = s.header ∧
    (s.completeRound w).rgu = s.rgu ∧ (s.completeRound w).pex = s.pex ∧ (s.completeRound w).ltu = s.ltu ∧
    (s.completeRound w).brx = s.brx ∧ (s.completeRound w).dsq = s.dsq ∧ (s.completeRound w).evw = s.evw ∧
    (s.completeRound w).pct = s.pct ∧ (s.completeRound w).bpt = s.bpt ∧ (s.completeRound w).links = s.links ∧
    (s.completeRound w).sram = s.sram ∧ (s.completeRound w).pending = s.pending := by
  simp [State.completeRound]

@[simp] theorem State.pop_frame :
    (s.pop).records = s.records ∧ (s.pop).header = s.header ∧ (s.pop).counters = s.counters ∧ (s.pop).rgu = s.rgu ∧
    (s.pop).pex = s.pex ∧ (s.pop).ltu = s.ltu ∧ (s.pop).brx = s.brx ∧ (s.pop).dsq = s.dsq ∧ (s.pop).evw = s.evw ∧
    (s.pop).pct = s.pct ∧ (s.pop).bpt = s.bpt ∧ (s.pop).links = s.links ∧ (s.pop).sram = s.sram ∧
    (s.pop).pending = s.pending := by
  obtain ⟨t, h⟩ : ∃ t, s.pop = t := ⟨_, rfl⟩
  rw [h]
  unfold State.pop at h
  try dsimp only at h
  (repeat' split at h) <;> subst h <;> simp

@[simp] theorem State.prepareDiscovery_frame :
    (s.prepareDiscovery).records = s.records ∧ (s.prepareDiscovery).counters = s.counters ∧
    (s.prepareDiscovery).rgu = s.rgu ∧ (s.prepareDiscovery).pex = s.pex ∧ (s.prepareDiscovery).ltu = s.ltu ∧
    (s.prepareDiscovery).brx = s.brx ∧ (s.prepareDiscovery).dsq = s.dsq ∧ (s.prepareDiscovery).evw = s.evw ∧
    (s.prepareDiscovery).pct = s.pct ∧ (s.prepareDiscovery).bpt = s.bpt ∧ (s.prepareDiscovery).links = s.links ∧
    (s.prepareDiscovery).sram = s.sram ∧ (s.prepareDiscovery).pending = s.pending := by
  simp [State.prepareDiscovery]

@[simp] theorem State.startAttempt_frame (i : RecIx) :
    (s.startAttempt i).header = s.header ∧ (s.startAttempt i).counters = s.counters ∧ (s.startAttempt i).dsu = s.dsu ∧
    (s.startAttempt i).pex = s.pex ∧ (s.startAttempt i).ltu = s.ltu ∧ (s.startAttempt i).brx = s.brx ∧
    (s.startAttempt i).dsq = s.dsq ∧ (s.startAttempt i).evw = s.evw ∧ (s.startAttempt i).pct = s.pct ∧
    (s.startAttempt i).bpt = s.bpt ∧ (s.startAttempt i).links = s.links ∧ (s.startAttempt i).sram = s.sram ∧
    (s.startAttempt i).pending = s.pending := by
  simp [State.startAttempt]

@[simp] theorem State.endFilled_frame (id : Interval) :
    (s.endFilled id).records = s.records ∧ (s.endFilled id).header = s.header ∧ (s.endFilled id).counters = s.counters ∧
    (s.endFilled id).dsu = s.dsu ∧ (s.endFilled id).rgu = s.rgu ∧ (s.endFilled id).pex = s.pex ∧ (s.endFilled id).dsq = s.dsq ∧
    (s.endFilled id).evw = s.evw ∧ (s.endFilled id).pct = s.pct ∧ (s.endFilled id).bpt = s.bpt ∧ (s.endFilled id).sram = s.sram ∧
    (s.endFilled id).pending = s.pending := by
  obtain ⟨t, h⟩ : ∃ t, s.endFilled id = t := ⟨_, rfl⟩
  rw [h]
  unfold State.endFilled at h
  try dsimp only at h
  (repeat' split at h) <;> subst h <;> simp

@[simp] theorem State.echoInAttempt_frame (a : Attempt) (c : Capture) :
    (s.echoInAttempt a c).records = s.records ∧ (s.echoInAttempt a c).header = s.header ∧
    (s.echoInAttempt a c).dsu = s.dsu ∧ (s.echoInAttempt a c).pex = s.pex ∧ (s.echoInAttempt a c).dsq = s.dsq ∧
    (s.echoInAttempt a c).evw = s.evw ∧ (s.echoInAttempt a c).pct = s.pct ∧ (s.echoInAttempt a c).bpt = s.bpt ∧
    (s.echoInAttempt a c).sram = s.sram ∧ (s.echoInAttempt a c).pending = s.pending := by
  obtain ⟨t, h⟩ : ∃ t, s.echoInAttempt a c = t := ⟨_, rfl⟩
  rw [h]
  unfold State.echoInAttempt at h
  try dsimp only at h
  (repeat' split at h) <;> subst h <;> simp

@[simp] theorem State.handleEcho_frame (c : Capture) :
    (s.handleEcho c).records = s.records ∧ (s.handleEcho c).header = s.header ∧ (s.handleEcho c).dsu = s.dsu ∧
    (s.handleEcho c).pex = s.pex ∧ (s.handleEcho c).dsq = s.dsq ∧ (s.handleEcho c).evw = s.evw ∧
    (s.handleEcho c).pct = s.pct ∧ (s.handleEcho c).bpt = s.bpt ∧ (s.handleEcho c).sram = s.sram ∧
    (s.handleEcho c).pending = s.pending := by
  obtain ⟨t, h⟩ : ∃ t, s.handleEcho c = t := ⟨_, rfl⟩
  rw [h]
  unfold State.handleEcho at h
  try dsimp only at h
  (repeat' split at h) <;> subst h <;> simp

@[simp] theorem State.judge_frame (a : Attempt) :
    (s.judge a).records = s.records ∧ (s.judge a).header = s.header ∧ (s.judge a).dsu = s.dsu ∧
    (s.judge a).pex = s.pex ∧ (s.judge a).ltu = s.ltu ∧ (s.judge a).brx = s.brx ∧ (s.judge a).dsq = s.dsq ∧
    (s.judge a).evw = s.evw ∧ (s.judge a).pct = s.pct ∧ (s.judge a).bpt = s.bpt ∧ (s.judge a).links = s.links ∧
    (s.judge a).sram = s.sram ∧ (s.judge a).pending = s.pending := by
  simp [State.judge]

@[simp] theorem State.countAttempt_frame (i : RecIx) (why : ChangeReason) :
    (s.countAttempt i why).header = s.header ∧ (s.countAttempt i why).dsu = s.dsu ∧
    (s.countAttempt i why).pct = s.pct ∧ (s.countAttempt i why).sram = s.sram ∧
    (s.countAttempt i why).pending = s.pending := by
  obtain ⟨t, h⟩ : ∃ t, s.countAttempt i why = t := ⟨_, rfl⟩
  rw [h]
  unfold State.countAttempt at h
  try dsimp only at h
  (repeat' split at h) <;> subst h <;> simp

@[simp] theorem State.applyRanging_frame (i : RecIx) (o : RangingOutcome) :
    (s.applyRanging i o).header = s.header ∧ (s.applyRanging i o).dsu = s.dsu ∧ (s.applyRanging i o).pct = s.pct ∧
    (s.applyRanging i o).sram = s.sram ∧ (s.applyRanging i o).pending = s.pending := by
  obtain ⟨t, h⟩ : ∃ t, s.applyRanging i o = t := ⟨_, rfl⟩
  rw [h]
  unfold State.applyRanging at h
  try dsimp only at h
  (repeat' split at h) <;> subst h <;> simp

@[simp] theorem State.applySettle_frame (i : RecIx) (x : Settle) (o : SettleOutcome) :
    (s.applySettle i x o).header = s.header ∧ (s.applySettle i x o).dsu = s.dsu ∧ (s.applySettle i x o).pct = s.pct ∧
    (s.applySettle i x o).sram = s.sram ∧ (s.applySettle i x o).pending = s.pending := by
  obtain ⟨t, h⟩ : ∃ t, s.applySettle i x o = t := ⟨_, rfl⟩
  rw [h]
  unfold State.applySettle at h
  try dsimp only at h
  (repeat' split at h) <;> subst h <;> simp

@[simp] theorem State.reportSettle_frame (i : RecIx) (x : Settle) (o : SettleOutcome) (g : SettleStage) :
    (s.reportSettle i x o g).records = s.records ∧ (s.reportSettle i x o g).header = s.header ∧
    (s.reportSettle i x o g).counters = s.counters ∧ (s.reportSettle i x o g).dsu = s.dsu ∧
    (s.reportSettle i x o g).pex = s.pex ∧ (s.reportSettle i x o g).ltu = s.ltu ∧
    (s.reportSettle i x o g).brx = s.brx ∧ (s.reportSettle i x o g).dsq = s.dsq ∧
    (s.reportSettle i x o g).evw = s.evw ∧ (s.reportSettle i x o g).pct = s.pct ∧
    (s.reportSettle i x o g).bpt = s.bpt ∧ (s.reportSettle i x o g).links = s.links ∧
    (s.reportSettle i x o g).sram = s.sram ∧ (s.reportSettle i x o g).pending = s.pending := by
  simp [State.reportSettle]

@[simp] theorem State.askAgain_frame (i : RecIx) (x : Settle) :
    (s.askAgain i x).records = s.records ∧ (s.askAgain i x).header = s.header ∧
    (s.askAgain i x).counters = s.counters ∧ (s.askAgain i x).dsu = s.dsu ∧ (s.askAgain i x).pex = s.pex ∧
    (s.askAgain i x).ltu = s.ltu ∧ (s.askAgain i x).brx = s.brx ∧ (s.askAgain i x).evw = s.evw ∧
    (s.askAgain i x).pct = s.pct ∧ (s.askAgain i x).bpt = s.bpt ∧ (s.askAgain i x).links = s.links ∧
    (s.askAgain i x).sram = s.sram ∧ (s.askAgain i x).pending = s.pending := by
  simp [State.askAgain]

@[simp] theorem State.settleReply_frame (i : RecIx) (x : Settle) (n j : Nat) (c : Capture) :
    (s.settleReply i x n j c).records = s.records ∧ (s.settleReply i x n j c).header = s.header ∧
    (s.settleReply i x n j c).counters = s.counters ∧ (s.settleReply i x n j c).dsu = s.dsu ∧
    (s.settleReply i x n j c).pex = s.pex ∧ (s.settleReply i x n j c).evw = s.evw ∧
    (s.settleReply i x n j c).pct = s.pct ∧ (s.settleReply i x n j c).bpt = s.bpt ∧
    (s.settleReply i x n j c).links = s.links ∧ (s.settleReply i x n j c).sram = s.sram ∧
    (s.settleReply i x n j c).pending = s.pending := by
  obtain ⟨t, h⟩ : ∃ t, s.settleReply i x n j c = t := ⟨_, rfl⟩
  rw [h]
  unfold State.settleReply at h
  try dsimp only at h
  (repeat' split at h) <;> subst h <;> simp

@[simp] theorem State.handleSettle_frame (c : Capture) :
    (s.handleSettle c).records = s.records ∧ (s.handleSettle c).header = s.header ∧ (s.handleSettle c).dsu = s.dsu ∧
    (s.handleSettle c).pex = s.pex ∧ (s.handleSettle c).evw = s.evw ∧ (s.handleSettle c).pct = s.pct ∧
    (s.handleSettle c).bpt = s.bpt ∧ (s.handleSettle c).links = s.links ∧ (s.handleSettle c).sram = s.sram ∧
    (s.handleSettle c).pending = s.pending := by
  obtain ⟨t, h⟩ : ∃ t, s.handleSettle c = t := ⟨_, rfl⟩
  rw [h]
  unfold State.handleSettle at h
  try dsimp only at h
  (repeat' split at h) <;> subst h <;> simp

@[simp] theorem State.settleMiss_frame (i : RecIx) :
    (s.settleMiss i).records = s.records ∧ (s.settleMiss i).header = s.header ∧
    (s.settleMiss i).counters = s.counters ∧ (s.settleMiss i).dsu = s.dsu ∧ (s.settleMiss i).pex = s.pex ∧
    (s.settleMiss i).ltu = s.ltu ∧ (s.settleMiss i).brx = s.brx ∧ (s.settleMiss i).evw = s.evw ∧
    (s.settleMiss i).pct = s.pct ∧ (s.settleMiss i).bpt = s.bpt ∧ (s.settleMiss i).links = s.links ∧
    (s.settleMiss i).sram = s.sram ∧ (s.settleMiss i).pending = s.pending := by
  obtain ⟨t, h⟩ : ∃ t, s.settleMiss i = t := ⟨_, rfl⟩
  rw [h]
  unfold State.settleMiss at h
  try dsimp only at h
  (repeat' split at h) <;> subst h <;> simp

@[simp] theorem State.restartSettle_frame (i : RecIx) :
    (s.restartSettle i).records = s.records ∧ (s.restartSettle i).header = s.header ∧
    (s.restartSettle i).counters = s.counters ∧ (s.restartSettle i).dsu = s.dsu ∧ (s.restartSettle i).pex = s.pex ∧
    (s.restartSettle i).ltu = s.ltu ∧ (s.restartSettle i).brx = s.brx ∧ (s.restartSettle i).evw = s.evw ∧
    (s.restartSettle i).pct = s.pct ∧ (s.restartSettle i).bpt = s.bpt ∧ (s.restartSettle i).links = s.links ∧
    (s.restartSettle i).sram = s.sram ∧ (s.restartSettle i).pending = s.pending := by
  simp [State.restartSettle]

@[simp] theorem State.handleBlockReply_frame (c : Capture) :
    (s.handleBlockReply c).header = s.header ∧ (s.handleBlockReply c).dsu = s.dsu ∧
    (s.handleBlockReply c).rgu = s.rgu ∧ (s.handleBlockReply c).evw = s.evw ∧ (s.handleBlockReply c).pct = s.pct ∧
    (s.handleBlockReply c).links = s.links ∧ (s.handleBlockReply c).sram = s.sram ∧
    (s.handleBlockReply c).pending = s.pending := by
  obtain ⟨t, h⟩ : ∃ t, s.handleBlockReply c = t := ⟨_, rfl⟩
  rw [h]
  unfold State.handleBlockReply at h
  try dsimp only at h
  (repeat' split at h) <;> subst h <;> simp

@[simp] theorem State.applyPush_frame (i : RecIx) (ch : ChanIx) (o : PushOutcome) :
    (s.applyPush i ch o).header = s.header ∧ (s.applyPush i ch o).dsu = s.dsu ∧ (s.applyPush i ch o).pct = s.pct ∧
    (s.applyPush i ch o).sram = s.sram ∧ (s.applyPush i ch o).pending = s.pending := by
  obtain ⟨t, h⟩ : ∃ t, s.applyPush i ch o = t := ⟨_, rfl⟩
  rw [h]
  unfold State.applyPush at h
  try dsimp only at h
  (repeat' split at h) <;> subst h <;> simp

@[simp] theorem State.ask_frame (p : Purpose) (n : Nat) :
    (s.ask p n).records = s.records ∧ (s.ask p n).header = s.header ∧ (s.ask p n).dsu = s.dsu ∧
    (s.ask p n).rgu = s.rgu ∧ (s.ask p n).pex = s.pex ∧ (s.ask p n).brx = s.brx ∧ (s.ask p n).dsq = s.dsq ∧
    (s.ask p n).evw = s.evw ∧ (s.ask p n).pct = s.pct ∧ (s.ask p n).bpt = s.bpt ∧ (s.ask p n).sram = s.sram ∧
    (s.ask p n).pending = s.pending := by
  simp [State.ask]

@[simp] theorem State.grantRanging_frame (i : RecIx) :
    (s.grantRanging i).header = s.header ∧ (s.grantRanging i).dsu = s.dsu ∧ (s.grantRanging i).pex = s.pex ∧
    (s.grantRanging i).brx = s.brx ∧ (s.grantRanging i).dsq = s.dsq ∧ (s.grantRanging i).evw = s.evw ∧
    (s.grantRanging i).pct = s.pct ∧ (s.grantRanging i).bpt = s.bpt ∧ (s.grantRanging i).sram = s.sram ∧
    (s.grantRanging i).pending = s.pending := by
  simp [State.grantRanging]

@[simp] theorem State.grantDiscovery_frame :
    (s.grantDiscovery).records = s.records ∧ (s.grantDiscovery).header = s.header ∧ (s.grantDiscovery).rgu = s.rgu ∧
    (s.grantDiscovery).pex = s.pex ∧ (s.grantDiscovery).brx = s.brx ∧ (s.grantDiscovery).dsq = s.dsq ∧
    (s.grantDiscovery).evw = s.evw ∧ (s.grantDiscovery).pct = s.pct ∧ (s.grantDiscovery).bpt = s.bpt ∧
    (s.grantDiscovery).sram = s.sram ∧ (s.grantDiscovery).pending = s.pending := by
  simp [State.grantDiscovery]

@[simp] theorem State.arbitrate_frame :
    (s.arbitrate).header = s.header ∧ (s.arbitrate).pex = s.pex ∧ (s.arbitrate).brx = s.brx ∧
    (s.arbitrate).dsq = s.dsq ∧ (s.arbitrate).evw = s.evw ∧ (s.arbitrate).pct = s.pct ∧ (s.arbitrate).bpt = s.bpt ∧
    (s.arbitrate).sram = s.sram ∧ (s.arbitrate).pending = s.pending := by
  obtain ⟨t, h⟩ : ∃ t, s.arbitrate = t := ⟨_, rfl⟩
  rw [h]
  unfold State.arbitrate at h
  try dsimp only at h
  (repeat' split at h) <;> subst h <;> simp

@[simp] theorem State.requeueAsks_frame :
    (s.requeueAsks).records = s.records ∧ (s.requeueAsks).header = s.header ∧ (s.requeueAsks).counters = s.counters ∧
    (s.requeueAsks).dsu = s.dsu ∧ (s.requeueAsks).pex = s.pex ∧ (s.requeueAsks).ltu = s.ltu ∧
    (s.requeueAsks).brx = s.brx ∧ (s.requeueAsks).evw = s.evw ∧ (s.requeueAsks).pct = s.pct ∧
    (s.requeueAsks).bpt = s.bpt ∧ (s.requeueAsks).links = s.links ∧ (s.requeueAsks).sram = s.sram ∧
    (s.requeueAsks).pending = s.pending := by
  unfold State.requeueAsks
  exact ⟨(foldl_keeps _ State.records (fun t a => by (repeat' split) <;> simp) _ _),
    (foldl_keeps _ State.header (fun t a => by (repeat' split) <;> simp) _ _),
    (foldl_keeps _ State.counters (fun t a => by (repeat' split) <;> simp) _ _),
    (foldl_keeps _ State.dsu (fun t a => by (repeat' split) <;> simp) _ _),
    (foldl_keeps _ State.pex (fun t a => by (repeat' split) <;> simp) _ _),
    (foldl_keeps _ State.ltu (fun t a => by (repeat' split) <;> simp) _ _),
    (foldl_keeps _ State.brx (fun t a => by (repeat' split) <;> simp) _ _),
    (foldl_keeps _ State.evw (fun t a => by (repeat' split) <;> simp) _ _),
    (foldl_keeps _ State.pct (fun t a => by (repeat' split) <;> simp) _ _),
    (foldl_keeps _ State.bpt (fun t a => by (repeat' split) <;> simp) _ _),
    (foldl_keeps _ State.links (fun t a => by (repeat' split) <;> simp) _ _),
    (foldl_keeps _ State.sram (fun t a => by (repeat' split) <;> simp) _ _),
    (foldl_keeps _ State.pending (fun t a => by (repeat' split) <;> simp) _ _)⟩

@[simp] theorem State.requeueBlocks_frame :
    (s.requeueBlocks).records = s.records ∧ (s.requeueBlocks).header = s.header ∧
    (s.requeueBlocks).counters = s.counters ∧ (s.requeueBlocks).dsu = s.dsu ∧ (s.requeueBlocks).rgu = s.rgu ∧
    (s.requeueBlocks).ltu = s.ltu ∧ (s.requeueBlocks).brx = s.brx ∧ (s.requeueBlocks).evw = s.evw ∧
    (s.requeueBlocks).pct = s.pct ∧ (s.requeueBlocks).bpt = s.bpt ∧ (s.requeueBlocks).links = s.links ∧
    (s.requeueBlocks).sram = s.sram ∧ (s.requeueBlocks).pending = s.pending := by
  unfold State.requeueBlocks
  exact ⟨(foldl_keeps _ State.records (fun t a => by split <;> simp) _ _),
    (foldl_keeps _ State.header (fun t a => by split <;> simp) _ _),
    (foldl_keeps _ State.counters (fun t a => by split <;> simp) _ _),
    (foldl_keeps _ State.dsu (fun t a => by split <;> simp) _ _),
    (foldl_keeps _ State.rgu (fun t a => by split <;> simp) _ _),
    (foldl_keeps _ State.ltu (fun t a => by split <;> simp) _ _),
    (foldl_keeps _ State.brx (fun t a => by split <;> simp) _ _),
    (foldl_keeps _ State.evw (fun t a => by split <;> simp) _ _),
    (foldl_keeps _ State.pct (fun t a => by split <;> simp) _ _),
    (foldl_keeps _ State.bpt (fun t a => by split <;> simp) _ _),
    (foldl_keeps _ State.links (fun t a => by split <;> simp) _ _),
    (foldl_keeps _ State.sram (fun t a => by split <;> simp) _ _),
    (foldl_keeps _ State.pending (fun t a => by split <;> simp) _ _)⟩

@[simp] theorem State.dropTimeline_frame :
    (s.dropTimeline).header = s.header ∧ (s.dropTimeline).counters = s.counters ∧ (s.dropTimeline).pex = s.pex ∧
    (s.dropTimeline).evw = s.evw ∧ (s.dropTimeline).pct = s.pct ∧ (s.dropTimeline).bpt = s.bpt ∧
    (s.dropTimeline).sram = s.sram ∧ (s.dropTimeline).pending = s.pending := by
  simp [State.dropTimeline]

@[simp] theorem State.slip_frame :
    (s.slip).header = s.header ∧ (s.slip).pct = s.pct ∧ (s.slip).bpt = s.bpt ∧ (s.slip).sram = s.sram ∧
    (s.slip).pending = s.pending := by
  simp [State.slip]

@[simp] theorem State.missWindow_frame (w : Window) :
    (s.missWindow w).header = s.header ∧ (s.missWindow w).counters = s.counters ∧ (s.missWindow w).pex = s.pex ∧
    (s.missWindow w).brx = s.brx ∧ (s.missWindow w).evw = s.evw ∧ (s.missWindow w).pct = s.pct ∧
    (s.missWindow w).bpt = s.bpt ∧ (s.missWindow w).sram = s.sram ∧ (s.missWindow w).pending = s.pending := by
  simp [State.missWindow]

@[simp] theorem State.advanceQuiet_frame :
    (s.advanceQuiet).header = s.header ∧ (s.advanceQuiet).pex = s.pex ∧ (s.advanceQuiet).brx = s.brx ∧
    (s.advanceQuiet).evw = s.evw ∧ (s.advanceQuiet).pct = s.pct ∧ (s.advanceQuiet).bpt = s.bpt ∧
    (s.advanceQuiet).sram = s.sram ∧ (s.advanceQuiet).pending = s.pending := by
  obtain ⟨t, h⟩ : ∃ t, s.advanceQuiet = t := ⟨_, rfl⟩
  rw [h]
  unfold State.advanceQuiet at h
  try dsimp only at h
  (repeat' split at h) <;> subst h <;> simp

@[simp] theorem State.cycleStart_frame (c : Cycle) :
    (s.cycleStart c).header = s.header ∧ (s.cycleStart c).pct = s.pct ∧ (s.cycleStart c).bpt = s.bpt ∧
    (s.cycleStart c).sram = s.sram ∧ (s.cycleStart c).pending = s.pending := by
  obtain ⟨t, h⟩ : ∃ t, s.cycleStart c = t := ⟨_, rfl⟩
  rw [h]
  unfold State.cycleStart at h
  try dsimp only at h
  (repeat' split at h) <;> subst h <;> simp

@[simp] theorem State.lineFalls_frame :
    (s.lineFalls).header = s.header ∧ (s.lineFalls).pct = s.pct ∧ (s.lineFalls).sram = s.sram ∧
    (s.lineFalls).pending = s.pending := by
  obtain ⟨t, h⟩ : ∃ t, s.lineFalls = t := ⟨_, rfl⟩
  rw [h]
  unfold State.lineFalls at h
  try dsimp only at h
  (repeat' split at h) <;> subst h <;> simp

@[simp] theorem State.lineRises_frame :
    (s.lineRises).records = s.records ∧ (s.lineRises).header = s.header ∧ (s.lineRises).dsu = s.dsu ∧
    (s.lineRises).rgu = s.rgu ∧ (s.lineRises).pex = s.pex ∧ (s.lineRises).brx = s.brx ∧ (s.lineRises).dsq = s.dsq ∧
    (s.lineRises).pct = s.pct ∧ (s.lineRises).bpt = s.bpt ∧ (s.lineRises).links = s.links ∧
    (s.lineRises).sram = s.sram ∧ (s.lineRises).pending = s.pending := by
  obtain ⟨t, h⟩ : ∃ t, s.lineRises = t := ⟨_, rfl⟩
  rw [h]
  unfold State.lineRises at h
  try dsimp only at h
  (repeat' split at h) <;> subst h <;> simp

@[simp] theorem State.windowGiven_frame (w : Window) :
    (s.windowGiven w).records = s.records ∧ (s.windowGiven w).header = s.header ∧
    (s.windowGiven w).counters = s.counters ∧ (s.windowGiven w).dsu = s.dsu ∧ (s.windowGiven w).pex = s.pex ∧
    (s.windowGiven w).ltu = s.ltu ∧ (s.windowGiven w).brx = s.brx ∧ (s.windowGiven w).evw = s.evw ∧
    (s.windowGiven w).pct = s.pct ∧ (s.windowGiven w).bpt = s.bpt ∧ (s.windowGiven w).links = s.links ∧
    (s.windowGiven w).sram = s.sram ∧ (s.windowGiven w).pending = s.pending := by
  obtain ⟨t, h⟩ : ∃ t, s.windowGiven w = t := ⟨_, rfl⟩
  rw [h]
  unfold State.windowGiven at h
  try dsimp only at h
  (repeat' split at h) <;> subst h <;> simp

@[simp] theorem State.strayAnswer_frame :
    (s.strayAnswer).records = s.records ∧ (s.strayAnswer).header = s.header ∧ (s.strayAnswer).dsu = s.dsu ∧
    (s.strayAnswer).rgu = s.rgu ∧ (s.strayAnswer).pex = s.pex ∧ (s.strayAnswer).ltu = s.ltu ∧
    (s.strayAnswer).brx = s.brx ∧ (s.strayAnswer).dsq = s.dsq ∧ (s.strayAnswer).evw = s.evw ∧
    (s.strayAnswer).pct = s.pct ∧ (s.strayAnswer).bpt = s.bpt ∧ (s.strayAnswer).links = s.links ∧
    (s.strayAnswer).sram = s.sram ∧ (s.strayAnswer).pending = s.pending := by
  simp [State.strayAnswer]

@[simp] theorem State.lateGive_frame (w : Window) (c : Cycle) :
    (s.lateGive w c).header = s.header ∧ (s.lateGive w c).pex = s.pex ∧ (s.lateGive w c).brx = s.brx ∧
    (s.lateGive w c).pct = s.pct ∧ (s.lateGive w c).bpt = s.bpt ∧ (s.lateGive w c).sram = s.sram ∧
    (s.lateGive w c).pending = s.pending := by
  simp [State.lateGive]

@[simp] theorem State.takeGive_frame (c : Cycle) :
    (s.takeGive c).header = s.header ∧ (s.takeGive c).pex = s.pex ∧ (s.takeGive c).brx = s.brx ∧
    (s.takeGive c).pct = s.pct ∧ (s.takeGive c).bpt = s.bpt ∧ (s.takeGive c).sram = s.sram ∧
    (s.takeGive c).pending = s.pending := by
  obtain ⟨t, h⟩ : ∃ t, s.takeGive c = t := ⟨_, rfl⟩
  rw [h]
  unfold State.takeGive at h
  try dsimp only at h
  (repeat' split at h) <;> subst h <;> simp

@[simp] theorem State.takeDeny_frame :
    (s.takeDeny).header = s.header ∧ (s.takeDeny).pex = s.pex ∧ (s.takeDeny).brx = s.brx ∧ (s.takeDeny).pct = s.pct ∧
    (s.takeDeny).bpt = s.bpt ∧ (s.takeDeny).links = s.links ∧ (s.takeDeny).sram = s.sram ∧
    (s.takeDeny).pending = s.pending := by
  obtain ⟨t, h⟩ : ∃ t, s.takeDeny = t := ⟨_, rfl⟩
  rw [h]
  unfold State.takeDeny at h
  try dsimp only at h
  (repeat' split at h) <;> subst h <;> simp

@[simp] theorem State.takeRevoke_frame :
    (s.takeRevoke).header = s.header ∧ (s.takeRevoke).pex = s.pex ∧ (s.takeRevoke).brx = s.brx ∧
    (s.takeRevoke).pct = s.pct ∧ (s.takeRevoke).bpt = s.bpt ∧ (s.takeRevoke).links = s.links ∧
    (s.takeRevoke).sram = s.sram ∧ (s.takeRevoke).pending = s.pending := by
  obtain ⟨t, h⟩ : ∃ t, s.takeRevoke = t := ⟨_, rfl⟩
  rw [h]
  unfold State.takeRevoke at h
  try dsimp only at h
  (repeat' split at h) <;> subst h <;> simp

@[simp] theorem State.timeOutAsk_frame :
    (s.timeOutAsk).header = s.header ∧ (s.timeOutAsk).pex = s.pex ∧ (s.timeOutAsk).brx = s.brx ∧
    (s.timeOutAsk).pct = s.pct ∧ (s.timeOutAsk).bpt = s.bpt ∧ (s.timeOutAsk).sram = s.sram ∧
    (s.timeOutAsk).pending = s.pending := by
  obtain ⟨t, h⟩ : ∃ t, s.timeOutAsk = t := ⟨_, rfl⟩
  rw [h]
  unfold State.timeOutAsk at h
  try dsimp only at h
  (repeat' split at h) <;> subst h <;> simp

@[simp] theorem State.startInterval_frame :
    (s.startInterval).records = s.records ∧ (s.startInterval).header = s.header ∧
    (s.startInterval).counters = s.counters ∧ (s.startInterval).dsu = s.dsu ∧ (s.startInterval).rgu = s.rgu ∧
    (s.startInterval).pex = s.pex ∧ (s.startInterval).dsq = s.dsq ∧ (s.startInterval).evw = s.evw ∧
    (s.startInterval).pct = s.pct ∧ (s.startInterval).bpt = s.bpt ∧ (s.startInterval).links = s.links ∧
    (s.startInterval).sram = s.sram ∧ (s.startInterval).pending = s.pending := by
  obtain ⟨t, h⟩ : ∃ t, s.startInterval = t := ⟨_, rfl⟩
  rw [h]
  unfold State.startInterval at h
  try dsimp only at h
  (repeat' split at h) <;> subst h <;> simp

@[simp] theorem State.windowRunsOut_frame :
    (s.windowRunsOut).records = s.records ∧ (s.windowRunsOut).header = s.header ∧
    (s.windowRunsOut).counters = s.counters ∧ (s.windowRunsOut).dsu = s.dsu ∧ (s.windowRunsOut).rgu = s.rgu ∧
    (s.windowRunsOut).pex = s.pex ∧ (s.windowRunsOut).dsq = s.dsq ∧ (s.windowRunsOut).evw = s.evw ∧
    (s.windowRunsOut).pct = s.pct ∧ (s.windowRunsOut).bpt = s.bpt ∧ (s.windowRunsOut).sram = s.sram ∧
    (s.windowRunsOut).pending = s.pending := by
  obtain ⟨t, h⟩ : ∃ t, s.windowRunsOut = t := ⟨_, rfl⟩
  rw [h]
  unfold State.windowRunsOut at h
  try dsimp only at h
  (repeat' split at h) <;> subst h <;> simp

@[simp] theorem State.slotEnds_frame (e : Slot) :
    (s.slotEnds e).records = s.records ∧ (s.slotEnds e).header = s.header ∧ (s.slotEnds e).counters = s.counters ∧
    (s.slotEnds e).dsu = s.dsu ∧ (s.slotEnds e).rgu = s.rgu ∧ (s.slotEnds e).pex = s.pex ∧
    (s.slotEnds e).dsq = s.dsq ∧ (s.slotEnds e).evw = s.evw ∧ (s.slotEnds e).pct = s.pct ∧
    (s.slotEnds e).bpt = s.bpt ∧ (s.slotEnds e).links = s.links ∧ (s.slotEnds e).sram = s.sram ∧
    (s.slotEnds e).pending = s.pending := by
  obtain ⟨t, h⟩ : ∃ t, s.slotEnds e = t := ⟨_, rfl⟩
  rw [h]
  unfold State.slotEnds at h
  try dsimp only at h
  (repeat' split at h) <;> subst h <;> simp

@[simp] theorem State.slotUnanswered_frame (e : Slot) :
    (s.slotUnanswered e).header = s.header ∧ (s.slotUnanswered e).counters = s.counters ∧
    (s.slotUnanswered e).dsu = s.dsu ∧ (s.slotUnanswered e).brx.queue = s.brx.queue ∧ (s.slotUnanswered e).evw = s.evw ∧
    (s.slotUnanswered e).pct = s.pct ∧ (s.slotUnanswered e).bpt = s.bpt ∧ (s.slotUnanswered e).links = s.links ∧
    (s.slotUnanswered e).sram = s.sram ∧ (s.slotUnanswered e).pending = s.pending := by
  obtain ⟨t, h⟩ : ∃ t, s.slotUnanswered e = t := ⟨_, rfl⟩
  rw [h]
  unfold State.slotUnanswered at h
  try dsimp only at h
  (repeat' split at h) <;> subst h <;> simp

@[simp] theorem State.inviteTaken_frame (c : Cycle) (e : Nat) :
    (s.inviteTaken c e).records = s.records ∧ (s.inviteTaken c e).header = s.header ∧
    (s.inviteTaken c e).rgu = s.rgu ∧ (s.inviteTaken c e).pex = s.pex ∧ (s.inviteTaken c e).ltu = s.ltu ∧
    (s.inviteTaken c e).brx = s.brx ∧ (s.inviteTaken c e).dsq = s.dsq ∧ (s.inviteTaken c e).evw = s.evw ∧
    (s.inviteTaken c e).pct = s.pct ∧ (s.inviteTaken c e).bpt = s.bpt ∧ (s.inviteTaken c e).links = s.links ∧
    (s.inviteTaken c e).sram = s.sram ∧ (s.inviteTaken c e).pending = s.pending := by
  simp [State.inviteTaken]

@[simp] theorem State.rangeAskTaken_frame :
    (s.rangeAskTaken).records = s.records ∧ (s.rangeAskTaken).header = s.header ∧
    (s.rangeAskTaken).counters = s.counters ∧ (s.rangeAskTaken).dsu = s.dsu ∧ (s.rangeAskTaken).pex = s.pex ∧
    (s.rangeAskTaken).ltu = s.ltu ∧ (s.rangeAskTaken).brx = s.brx ∧ (s.rangeAskTaken).dsq = s.dsq ∧
    (s.rangeAskTaken).evw = s.evw ∧ (s.rangeAskTaken).pct = s.pct ∧ (s.rangeAskTaken).bpt = s.bpt ∧
    (s.rangeAskTaken).links = s.links ∧ (s.rangeAskTaken).sram = s.sram ∧ (s.rangeAskTaken).pending = s.pending := by
  obtain ⟨t, h⟩ : ∃ t, s.rangeAskTaken = t := ⟨_, rfl⟩
  rw [h]
  unfold State.rangeAskTaken at h
  try dsimp only at h
  (repeat' split at h) <;> subst h <;> simp

@[simp] theorem State.windowTaken_frame (m : BoundMessage) :
    (s.windowTaken m).records = s.records ∧ (s.windowTaken m).header = s.header ∧ (s.windowTaken m).pex = s.pex ∧
    (s.windowTaken m).brx = s.brx ∧ (s.windowTaken m).evw = s.evw ∧ (s.windowTaken m).pct = s.pct ∧
    (s.windowTaken m).bpt = s.bpt ∧ (s.windowTaken m).links = s.links ∧ (s.windowTaken m).sram = s.sram ∧
    (s.windowTaken m).pending = s.pending := by
  obtain ⟨t, h⟩ : ∃ t, s.windowTaken m = t := ⟨_, rfl⟩
  rw [h]
  unfold State.windowTaken at h
  try dsimp only at h
  (repeat' split at h) <;> subst h <;> simp

@[simp] theorem State.releaseTaken_frame (i : RecIx) :
    (s.releaseTaken i).header = s.header ∧ (s.releaseTaken i).dsu = s.dsu ∧ (s.releaseTaken i).rgu = s.rgu ∧
    (s.releaseTaken i).pex = s.pex ∧ (s.releaseTaken i).ltu = s.ltu ∧ (s.releaseTaken i).brx = s.brx ∧
    (s.releaseTaken i).pct = s.pct ∧ (s.releaseTaken i).bpt = s.bpt ∧ (s.releaseTaken i).links = s.links ∧
    (s.releaseTaken i).sram = s.sram ∧ (s.releaseTaken i).pending = s.pending := by
  obtain ⟨t, h⟩ : ∃ t, s.releaseTaken i = t := ⟨_, rfl⟩
  rw [h]
  unfold State.releaseTaken at h
  try dsimp only at h
  (repeat' split at h) <;> subst h <;> simp

@[simp] theorem State.assignTaken_frame (i : RecIx) :
    (s.assignTaken i).header = s.header ∧ (s.assignTaken i).dsu = s.dsu ∧ (s.assignTaken i).pex = s.pex ∧
    (s.assignTaken i).ltu = s.ltu ∧ (s.assignTaken i).brx = s.brx ∧ (s.assignTaken i).dsq = s.dsq ∧
    (s.assignTaken i).pct = s.pct ∧ (s.assignTaken i).bpt = s.bpt ∧ (s.assignTaken i).links = s.links ∧
    (s.assignTaken i).sram = s.sram ∧ (s.assignTaken i).pending = s.pending := by
  simp [State.assignTaken]

@[simp] theorem State.equalizeTaken_frame (i : RecIx) :
    (s.equalizeTaken i).header = s.header ∧ (s.equalizeTaken i).dsu = s.dsu ∧ (s.equalizeTaken i).ltu = s.ltu ∧
    (s.equalizeTaken i).brx = s.brx ∧ (s.equalizeTaken i).pct = s.pct ∧ (s.equalizeTaken i).links = s.links ∧
    (s.equalizeTaken i).sram = s.sram ∧ (s.equalizeTaken i).pending = s.pending := by
  obtain ⟨t, h⟩ : ∃ t, s.equalizeTaken i = t := ⟨_, rfl⟩
  rw [h]
  unfold State.equalizeTaken at h
  try dsimp only at h
  (repeat' split at h) <;> subst h <;> simp

@[simp] theorem State.controlTaken_frame (e : ControlEntry) :
    (s.controlTaken e).header = s.header ∧ (s.controlTaken e).dsu = s.dsu ∧ (s.controlTaken e).ltu = s.ltu ∧
    (s.controlTaken e).brx = s.brx ∧ (s.controlTaken e).pct = s.pct ∧ (s.controlTaken e).links = s.links ∧
    (s.controlTaken e).sram = s.sram ∧ (s.controlTaken e).pending = s.pending := by
  obtain ⟨t, h⟩ : ∃ t, s.controlTaken e = t := ⟨_, rfl⟩
  rw [h]
  unfold State.controlTaken at h
  try dsimp only at h
  (repeat' split at h) <;> subst h <;> simp

@[simp] theorem State.replyTaken_frame (c : Cycle) (e : ReplyEntry) (o : Owner) (d j : Nat) :
    (s.replyTaken c e o d j).records = s.records ∧ (s.replyTaken c e o d j).header = s.header ∧
    (s.replyTaken c e o d j).counters = s.counters ∧ (s.replyTaken c e o d j).dsu = s.dsu ∧
    (s.replyTaken c e o d j).brx = s.brx ∧ (s.replyTaken c e o d j).evw = s.evw ∧
    (s.replyTaken c e o d j).pct = s.pct ∧ (s.replyTaken c e o d j).bpt = s.bpt ∧
    (s.replyTaken c e o d j).links = s.links ∧ (s.replyTaken c e o d j).sram = s.sram ∧
    (s.replyTaken c e o d j).pending = s.pending := by
  obtain ⟨t, h⟩ : ∃ t, s.replyTaken c e o d j = t := ⟨_, rfl⟩
  rw [h]
  unfold State.replyTaken at h
  try dsimp only at h
  (repeat' split at h) <;> subst h <;> simp

@[simp] theorem State.takeChoice_frame (c : Cycle) (x : Choice) :
    (s.takeChoice c x).header = s.header ∧ (s.takeChoice c x).brx = s.brx ∧ (s.takeChoice c x).pct = s.pct ∧
    (s.takeChoice c x).links = s.links ∧ (s.takeChoice c x).sram = s.sram ∧ (s.takeChoice c x).pending = s.pending := by
  obtain ⟨t, h⟩ : ∃ t, s.takeChoice c x = t := ⟨_, rfl⟩
  rw [h]
  unfold State.takeChoice at h
  try dsimp only at h
  (repeat' split at h) <;> subst h <;> simp

@[simp] theorem State.passFetch_frame (c : Cycle) :
    (s.passFetch c).records = s.records ∧ (s.passFetch c).header = s.header ∧ (s.passFetch c).counters = s.counters ∧
    (s.passFetch c).dsu = s.dsu ∧ (s.passFetch c).rgu = s.rgu ∧ (s.passFetch c).pex = s.pex ∧ (s.passFetch c).brx = s.brx ∧
    (s.passFetch c).dsq = s.dsq ∧ (s.passFetch c).evw = s.evw ∧ (s.passFetch c).pct = s.pct ∧ (s.passFetch c).bpt = s.bpt ∧
    (s.passFetch c).links = s.links ∧ (s.passFetch c).sram = s.sram ∧ (s.passFetch c).pending = s.pending ∧
    (s.passFetch c).ltu = { s.ltu with quiet := (s.passFetch c).ltu.quiet } := by
  obtain ⟨t, h⟩ : ∃ t, s.passFetch c = t := ⟨_, rfl⟩
  rw [h]
  unfold State.passFetch at h
  split at h <;> subst h <;> simp [State.setQuiet]

@[simp] theorem State.takeFetch_frame (c : Cycle) :
    (s.takeFetch c).header = s.header ∧ (s.takeFetch c).brx = s.brx ∧ (s.takeFetch c).pct = s.pct ∧
    (s.takeFetch c).sram = s.sram ∧ (s.takeFetch c).pending = s.pending := by
  obtain ⟨t, h⟩ : ∃ t, s.takeFetch c = t := ⟨_, rfl⟩
  rw [h]
  unfold State.takeFetch at h
  try dsimp only at h
  (repeat' split at h) <;> subst h <;> simp

@[simp] theorem State.refuseRun_frame (r : RefusalCode) :
    (s.refuseRun r).records = s.records ∧ (s.refuseRun r).header = s.header ∧ (s.refuseRun r).dsu = s.dsu ∧
    (s.refuseRun r).rgu = s.rgu ∧ (s.refuseRun r).pex = s.pex ∧ (s.refuseRun r).ltu = s.ltu ∧
    (s.refuseRun r).brx = s.brx ∧ (s.refuseRun r).dsq = s.dsq ∧ (s.refuseRun r).bpt = s.bpt ∧
    (s.refuseRun r).links = s.links ∧ (s.refuseRun r).sram = s.sram ∧ (s.refuseRun r).pending = s.pending := by
  simp [State.refuseRun]

@[simp] theorem State.runFromConfig_frame :
    (s.runFromConfig).sram = s.sram ∧ (s.runFromConfig).pending = s.pending := by
  simp [State.runFromConfig]

@[simp] theorem State.runFromDraining_frame :
    (s.runFromDraining).header = s.header ∧ (s.runFromDraining).sram = s.sram ∧
    (s.runFromDraining).pending = s.pending := by
  simp [State.runFromDraining]

@[simp] theorem State.validateRun_frame :
    (s.validateRun).sram = s.sram ∧ (s.validateRun).pending = s.pending := by
  obtain ⟨t, h⟩ : ∃ t, s.validateRun = t := ⟨_, rfl⟩
  rw [h]
  unfold State.validateRun at h
  try dsimp only at h
  (repeat' split at h) <;> subst h <;> simp

@[simp] theorem State.enterConfig_frame :
    (s.enterConfig).records = s.records ∧ (s.enterConfig).header = s.header ∧ (s.enterConfig).dsu = s.dsu ∧
    (s.enterConfig).rgu = s.rgu ∧ (s.enterConfig).pex = s.pex ∧ (s.enterConfig).brx = s.brx ∧
    (s.enterConfig).dsq = s.dsq ∧ (s.enterConfig).bpt = s.bpt ∧ (s.enterConfig).links = s.links ∧
    (s.enterConfig).sram = s.sram ∧ (s.enterConfig).pending = s.pending := by
  simp [State.enterConfig]

@[simp] theorem State.startDraining_frame :
    (s.startDraining).header = s.header ∧ (s.startDraining).sram = s.sram ∧ (s.startDraining).pending = s.pending := by
  obtain ⟨t, h⟩ : ∃ t, s.startDraining = t := ⟨_, rfl⟩
  rw [h]
  unfold State.startDraining at h
  try dsimp only at h
  (repeat' split at h) <;> subst h <;> simp

@[simp] theorem State.halt_frame :
    (s.halt).header = s.header ∧ (s.halt).sram = s.sram ∧ (s.halt).pending = s.pending := by
  simp [State.halt]

@[simp] theorem State.actConfig_frame :
    (s.actConfig).header = s.header ∧ (s.actConfig).sram = s.sram ∧ (s.actConfig).pending = s.pending := by
  obtain ⟨t, h⟩ : ∃ t, s.actConfig = t := ⟨_, rfl⟩
  rw [h]
  unfold State.actConfig at h
  try dsimp only at h
  (repeat' split at h) <;> subst h <;> simp

@[simp] theorem State.actRun_frame :
    (s.actRun).sram = s.sram ∧ (s.actRun).pending = s.pending := by
  obtain ⟨t, h⟩ : ∃ t, s.actRun = t := ⟨_, rfl⟩
  rw [h]
  unfold State.actRun at h
  try dsimp only at h
  (repeat' split at h) <;> subst h <;> simp

@[simp] theorem State.actHalt_frame :
    (s.actHalt).header = s.header ∧ (s.actHalt).sram = s.sram ∧ (s.actHalt).pending = s.pending := by
  obtain ⟨t, h⟩ : ∃ t, s.actHalt = t := ⟨_, rfl⟩
  rw [h]
  unfold State.actHalt at h
  try dsimp only at h
  (repeat' split at h) <;> subst h <;> simp

@[simp] theorem State.actPortIntent_frame :
    (s.actPortIntent).sram = s.sram ∧ (s.actPortIntent).pending = s.pending := by
  obtain ⟨t, h⟩ : ∃ t, s.actPortIntent = t := ⟨_, rfl⟩
  rw [h]
  unfold State.actPortIntent at h
  try dsimp only at h
  (repeat' split at h) <;> subst h <;> simp

@[simp] theorem State.storeHeader_frame (k : Nat) (d : Word) (be : Enables) :
    (s.storeHeader k d be).counters = s.counters ∧ (s.storeHeader k d be).dsu = s.dsu ∧
    (s.storeHeader k d be).rgu = s.rgu ∧ (s.storeHeader k d be).pex = s.pex ∧ (s.storeHeader k d be).ltu = s.ltu ∧
    (s.storeHeader k d be).brx = s.brx ∧ (s.storeHeader k d be).dsq = s.dsq ∧ (s.storeHeader k d be).pct = s.pct ∧
    (s.storeHeader k d be).bpt = s.bpt ∧ (s.storeHeader k d be).links = s.links ∧
    (s.storeHeader k d be).sram = s.sram ∧ (s.storeHeader k d be).pending = s.pending := by
  obtain ⟨t, h⟩ : ∃ t, s.storeHeader k d be = t := ⟨_, rfl⟩
  rw [h]
  unfold State.storeHeader at h
  try dsimp only at h
  (repeat' split at h) <;> subst h <;> simp

@[simp] theorem State.storeSetup_frame (w : Nat) (d : Word) (be : Enables) :
    (s.storeSetup w d be).counters = s.counters ∧ (s.storeSetup w d be).dsu = s.dsu ∧
    (s.storeSetup w d be).rgu = s.rgu ∧ (s.storeSetup w d be).ltu = s.ltu ∧ (s.storeSetup w d be).brx = s.brx ∧
    (s.storeSetup w d be).dsq = s.dsq ∧ (s.storeSetup w d be).pct = s.pct ∧ (s.storeSetup w d be).bpt = s.bpt ∧
    (s.storeSetup w d be).links = s.links ∧ (s.storeSetup w d be).sram = s.sram ∧
    (s.storeSetup w d be).pending = s.pending := by
  obtain ⟨t, h⟩ : ∃ t, s.storeSetup w d be = t := ⟨_, rfl⟩
  rw [h]
  unfold State.storeSetup at h
  try dsimp only at h
  (repeat' split at h) <;> subst h <;> simp

@[simp] theorem State.completeLoad_frame :
    (s.completeLoad).sram = s.sram ∧ (s.completeLoad).pending = s.pending := by
  simp [State.completeLoad]

@[simp] theorem State.loadServed_frame (d : Word) :
    (s.loadServed d).sram = s.sram ∧ (s.loadServed d).pending = s.pending := by
  obtain ⟨t, h⟩ : ∃ t, s.loadServed d = t := ⟨_, rfl⟩
  rw [h]
  unfold State.loadServed at h
  try dsimp only at h
  (repeat' split at h) <;> subst h <;> simp

@[simp] theorem State.writeConsumer_frame (v : Byte) :
    (s.writeConsumer v).records = s.records ∧ (s.writeConsumer v).header = s.header ∧
    (s.writeConsumer v).dsu = s.dsu ∧ (s.writeConsumer v).rgu = s.rgu ∧ (s.writeConsumer v).pex = s.pex ∧
    (s.writeConsumer v).ltu = s.ltu ∧ (s.writeConsumer v).brx = s.brx ∧ (s.writeConsumer v).dsq = s.dsq ∧
    (s.writeConsumer v).pct = s.pct ∧ (s.writeConsumer v).bpt = s.bpt ∧ (s.writeConsumer v).links = s.links ∧
    (s.writeConsumer v).sram = s.sram ∧ (s.writeConsumer v).pending = s.pending := by
  obtain ⟨t, h⟩ : ∃ t, s.writeConsumer v = t := ⟨_, rfl⟩
  rw [h]
  unfold State.writeConsumer at h
  try dsimp only at h
  (repeat' split at h) <;> subst h <;> simp

@[simp] theorem State.writeHeader_frame (k : Nat) (d : Word) (be : Enables) :
    (s.writeHeader k d be).sram = s.sram ∧ (s.writeHeader k d be).pending = s.pending := by
  obtain ⟨t, h⟩ : ∃ t, s.writeHeader k d be = t := ⟨_, rfl⟩
  rw [h]
  unfold State.writeHeader at h
  try dsimp only at h
  (repeat' split at h) <;> subst h <;> simp

@[simp] theorem State.writeRecord_frame (i : RecIx) (k : Nat) (d : Word) (be : Enables) :
    (s.writeRecord i k d be).header = s.header ∧ (s.writeRecord i k d be).pct = s.pct ∧
    (s.writeRecord i k d be).sram = s.sram ∧ (s.writeRecord i k d be).pending = s.pending := by
  obtain ⟨t, h⟩ : ∃ t, s.writeRecord i k d be = t := ⟨_, rfl⟩
  rw [h]
  unfold State.writeRecord at h
  try dsimp only at h
  (repeat' split at h) <;> subst h <;> simp

@[simp] theorem State.writeDirectory_frame (p : DirIx) (d : Word) (be : Enables) :
    (s.writeDirectory p d be).records = s.records ∧ (s.writeDirectory p d be).header = s.header ∧
    (s.writeDirectory p d be).dsu = s.dsu ∧ (s.writeDirectory p d be).rgu = s.rgu ∧
    (s.writeDirectory p d be).ltu = s.ltu ∧ (s.writeDirectory p d be).brx = s.brx ∧
    (s.writeDirectory p d be).dsq = s.dsq ∧ (s.writeDirectory p d be).pct = s.pct ∧
    (s.writeDirectory p d be).bpt = s.bpt ∧ (s.writeDirectory p d be).links = s.links ∧
    (s.writeDirectory p d be).sram = s.sram ∧ (s.writeDirectory p d be).pending = s.pending := by
  obtain ⟨t, h⟩ : ∃ t, s.writeDirectory p d be = t := ⟨_, rfl⟩
  rw [h]
  unfold State.writeDirectory at h
  try dsimp only at h
  (repeat' split at h) <;> subst h <;> simp

@[simp] theorem State.offerWrite_frame (w : WinWord) (d : Word) (be : Enables) :
    (s.offerWrite w d be).sram = s.sram ∧ (s.offerWrite w d be).pending = s.pending := by
  obtain ⟨t, h⟩ : ∃ t, s.offerWrite w d be = t := ⟨_, rfl⟩
  rw [h]
  unfold State.offerWrite at h
  try dsimp only at h
  (repeat' split at h) <;> subst h <;> simp

@[simp] theorem State.windowWrite_frame (w : WinWord) (d : Word) (be : Enables) :
    (s.windowWrite w d be).sram = s.sram ∧ (s.windowWrite w d be).pending = s.pending := by
  obtain ⟨t, h⟩ : ∃ t, s.windowWrite w d be = t := ⟨_, rfl⟩
  rw [h]
  unfold State.windowWrite at h
  try dsimp only at h
  (repeat' split at h) <;> subst h <;> simp

@[simp] theorem State.busWrite_frame (a : BusAddr) (d : Word) (be : Enables) :
    (s.busWrite a d be).pending = s.pending := by
  obtain ⟨t, h⟩ : ∃ t, s.busWrite a d be = t := ⟨_, rfl⟩
  rw [h]
  unfold State.busWrite at h
  try dsimp only at h
  (repeat' split at h) <;> subst h <;> simp

@[simp] theorem State.overlayRead_frame (w : WinWord) :
    (s.overlayRead w).records = s.records ∧ (s.overlayRead w).header = s.header ∧
    (s.overlayRead w).counters = s.counters ∧ (s.overlayRead w).rgu = s.rgu ∧ (s.overlayRead w).pex = s.pex ∧
    (s.overlayRead w).ltu = s.ltu ∧ (s.overlayRead w).brx = s.brx ∧ (s.overlayRead w).dsq = s.dsq ∧
    (s.overlayRead w).evw = s.evw ∧ (s.overlayRead w).pct = s.pct ∧ (s.overlayRead w).sram = s.sram ∧
    (s.overlayRead w).pending = s.pending := by
  obtain ⟨t, h⟩ : ∃ t, s.overlayRead w = t := ⟨_, rfl⟩
  rw [h]
  unfold State.overlayRead at h
  try dsimp only at h
  (repeat' split at h) <;> subst h <;> simp

@[simp] theorem State.busRead_frame (a : BusAddr) :
    (s.busRead a).records = s.records ∧ (s.busRead a).header = s.header ∧ (s.busRead a).counters = s.counters ∧
    (s.busRead a).rgu = s.rgu ∧ (s.busRead a).pex = s.pex ∧ (s.busRead a).ltu = s.ltu ∧ (s.busRead a).brx = s.brx ∧
    (s.busRead a).dsq = s.dsq ∧ (s.busRead a).evw = s.evw ∧ (s.busRead a).pct = s.pct ∧ (s.busRead a).sram = s.sram ∧
    (s.busRead a).pending = s.pending := by
  obtain ⟨t, h⟩ : ∃ t, s.busRead a = t := ⟨_, rfl⟩
  rw [h]
  unfold State.busRead at h
  try dsimp only at h
  (repeat' split at h) <;> subst h <;> simp

@[simp] theorem State.startEvent_frame :
    (s.startEvent).records = s.records ∧ (s.startEvent).header = s.header ∧ (s.startEvent).counters = s.counters ∧
    (s.startEvent).dsu = s.dsu ∧ (s.startEvent).rgu = s.rgu ∧ (s.startEvent).pex = s.pex ∧
    (s.startEvent).ltu = s.ltu ∧ (s.startEvent).brx = s.brx ∧ (s.startEvent).dsq = s.dsq ∧
    (s.startEvent).pct = s.pct ∧ (s.startEvent).links = s.links ∧ (s.startEvent).sram = s.sram ∧
    (s.startEvent).pending = s.pending := by
  obtain ⟨t, h⟩ : ∃ t, s.startEvent = t := ⟨_, rfl⟩
  rw [h]
  unfold State.startEvent at h
  try dsimp only at h
  (repeat' split at h) <;> subst h <;> simp

@[simp] theorem State.eventServed_frame :
    (s.eventServed).records = s.records ∧ (s.eventServed).header = s.header ∧ (s.eventServed).counters = s.counters ∧
    (s.eventServed).dsu = s.dsu ∧ (s.eventServed).rgu = s.rgu ∧ (s.eventServed).pex = s.pex ∧
    (s.eventServed).ltu = s.ltu ∧ (s.eventServed).brx = s.brx ∧ (s.eventServed).dsq = s.dsq ∧
    (s.eventServed).pct = s.pct ∧ (s.eventServed).links = s.links ∧ (s.eventServed).sram = s.sram ∧
    (s.eventServed).pending = s.pending := by
  obtain ⟨t, h⟩ : ∃ t, s.eventServed = t := ⟨_, rfl⟩
  rw [h]
  unfold State.eventServed at h
  try dsimp only at h
  (repeat' split at h) <;> subst h <;> simp

@[simp] theorem State.serveEvent_frame (r : WriteRequest) :
    (s.serveEvent r).records = s.records ∧ (s.serveEvent r).header = s.header ∧
    (s.serveEvent r).counters = s.counters ∧ (s.serveEvent r).dsu = s.dsu ∧ (s.serveEvent r).rgu = s.rgu ∧
    (s.serveEvent r).pex = s.pex ∧ (s.serveEvent r).ltu = s.ltu ∧ (s.serveEvent r).brx = s.brx ∧
    (s.serveEvent r).dsq = s.dsq ∧ (s.serveEvent r).pct = s.pct ∧ (s.serveEvent r).links = s.links ∧
    (s.serveEvent r).pending = s.pending := by
  simp [State.serveEvent]

@[simp] theorem State.serveChannel_frame (ch : ChanIx) (r : ReadRequest) :
    (s.serveChannel ch r).header = s.header ∧ (s.serveChannel ch r).counters = s.counters ∧
    (s.serveChannel ch r).dsu = s.dsu ∧ (s.serveChannel ch r).rgu = s.rgu ∧ (s.serveChannel ch r).ltu = s.ltu ∧
    (s.serveChannel ch r).brx = s.brx ∧ (s.serveChannel ch r).evw = s.evw ∧ (s.serveChannel ch r).pct = s.pct ∧
    (s.serveChannel ch r).links = s.links ∧ (s.serveChannel ch r).sram = s.sram ∧
    (s.serveChannel ch r).pending = s.pending := by
  obtain ⟨t, h⟩ : ∃ t, s.serveChannel ch r = t := ⟨_, rfl⟩
  rw [h]
  unfold State.serveChannel at h
  try dsimp only at h
  (repeat' split at h) <;> subst h <;> simp

@[simp] theorem State.serveLoad_frame (w : WinWord) :
    (s.serveLoad w).sram = s.sram ∧ (s.serveLoad w).pending = s.pending := by
  simp [State.serveLoad]

@[simp] theorem State.serveHighest_frame :
    (s.serveHighest).pending = s.pending := by
  obtain ⟨t, h⟩ : ∃ t, s.serveHighest = t := ⟨_, rfl⟩
  rw [h]
  unfold State.serveHighest at h
  try dsimp only at h
  (repeat' split at h) <;> subst h <;> simp

@[simp] theorem State.holdAccess_frame :
    (s.holdAccess).pending = s.pending := by
  simp [State.holdAccess]

@[simp] theorem State.arbiter_frame :
    (s.arbiter).pending = s.pending := by
  obtain ⟨t, h⟩ : ∃ t, s.arbiter = t := ⟨_, rfl⟩
  rw [h]
  unfold State.arbiter at h
  try dsimp only at h
  (repeat' split at h) <;> subst h <;> simp

@[simp] theorem State.access_frame (a : Access) :
    (s.access a).pending = s.pending := by
  obtain ⟨t, h⟩ : ∃ t, s.access a = t := ⟨_, rfl⟩
  rw [h]
  unfold State.access at h
  try dsimp only at h
  (repeat' split at h) <;> subst h <;> simp

@[simp] theorem State.garble_frame (id : Interval) :
    (s.garble id).records = s.records ∧ (s.garble id).header = s.header ∧ (s.garble id).rgu = s.rgu ∧
    (s.garble id).pex = s.pex ∧ (s.garble id).ltu = s.ltu ∧ (s.garble id).dsq = s.dsq ∧ (s.garble id).evw = s.evw ∧
    (s.garble id).pct = s.pct ∧ (s.garble id).bpt = s.bpt ∧ (s.garble id).links = s.links ∧
    (s.garble id).sram = s.sram ∧ (s.garble id).pending = s.pending := by
  simp [State.garble]

@[simp] theorem State.seekBreak_frame (id : Interval) (p : Int) (x : Sample) :
    (s.seekBreak id p x).records = s.records ∧ (s.seekBreak id p x).header = s.header ∧
    (s.seekBreak id p x).rgu = s.rgu ∧ (s.seekBreak id p x).pex = s.pex ∧ (s.seekBreak id p x).ltu = s.ltu ∧
    (s.seekBreak id p x).dsq = s.dsq ∧ (s.seekBreak id p x).evw = s.evw ∧ (s.seekBreak id p x).pct = s.pct ∧
    (s.seekBreak id p x).bpt = s.bpt ∧ (s.seekBreak id p x).links = s.links ∧ (s.seekBreak id p x).sram = s.sram ∧
    (s.seekBreak id p x).pending = s.pending := by
  obtain ⟨t, h⟩ : ∃ t, s.seekBreak id p x = t := ⟨_, rfl⟩
  rw [h]
  unfold State.seekBreak at h
  try dsimp only at h
  (repeat' split at h) <;> subst h <;> simp

@[simp] theorem State.compareDelimiter_frame (id : Interval) (x : Sample) :
    (s.compareDelimiter id x).records = s.records ∧ (s.compareDelimiter id x).header = s.header ∧
    (s.compareDelimiter id x).rgu = s.rgu ∧ (s.compareDelimiter id x).pex = s.pex ∧
    (s.compareDelimiter id x).ltu = s.ltu ∧ (s.compareDelimiter id x).dsq = s.dsq ∧
    (s.compareDelimiter id x).evw = s.evw ∧ (s.compareDelimiter id x).pct = s.pct ∧
    (s.compareDelimiter id x).bpt = s.bpt ∧ (s.compareDelimiter id x).links = s.links ∧
    (s.compareDelimiter id x).sram = s.sram ∧ (s.compareDelimiter id x).pending = s.pending := by
  obtain ⟨t, h⟩ : ∃ t, s.compareDelimiter id x = t := ⟨_, rfl⟩
  rw [h]
  unfold State.compareDelimiter at h
  try dsimp only at h
  (repeat' split at h) <;> subst h <;> simp

@[simp] theorem State.queueCapture_frame (c : Capture) :
    (s.queueCapture c).records = s.records ∧ (s.queueCapture c).header = s.header ∧ (s.queueCapture c).dsu = s.dsu ∧
    (s.queueCapture c).rgu = s.rgu ∧ (s.queueCapture c).pex = s.pex ∧ (s.queueCapture c).ltu = s.ltu ∧
    (s.queueCapture c).dsq = s.dsq ∧ (s.queueCapture c).evw = s.evw ∧ (s.queueCapture c).pct = s.pct ∧
    (s.queueCapture c).bpt = s.bpt ∧ (s.queueCapture c).links = s.links ∧ (s.queueCapture c).sram = s.sram ∧
    (s.queueCapture c).pending = s.pending := by
  obtain ⟨t, h⟩ : ∃ t, s.queueCapture c = t := ⟨_, rfl⟩
  rw [h]
  unfold State.queueCapture at h
  try dsimp only at h
  (repeat' split at h) <;> subst h <;> simp

@[simp] theorem State.completeBurst_frame (id : Interval) (k : BurstKind) (h : HuntRecord) :
    (s.completeBurst id k h).records = s.records ∧ (s.completeBurst id k h).header = s.header ∧
    (s.completeBurst id k h).rgu = s.rgu ∧ (s.completeBurst id k h).pex = s.pex ∧
    (s.completeBurst id k h).ltu = s.ltu ∧ (s.completeBurst id k h).dsq = s.dsq ∧
    (s.completeBurst id k h).evw = s.evw ∧ (s.completeBurst id k h).pct = s.pct ∧
    (s.completeBurst id k h).bpt = s.bpt ∧ (s.completeBurst id k h).links = s.links ∧
    (s.completeBurst id k h).sram = s.sram ∧ (s.completeBurst id k h).pending = s.pending := by
  obtain ⟨t, h⟩ : ∃ t, s.completeBurst id k h = t := ⟨_, rfl⟩
  rw [h]
  unfold State.completeBurst at h
  try dsimp only at h
  (repeat' split at h) <;> subst h <;> simp

@[simp] theorem State.bodyByte_frame (id : Interval) (b : Byte) :
    (s.bodyByte id b).records = s.records ∧ (s.bodyByte id b).header = s.header ∧ (s.bodyByte id b).rgu = s.rgu ∧
    (s.bodyByte id b).pex = s.pex ∧ (s.bodyByte id b).ltu = s.ltu ∧ (s.bodyByte id b).dsq = s.dsq ∧
    (s.bodyByte id b).evw = s.evw ∧ (s.bodyByte id b).pct = s.pct ∧ (s.bodyByte id b).bpt = s.bpt ∧
    (s.bodyByte id b).links = s.links ∧ (s.bodyByte id b).sram = s.sram ∧ (s.bodyByte id b).pending = s.pending := by
  obtain ⟨t, h⟩ : ∃ t, s.bodyByte id b = t := ⟨_, rfl⟩
  rw [h]
  unfold State.bodyByte at h
  try dsimp only at h
  (repeat' split at h) <;> subst h <;> simp

@[simp] theorem State.bodySample_frame (id : Interval) (x : Sample) :
    (s.bodySample id x).records = s.records ∧ (s.bodySample id x).header = s.header ∧
    (s.bodySample id x).rgu = s.rgu ∧ (s.bodySample id x).pex = s.pex ∧ (s.bodySample id x).ltu = s.ltu ∧
    (s.bodySample id x).dsq = s.dsq ∧ (s.bodySample id x).evw = s.evw ∧ (s.bodySample id x).pct = s.pct ∧
    (s.bodySample id x).bpt = s.bpt ∧ (s.bodySample id x).links = s.links ∧ (s.bodySample id x).sram = s.sram ∧
    (s.bodySample id x).pending = s.pending := by
  obtain ⟨t, h⟩ : ∃ t, s.bodySample id x = t := ⟨_, rfl⟩
  rw [h]
  unfold State.bodySample at h
  try dsimp only at h
  (repeat' split at h) <;> subst h <;> simp

@[simp] theorem State.brxSample_frame (x : Sample) :
    (s.brxSample x).records = s.records ∧ (s.brxSample x).header = s.header ∧ (s.brxSample x).rgu = s.rgu ∧
    (s.brxSample x).pex = s.pex ∧ (s.brxSample x).ltu = s.ltu ∧ (s.brxSample x).dsq = s.dsq ∧
    (s.brxSample x).evw = s.evw ∧ (s.brxSample x).pct = s.pct ∧ (s.brxSample x).bpt = s.bpt ∧
    (s.brxSample x).links = s.links ∧ (s.brxSample x).sram = s.sram ∧ (s.brxSample x).pending = s.pending := by
  obtain ⟨t, h⟩ : ∃ t, s.brxSample x = t := ⟨_, rfl⟩
  rw [h]
  unfold State.brxSample at h
  try dsimp only at h
  (repeat' split at h) <;> subst h <;> simp

@[simp] theorem State.laneSample_frame (x : Sample) :
    (s.laneSample x).records = s.records ∧ (s.laneSample x).header = s.header ∧ (s.laneSample x).rgu = s.rgu ∧
    (s.laneSample x).pex = s.pex ∧ (s.laneSample x).dsq = s.dsq ∧ (s.laneSample x).evw = s.evw ∧
    (s.laneSample x).pct = s.pct ∧ (s.laneSample x).bpt = s.bpt ∧ (s.laneSample x).links = s.links ∧
    (s.laneSample x).sram = s.sram ∧ (s.laneSample x).pending = s.pending := by
  simp [State.laneSample]

end Sys2Proof.Machine
end

