-- ==== Sys2Proof/Laws/Memory.lean ====
section
/-! SUPPORT. The SRAM: a read after a write, and every memory operation keeps the canonical form. -/

namespace Sys2Proof.Machine.Memory

/-- Every address of a list lies above a bound. -/
abbrev Above (x : Nat) (m : List Host.Cell) : Prop := ∀ c ∈ m, x < c.1

theorem wf_nil : wf [] := by simp [wf]

theorem wf_cons {c : Host.Cell} {m : List Host.Cell} :
    wf (c :: m) ↔ Above c.1 m ∧ c.2 ≠ Config.sramPowerOn ∧ wf m := by
  simp only [wf, List.pairwise_cons, List.mem_cons, forall_eq_or_imp, Above]
  tauto

theorem read_above {m : List Host.Cell} {x : Nat} (h : Above x m) : read m x = Config.sramPowerOn := by
  induction m with
  | nil => rfl
  | cons c m ih =>
    have hc := h c (by simp)
    rw [read, if_neg (by omega), ih (fun d hd => h d (by simp [hd]))]

theorem put_wf {m : List Host.Cell} {x : Nat} {v : Byte} (hm : wf m) (h : Above x m) : wf (put x v m) := by
  unfold put
  split
  · exact hm
  · exact wf_cons.2 ⟨h, ‹_›, hm⟩

theorem above_put {m : List Host.Cell} {x b : Nat} {v : Byte} (hb : b < x) (h : Above b m) : Above b (put x v m) := by
  unfold put
  split
  · exact h
  · intro c hc
    rcases List.mem_cons.1 hc with rfl | hc
    · exact hb
    · exact h c hc

theorem above_write {m : List Host.Cell} {x b : Nat} {v : Byte} (hb : b < x) (h : Above b m) : Above b (write m x v) := by
  induction m with
  | nil => exact above_put hb h
  | cons c m ih =>
    have hm : Above b m := fun d hd => h d (by simp [hd])
    simp only [write]
    split
    · exact above_put hb h
    · split
      · exact above_put hb hm
      · intro d hd
        rcases List.mem_cons.1 hd with rfl | hd
        · exact h d (by simp)
        · exact ih hm d hd

/-- A write keeps the canonical form. -/
theorem write_wf {m : List Host.Cell} (x : Nat) (v : Byte) (hm : wf m) : wf (write m x v) := by
  induction m with
  | nil => exact put_wf hm (by simp [Above])
  | cons c m ih =>
    obtain ⟨hc, hv, hw⟩ := wf_cons.1 hm
    simp only [write]
    split
    · rename_i hlt
      refine put_wf hm (fun d hd => ?_)
      rcases List.mem_cons.1 hd with rfl | hd
      · exact hlt
      · exact lt_trans hlt (hc d hd)
    · split
      · rename_i _ he
        exact put_wf hw (he ▸ hc)
      · exact wf_cons.2 ⟨above_write (by omega) hc, hv, ih hw⟩

theorem read_put_same {m : List Host.Cell} {x : Nat} {v : Byte} (h : Above x m) : read (put x v m) x = v := by
  unfold put
  split
  · rw [read_above h]; exact Eq.symm ‹_›
  · simp [read]

theorem read_put_other {m : List Host.Cell} {x y : Nat} {v : Byte} (h : y ≠ x) : read (put x v m) y = read m y := by
  unfold put
  split
  · rfl
  · simp [read, Ne.symm h]

/-- A read after a write to the same address gives the value written. -/
theorem read_write_same {m : List Host.Cell} (x : Nat) (v : Byte) (hm : wf m) : read (write m x v) x = v := by
  induction m with
  | nil => exact read_put_same (by simp [Above])
  | cons c m ih =>
    obtain ⟨hc, -, hw⟩ := wf_cons.1 hm
    simp only [write]
    split
    · rename_i hlt
      refine read_put_same (fun d hd => ?_)
      rcases List.mem_cons.1 hd with rfl | hd
      · exact hlt
      · exact lt_trans hlt (hc d hd)
    · split
      · rename_i _ he
        exact read_put_same (he ▸ hc)
      · rename_i _ hne
        simp only [read, if_neg (Ne.symm hne)]
        exact ih hw

/-- A write leaves every other address alone. -/
theorem read_write_other {m : List Host.Cell} {x y : Nat} (v : Byte) (h : y ≠ x) : read (write m x v) y = read m y := by
  induction m with
  | nil => exact read_put_other h
  | cons c m ih =>
    simp only [write]
    split
    · exact read_put_other h
    · split
      · rename_i _ he
        rw [read_put_other h, read, if_neg (by omega)]
      · simp only [read, ih]

/-- A byte lane written keeps the canonical form. -/
theorem writeLane_wf {m : List Host.Cell} (a : BusAddr) (data : Word) (be : Enables) (k : Nat) (hm : wf m) :
    wf (writeLane a data be k m) := by
  unfold writeLane
  split
  · exact write_wf _ _ hm
  · exact hm

/-- A bus write keeps the canonical form. -/
theorem writeWord_wf {m : List Host.Cell} (a : BusAddr) (data : Word) (be : Enables) (hm : wf m) :
    wf (writeWord m a data be) :=
  writeLane_wf _ _ _ _ (writeLane_wf _ _ _ _ (writeLane_wf _ _ _ _ (writeLane_wf _ _ _ _ hm)))

theorem read_writeLane_other {m : List Host.Cell} {a : BusAddr} {data : Word} {be : Enables} {k y : Nat}
    (h : y ≠ laneAddr a k) : read (writeLane a data be k m) y = read m y := by
  unfold writeLane
  split
  · exact read_write_other _ h
  · rfl

theorem read_writeLane_same {m : List Host.Cell} {a : BusAddr} {data : Word} {be : Enables} {k : Nat} (hm : wf m) :
    read (writeLane a data be k m) (laneAddr a k) = if be.getLsbD k then byteOf data k else read m (laneAddr a k) := by
  unfold writeLane
  split
  · exact read_write_same _ _ hm
  · rfl

/-- A bus write changes no byte outside its word. -/
theorem read_writeWord_other {m : List Host.Cell} {a : BusAddr} {data : Word} {be : Enables} {y : Nat}
    (h : ∀ k, k < 4 → y ≠ laneAddr a k) : read (writeWord m a data be) y = read m y := by
  unfold writeWord
  rw [read_writeLane_other (h 3 (by omega)), read_writeLane_other (h 2 (by omega)),
    read_writeLane_other (h 1 (by omega)), read_writeLane_other (h 0 (by omega))]

/-- A bus write stores each enabled byte lane and leaves the others. -/
theorem read_writeWord_lane {m : List Host.Cell} {a : BusAddr} {data : Word} {be : Enables} {k : Nat} (hk : k < 4)
    (hm : wf m) :
    read (writeWord m a data be) (laneAddr a k) = if be.getLsbD k then byteOf data k else read m (laneAddr a k) := by
  have w0 := writeLane_wf a data be 0 hm
  have w1 := writeLane_wf a data be 1 w0
  have w2 := writeLane_wf a data be 2 w1
  have ne : ∀ i j : Nat, i ≠ j → laneAddr a i ≠ laneAddr a j := fun i j h => by unfold laneAddr; omega
  unfold writeWord
  obtain rfl | rfl | rfl | rfl : k = 0 ∨ k = 1 ∨ k = 2 ∨ k = 3 := by omega
  · rw [read_writeLane_other (ne _ _ (by omega)), read_writeLane_other (ne _ _ (by omega)),
      read_writeLane_other (ne _ _ (by omega)), read_writeLane_same hm]
  · rw [read_writeLane_other (ne _ _ (by omega)), read_writeLane_other (ne _ _ (by omega)),
      read_writeLane_same w0, read_writeLane_other (ne _ _ (by omega))]
  · rw [read_writeLane_other (ne _ _ (by omega)), read_writeLane_same w1,
      read_writeLane_other (ne _ _ (by omega)), read_writeLane_other (ne _ _ (by omega))]
  · rw [read_writeLane_same w2, read_writeLane_other (ne _ _ (by omega)),
      read_writeLane_other (ne _ _ (by omega)), read_writeLane_other (ne _ _ (by omega))]

/-- Equal bytes everywhere make equal memories, in canonical form. -/
theorem ext {m n : List Host.Cell} (hm : wf m) (hn : wf n) (h : ∀ x, read m x = read n x) : m = n := by
  induction m generalizing n with
  | nil =>
    cases n with
    | nil => rfl
    | cons c n =>
      exfalso
      have := h c.1
      simp [read] at this
      exact (wf_cons.1 hn).2.1 this.symm
  | cons c m ih =>
    obtain ⟨hc, hv, hw⟩ := wf_cons.1 hm
    cases n with
    | nil =>
      exfalso
      have := h c.1
      simp [read] at this
      exact hv this
    | cons d n =>
      obtain ⟨hd, hu, hx⟩ := wf_cons.1 hn
      have key : c.1 = d.1 := by
        rcases Nat.lt_trichotomy c.1 d.1 with hlt | he | hlt
        · exfalso
          have h1 := h c.1
          rw [read_above (m := d :: n) (fun e he => by
            rcases List.mem_cons.1 he with rfl | he
            · exact hlt
            · exact lt_trans hlt (hd e he))] at h1
          simp [read] at h1
          exact hv h1
        · exact he
        · exfalso
          have h1 := h d.1
          rw [read_above (m := c :: m) (fun e he => by
            rcases List.mem_cons.1 he with rfl | he
            · exact hlt
            · exact lt_trans hlt (hc e he))] at h1
          simp [read] at h1
          exact hu h1.symm
      have hcd : c = d := by
        have h1 := h c.1
        rw [read, if_pos rfl, read, if_pos key.symm] at h1
        exact Prod.ext key h1
      subst hcd
      congr 1
      refine ih hw hx (fun x => ?_)
      by_cases hxc : c.1 = x
      · subst hxc; rw [read_above hc, read_above hd]
      · have h1 := h x
        rwa [read, if_neg hxc, read, if_neg hxc] at h1

end Sys2Proof.Machine.Memory
end

