-- ==== Sys2Proof/Laws/Work.lean ====
section
/-! SUPPORT. What the ending of activation work does, once for each shared operation: a channel granted, work abandoned (R11), a release, and
the end of all work at a port return (R24). -/

namespace Sys2Proof.Machine

open Sys2Proof.Safety

variable (s : State)

/-! ### Records and channels by index -/

theorem State.record_set (rs : Vector Record 128) (i k : RecIx) (r : Record) :
    (({ s with records := rs.set i r } : State).record k) = if k = i then r else ({ s with records := rs } : State).record k := by
  simp only [State.record, Fin.getElem_fin, Vector.getElem_set]
  by_cases h : k = i
  · simp [h]
  · have hv : i.val ≠ k.val := fun e => h (Fin.ext e.symm)
    simp [h, hv]

theorem State.record_onRecord (i k : RecIx) (f : Record → Record) :
    (s.onRecord i f).record k = if k = i then f (s.record i) else s.record k := by
  by_cases h : k = i
  · simp [h]
  · simp [h, State.record_onRecord_other s f h]

theorem State.chan_setChan (ch k : ChanIx) (c : Channel) : (s.setChan ch c).chan k = if k = ch then c else s.chan k := by
  by_cases h : k = ch
  · simp [h]
  · simp [h, State.chan_setChan_other s c h]

theorem State.settle_setSettle (i k : RecIx) (x : Option Settle) :
    (s.setSettle i x).settle k = if k = i then x else s.settle k := by
  by_cases h : k = i
  · simp [h]
  · simp [h, State.settle_setSettle_other s x h]

theorem State.chan_congr {t : State} (h : t.pex.chans = s.pex.chans) (ch : ChanIx) : t.chan ch = s.chan ch := by
  simp [State.chan, h]

theorem State.settle_congr {t : State} (h : t.rgu.settles = s.rgu.settles) (i : RecIx) : t.settle i = s.settle i := by
  simp [State.settle, h]

theorem State.channelOf_congr {t : State} (h : t.pex.chans = s.pex.chans) (i : RecIx) : t.channelOf i = s.channelOf i := by
  unfold State.channelOf
  simp only [State.chan_congr s h]

theorem State.reportPush_chan (ch m : ChanIx) (o : PushOutcome) :
    (s.reportPush ch o).chan m = if m = ch then { s.chan ch with stage := .reported o } else s.chan m :=
  State.chan_setChan s ch m _

@[simp] theorem State.chan_setDir (p : DirIx) (e : DirEntry) (ch : ChanIx) : (s.setDir p e).chan ch = s.chan ch := rfl
@[simp] theorem State.chan_onRecord (i : RecIx) (f : Record → Record) (ch : ChanIx) : (s.onRecord i f).chan ch = s.chan ch := rfl
@[simp] theorem State.chan_setRequest (c : ChanIx) (r : Option ReadRequest) (ch : ChanIx) : (s.setRequest c r).chan ch = s.chan ch := rfl
@[simp] theorem State.record_setChan (ch : ChanIx) (c : Channel) (i : RecIx) : (s.setChan ch c).record i = s.record i := rfl
@[simp] theorem State.record_setDir (p : DirIx) (e : DirEntry) (i : RecIx) : (s.setDir p e).record i = s.record i := rfl
@[simp] theorem State.record_setRequest (c : ChanIx) (r : Option ReadRequest) (i : RecIx) :
    (s.setRequest c r).record i = s.record i := rfl
@[simp] theorem State.record_reportPush (ch : ChanIx) (o : PushOutcome) (i : RecIx) : (s.reportPush ch o).record i = s.record i := rfl

/-! ### A channel granted (R78, R81) -/

/-- Where a pre-scan begins for an entry that is not empty (R78). -/
theorem scanStage_of_area {e : DirEntry} (h0 : e.length ≠ 0) :
    scanStage e = if e.inImageArea then .scanning else .reported .imageFailed := by
  have h0' : e.length ≠ 0#16 := h0
  by_cases a : 13312 ≤ e.offset.toNat <;> by_cases b : e.offset.toNat + e.length.toNat ≤ 65536 <;>
    simp [scanStage, DirEntry.inImageArea, DirEntry.past, h0', a, b]

/-- A channel given to record `k` (R78): the pre-scan of its entry begins, nothing else changes. -/
theorem State.grantChannel_eq (ch : ChanIx) (k : RecIx) {p : DirIx} {e : DirEntry} (hp : profileDir (s.record k).profileIx = p)
    (he : s.dirEntry p = e) :
    s.grantChannel ch k =
      { s with
        records := if e.length = 0 then s.records.set k { s.record k with blocksTotal := 0, blocksAcked := 0 } else s.records
        pex := { s.pex with
          chans := s.pex.chans.set ch { Channel.reset with stage := scanStage e, index := k, dir := p, pos := e.offset.toNat }
          dir := if e.length = 0 then s.pex.dir.set p { e with expanded := 0, sum := 0 } else s.pex.dir
          reports := if scanStage e = .scanning then s.pex.reports else s.pex.reports ++ [{ index := k, chan := ch }] }
        bpt := if scanStage e = .scanning ∧ s.chanRequest ch = none then
            { s.bpt with
              chanRequests := s.bpt.chanRequests.set ch (some { word := BitVec.ofNat 14 (e.offset.toNat / 4), dropped := false }) }
          else s.bpt } := by
  have hd : s.pex.dir[p.val] = e := he
  unfold State.grantChannel State.startScan
  rw [hp]
  by_cases h0 : e.length = 0#16
  · have hs : scanStage e = .reported .complete := by simp [scanStage, h0]
    simp [State.setChan, State.chan, State.dirEntry, hd, h0, hs, State.scanGood, State.reportPush, State.setDir, State.onRecord,
      State.setRecord, blockCount, Channel.reset]
    rfl
  · have hs := scanStage_of_area h0
    rcases h1 : e.inImageArea <;> simp only [h1, if_true, if_false, Bool.false_eq_true] at hs
    · simp [State.setChan, State.chan, State.dirEntry, hd, h0, h1, hs, State.reportPush, Channel.reset]
    · rcases hr : s.chanRequest ch with _ | r <;> have hr' := hr <;> simp only [State.chanRequest, Fin.getElem_fin] at hr' <;>
        simp [State.setChan, State.chan, State.dirEntry, hd, h0, h1, hs, State.placeRead, State.chanRequest, hr', State.setRequest,
          wordOfOffset, Channel.reset]

/-- A channel freed (R82, R90): its record is reset and its queued read, if one waits, marked for discard. -/
theorem State.freeChannel_eq (ch : ChanIx) :
    s.freeChannel ch =
      { s with
        pex := { s.pex with chans := s.pex.chans.set ch Channel.reset }
        bpt := { s.bpt with chanRequests := s.bpt.chanRequests.set ch (droppedRead (s.chanRequest ch)) } } := by
  unfold State.freeChannel State.dropRead
  have hu : (s.setChan ch Channel.reset).chanRequest ch = s.chanRequest ch := rfl
  rw [hu]
  rcases hr : s.chanRequest ch with _ | r
  · have hr' : s.bpt.chanRequests[ch.val] = none := hr
    have hv : s.bpt.chanRequests.set ch.val none = s.bpt.chanRequests := by
      apply Vector.ext; intro n hn
      rw [Vector.getElem_set]; split
      · next h => subst h; exact hr'.symm
      · rfl
    simp [droppedRead, State.setChan, hv]
  · rfl

/-- A record entering a state: the record moved, one RECORD event, nothing else. -/
theorem State.enter_eq (i : RecIx) (st : ActState) (why : ChangeReason) :
    s.enter i st why =
      { s with
        records := s.records.set i ((s.record i).moveTo st s.ltu.cycle)
        evw := (s.raise (recordEvent i st why (s.record i).tag)).evw
        counters := (s.raise (recordEvent i st why (s.record i).tag)).counters } := by
  unfold State.enter State.raiseRecord State.moveQuietly State.onRecord State.setRecord State.raise
  simp only [State.record, Fin.getElem_fin, Vector.getElem_set_self]
  split
  · rfl
  · split <;> rfl
/-- An event depends on what the EVW and the cycle count are, and on the port. -/
theorem State.raise_congr {s t : State} (e : Raise) (h1 : t.evw = s.evw) (h2 : t.counters = s.counters) (h3 : t.ltu.cycle = s.ltu.cycle)
    (h4 : t.pct = s.pct) : (t.raise e).evw = (s.raise e).evw ∧ (t.raise e).counters = (s.raise e).counters := by
  have hn : t.numbered e = s.numbered e := by simp [State.numbered, h1, h3]
  unfold State.raise
  simp only [h1, h2, h4, hn]
  split
  · exact ⟨h1, h2⟩
  · split <;> simp

/-- Two runs of events from states alike in what events depend on. -/
theorem events_trans {s t u : State} {es fs : List Raise} (h1 : EventsRaised s t es) (h2 : EventsRaised t u fs)
    (h3 : t.ltu.cycle = s.ltu.cycle) (h4 : t.pct = s.pct) : EventsRaised s u (es ++ fs) := by
  have hfold : ∀ (es : List Raise) (u v : State), u.evw = v.evw → u.counters = v.counters → u.ltu.cycle = v.ltu.cycle →
      u.pct = v.pct → (es.foldl State.raise u).evw = (es.foldl State.raise v).evw ∧
        (es.foldl State.raise u).counters = (es.foldl State.raise v).counters := by
    intro es
    induction es with
    | nil => intro u v h1 h2 _ _; exact ⟨h1, h2⟩
    | cons e es ih =>
      intro u v h1 h2 h3 h4
      obtain ⟨r1, r2⟩ := State.raise_congr (s := v) (t := u) e h1 h2 h3 h4
      exact ih _ _ r1 r2 (by simpa using h3) (by simpa using h4)
  have hc : (es.foldl State.raise s).ltu = s.ltu := foldl_keeps _ State.ltu (fun t a => by simp) es s
  have hp : (es.foldl State.raise s).pct = s.pct := foldl_keeps _ State.pct (fun t a => by simp) es s
  have := hfold fs t (es.foldl State.raise s) h1.1 h1.2 (by rw [h3, hc]) (by rw [h4, hp])
  constructor
  · rw [h2.1, List.foldl_append, this.1]
  · rw [h2.2, List.foldl_append, this.2]

theorem armDropped_trans {s t u : State} {P Q : Interval → Prop} (h : ArmDropped s t P) (k : ArmDropped t u Q) :
    ArmDropped s u (fun id => P id ∨ Q id) := by
  constructor
  · intro id ha hpq
    by_cases hp : P id
    · obtain ⟨a1, a2⟩ := h.drops id ha hp
      obtain ⟨b1, b2⟩ := k.stays (fun x hx => by rw [a1] at hx; cases hx)
      exact ⟨b1.trans a1, b2.trans a2⟩
    · obtain ⟨a1, a2⟩ := h.stays (fun x hx => by rw [ha] at hx; cases hx; exact hp)
      obtain ⟨b1, b2⟩ := k.drops id (a1.trans ha) (hpq.resolve_left hp)
      exact ⟨b1, by rw [b2, a2]⟩
  · intro hn
    obtain ⟨a1, a2⟩ := h.stays (fun x hx hp => hn x hx (.inl hp))
    obtain ⟨b1, b2⟩ := k.stays (fun x hx hq => hn x (a1 ▸ hx) (.inr hq))
    exact ⟨b1.trans a1, b2.trans a2⟩

/-- What the arm line does depends on the identity armed and the BRX alone. -/
theorem armDropped_congr {s t s' t' : State} {P Q : Interval → Prop} (h : ArmDropped s t P) (a1 : s'.ltu.armed = s.ltu.armed)
    (a2 : s'.brx = s.brx) (b1 : t'.ltu.armed = t.ltu.armed) (b2 : t'.brx = t.brx) (hpq : ∀ id, Q id ↔ P id) : ArmDropped s' t' Q := by
  constructor
  · intro id h1 h2
    rw [b1, b2, a2]
    exact h.drops id (a1 ▸ h1) ((hpq id).1 h2)
  · intro h1
    rw [b1, b2, a1, a2]
    exact h.stays (fun id h2 h3 => h1 id (a1.trans h2) ((hpq id).2 h3))

theorem armDropped_none {s t : State} {P : Interval → Prop} (h1 : t.ltu.armed = s.ltu.armed) (h2 : t.brx = s.brx) (hp : ∀ id, ¬P id) :
    ArmDropped s t P := ⟨fun id _ h => absurd h (hp id), fun _ => ⟨h1, h2⟩⟩

/-- A channel granted depends on the records, the PEX, the requests and the cycle number alone. -/
theorem granted_congr {s c t t' : State} {ch : ChanIx} {k : RecIx} (h : Granted c t ch k) (h1 : c.record k = s.record k)
    (h2 : c.pex = s.pex) (h3 : c.bpt = s.bpt) (h4 : c.ltu.cycle = s.ltu.cycle) (t1 : t'.records = t.records) (t2 : t'.pex = t.pex)
    (t3 : t'.bpt = t.bpt) : Granted s t' ch k := by
  have e1 : imageOf c k = imageOf s k := by simp only [imageOf, State.dirEntry, h1, h2]
  have e2 : c.chanRequest ch = s.chanRequest ch := by simp only [State.chanRequest, h3]
  constructor
  · have := h.record
    simp only [h1, h4, e1] at this
    rw [State.record_congr t t1 k, this]
  · have := h.pex
    simp only [h1, h2, e1] at this
    rw [t2]
    exact this
  · have := h.bpt
    simp only [h3, e1, e2] at this
    rw [t3]
    exact this

/-- The events raised from states alike in what events depend on. -/
theorem eventsRaised_congr {s c t : State} {es : List Raise} (h : EventsRaised c t es) (h1 : c.evw = s.evw) (h2 : c.counters = s.counters)
    (h3 : c.ltu.cycle = s.ltu.cycle) (h4 : c.pct = s.pct) : EventsRaised s t es := by
  have h0 : EventsRaised s c [] := ⟨h1, h2⟩
  exact events_trans h0 h h3 h4

/-- A record that enters PROFILING is given a channel (R18, R19, R78, R81): the pre-scan of its entry begins, and nothing else changes. -/
theorem State.profile_spec (ch : ChanIx) (k : RecIx) (why : ChangeReason) :
    let t := (s.enter k .profiling why).grantChannel ch k
    ScanBegun s t ch k (s.chanRequest ch) ∧ t.pex.waiting = s.pex.waiting ∧ (∀ m, m ≠ k → t.record m = s.record m) ∧
    EventsRaised s t [recordEvent k .profiling why (s.record k).tag] ∧
    t = { s with records := t.records, pex := t.pex, bpt := t.bpt, evw := t.evw, counters := t.counters } := by
  intro t
  have hue := s.enter_eq k .profiling why
  generalize hu : s.enter k .profiling why = u at hue
  have ht : t = u.grantChannel ch k := by simp only [t, hu]
  clear_value t
  have hur : u.records = s.records.set k ((s.record k).moveTo .profiling s.ltu.cycle) := by rw [hue]
  have huk : u.record k = (s.record k).moveTo .profiling s.ltu.cycle := by simp [State.record, hur]
  have hset : ∀ (x y : State) (r : Record), x.records = y.records.set k r → ∀ m, m ≠ k → x.record m = y.record m := by
    intro x y r h m hm
    have := State.record_set y y.records k m r
    rw [if_neg hm] at this
    exact (State.record_congr _ h m).trans this
  have hum := hset u s _ hur
  have hup : u.pex = s.pex := by rw [hue]
  have hub : u.bpt = s.bpt := by rw [hue]
  have hp : profileDir (u.record k).profileIx = profileDir (s.record k).profileIx := by rw [huk]; rfl
  have he : u.dirEntry (profileDir (s.record k).profileIx) = imageOf s k := by simp only [State.dirEntry, hup]; rfl
  have hg := u.grantChannel_eq ch k hp he
  rw [← ht] at hg
  have hreq : u.chanRequest ch = s.chanRequest ch := by simp only [State.chanRequest, hub]
  have hrec : t.records = if (imageOf s k).length = 0 then u.records.set k { u.record k with blocksTotal := 0, blocksAcked := 0 }
      else u.records := by rw [hg]
  have hte : t.evw = u.evw ∧ t.counters = u.counters := by rw [hg]; exact ⟨rfl, rfl⟩
  refine ⟨⟨?_, ?_, ?_⟩, ?_, ?_, ⟨?_, ?_⟩, ?_⟩
  · by_cases h0 : (imageOf s k).length = 0
    · rw [if_pos h0] at hrec
      have : t.record k = { u.record k with blocksTotal := 0, blocksAcked := 0 } := by simp [State.record, hrec]
      rw [this, huk]
      simp only [if_pos h0]
      rfl
    · rw [if_neg h0] at hrec
      rw [State.record_congr u hrec k, huk]
      simp only [if_neg h0]
      rfl
  · rw [hg]
    simp only [hup]
  · rw [hg]
    simp only [hreq, hub]
    rcases hr : s.chanRequest ch with _ | r
    · by_cases hs : scanStage (imageOf s k) = .scanning
      · simp [hs]
      · have hr' : s.bpt.chanRequests[ch.val] = none := hr
        have hv : s.bpt.chanRequests.set ch.val none = s.bpt.chanRequests := by
          apply Vector.ext; intro n hn
          rw [Vector.getElem_set]; split
          · next h => subst h; exact hr'.symm
          · rfl
        simp [hs, hv]
    · have hr' : s.bpt.chanRequests[ch.val] = some r := hr
      have hv : s.bpt.chanRequests.set ch.val (some r) = s.bpt.chanRequests := by
        apply Vector.ext; intro n hn
        rw [Vector.getElem_set]; split
        · next h => subst h; exact hr'.symm
        · rfl
      simp [hv]
  · rw [hg, ← hup]
  · intro m hm
    by_cases h0 : (imageOf s k).length = 0
    · rw [if_pos h0] at hrec
      exact (hset t u _ hrec m hm).trans (hum m hm)
    · rw [if_neg h0] at hrec
      exact (State.record_congr u hrec m).trans (hum m hm)
  · rw [hte.1, hue]; rfl
  · rw [hte.2, hue]; rfl
  · have h1 : u = { s with records := u.records, evw := u.evw, counters := u.counters } := hue.trans (by rw [hue])
    have h2 : t = { u with records := t.records, pex := t.pex, bpt := t.bpt } := hg.trans (by rw [hg])
    rw [hte.1, hte.2, h2, h1]

/-- A freed channel passed on (R19, R81): to the head of the profile-wait queue, which enters PROFILING with its RECORD event. -/
theorem State.passChannel_spec (ch : ChanIx) (k : RecIx) (rest : List RecIx) (hw : s.pex.waiting = k :: rest) :
    let t := (s.freeChannel ch).grantWaiting ch
    Granted s t ch k ∧ t.pex.waiting = rest ∧ (∀ m, m ≠ k → t.record m = s.record m) ∧
    EventsRaised s t [recordEvent k .profiling .channel (s.record k).tag] ∧ t.dsq = s.dsq := by
  intro t
  generalize hf : s.freeChannel ch = f
  have hfe := s.freeChannel_eq ch
  rw [hf] at hfe
  have hfw : f.pex.waiting = k :: rest := by rw [hfe]; exact hw
  generalize hv : ({ f with pex := { f.pex with waiting := rest } } : State) = v
  have ve : v = { s with
      pex := { s.pex with chans := s.pex.chans.set ch Channel.reset, waiting := rest }
      bpt := { s.bpt with chanRequests := s.bpt.chanRequests.set ch (droppedRead (s.chanRequest ch)) } } := by rw [← hv, hfe]
  have ht : t = (v.enter k .profiling .channel).grantChannel ch k := by
    simp only [t, hf, State.grantWaiting, hfw, hv]
  clear_value t
  obtain ⟨h1, h2, h3, h4, h5⟩ := v.profile_spec ch k .channel
  rw [← ht] at h1 h2 h3 h4 h5
  have hreq : v.chanRequest ch = droppedRead (s.chanRequest ch) := by simp [State.chanRequest, ve]
  have vrec : ∀ m, v.record m = s.record m := fun m => State.record_congr s (by rw [ve]) m
  have vp : v.pex = { s.pex with chans := s.pex.chans.set ch Channel.reset, waiting := rest } := by rw [ve]
  have vb : v.bpt = { s.bpt with chanRequests := s.bpt.chanRequests.set ch (droppedRead (s.chanRequest ch)) } := by rw [ve]
  have vimg : imageOf v k = imageOf s k := by simp only [imageOf, State.dirEntry, vrec, vp]
  rw [hreq] at h1
  refine ⟨⟨?_, ?_, ?_⟩, ?_, fun m hm => (h3 m hm).trans (vrec m), ?_, ?_⟩
  · have := h1.record
    simp only [vrec, vimg, show v.ltu.cycle = s.ltu.cycle by rw [ve]] at this
    exact this
  · have := h1.pex
    simp only [vrec, vimg, vp, Vector.set_set] at this
    exact this
  · have := h1.bpt
    simp only [vimg, vb, Vector.set_set] at this
    exact this
  · rw [h2, ve]
  · rw [vrec] at h4
    exact eventsRaised_congr h4 (by rw [ve]) (by rw [ve]) (by rw [ve]) (by rw [ve])
  · rw [h5, ve]

/-- A freed channel with no record waiting stays FREE. -/
theorem State.grantWaiting_none (ch : ChanIx) (h : s.pex.waiting = []) : s.grantWaiting ch = s := by
  unfold State.grantWaiting; rw [h]

/-- A record's push dropped (R11, R81, R90): it waits for no channel, and a channel it held is free or passed on. -/
theorem State.dropPush_spec (i : RecIx) :
    let t := s.dropPush i
    (s.channelOf i = none → t.pex = { s.pex with waiting := waitingWithout s i } ∧ t.bpt = s.bpt ∧ ∀ k, k ≠ i → t.record k = s.record k) ∧
    (∀ ch, s.channelOf i = some ch → waitingWithout s i = [] →
      t.pex = { s.pex with chans := s.pex.chans.set ch Channel.reset, waiting := [] } ∧
      t.bpt = { s.bpt with chanRequests := s.bpt.chanRequests.set ch (droppedRead (s.chanRequest ch)) } ∧
      ∀ k, k ≠ i → t.record k = s.record k) ∧
    (∀ ch k ws, s.channelOf i = some ch → waitingWithout s i = k :: ws →
      Granted s t ch k ∧ t.pex.waiting = ws ∧ ∀ m, m ≠ i → m ≠ k → t.record m = s.record m) ∧
    t.record i = s.record i ∧ t.dsq = s.dsq ∧ EventsRaised s t (passEvents s i) := by
  intro t
  have hiw : i ∉ waitingWithout s i := by simp [waitingWithout]
  generalize hw : waitingWithout s i = w at *
  generalize hv : ({ s with pex := { s.pex with waiting := w } } : State) = v
  have hco : v.channelOf i = s.channelOf i := State.channelOf_congr s (by rw [← hv]) i
  have ht : t = match s.channelOf i with
      | none => v
      | some ch => (v.freeChannel ch).grantWaiting ch := by
    rw [← hco, ← hv, ← hw]
    rfl
  clear_value t
  have vr : v.records = s.records := by rw [← hv]
  have vp : v.pex = { s.pex with waiting := w } := by rw [← hv]
  have vo : v.bpt = s.bpt ∧ v.dsq = s.dsq ∧ v.evw = s.evw ∧ v.counters = s.counters ∧ v.ltu = s.ltu ∧ v.pct = s.pct := by
    rw [← hv]; exact ⟨rfl, rfl, rfl, rfl, rfl, rfl⟩
  have vrec : ∀ m, v.record m = s.record m := fun m => State.record_congr s vr m
  have vreq : ∀ ch, v.chanRequest ch = s.chanRequest ch := by intro ch; simp only [State.chanRequest, vo.1]
  rcases hc : s.channelOf i with _ | ch <;> rw [hc] at ht <;> simp only at ht
  · subst ht
    have hpe : passEvents s i = [] := by simp [passEvents, hc]
    rw [hpe]
    exact ⟨fun _ => ⟨vp, vo.1, fun k _ => vrec k⟩, fun ch h => (by cases h), fun ch k ws h => (by cases h), vrec i, vo.2.1,
      vo.2.2.1, vo.2.2.2.1⟩
  · rcases hwl : w with _ | ⟨k, rest⟩
    · have hfe := v.freeChannel_eq ch
      rw [State.grantWaiting_none _ ch (by rw [hfe]; show v.pex.waiting = []; rw [vp]; exact hwl), hfe] at ht
      have hpe : passEvents s i = [] := by simp [passEvents, hc, hw, hwl]
      rw [hpe]
      subst ht
      refine ⟨fun h => (by cases h), ?_, fun _ _ _ _ h => (by cases h), vrec i, vo.2.1, vo.2.2.1, vo.2.2.2.1⟩
      intro c h _
      cases h
      refine ⟨?_, ?_, fun k _ => vrec k⟩
      · simp only [vp, hwl]
      · simp only [vo.1, vreq]
    · have hki : k ≠ i := fun e => hiw (by rw [hwl, e]; simp)
      obtain ⟨g1, g2, g3, g4, g5⟩ := v.passChannel_spec ch k rest (by rw [vp]; exact hwl)
      rw [← ht] at g1 g2 g3 g4 g5
      have hpe : passEvents s i = [recordEvent k .profiling .channel (s.record k).tag] := by simp [passEvents, hc, hw, hwl]
      rw [hpe]
      refine ⟨fun h => (by cases h), fun _ _ h => (by cases h), ?_, ?_, ?_, ?_⟩
      · intro c k' ws h h'
        cases h; cases h'
        refine ⟨?_, g2, fun m _ hm => (g3 m hm).trans (vrec m)⟩
        have e1 : imageOf v k = imageOf s k := by simp only [imageOf, State.dirEntry, vrec, vp]
        constructor
        · have := g1.record
          simp only [vrec, e1, vo.2.2.2.2.1] at this
          exact this
        · have := g1.pex
          simp only [vrec, e1, vp] at this
          exact this
        · have := g1.bpt
          simp only [vreq, e1, vo.1] at this
          exact this
      · rw [g3 i (Ne.symm hki), vrec]
      · rw [g5, vo.2.1]
      · rw [vrec] at g4
        have := State.raise_congr (s := s) (t := v) (recordEvent k .profiling .channel (s.record k).tag) vo.2.2.1 vo.2.2.2.1
          (by rw [vo.2.2.2.2.1]) vo.2.2.2.2.2
        exact ⟨g4.1.trans this.1, g4.2.trans this.2⟩

/-- The quiet resource ended early (R104): the messages it sends, the state it leaves, the arm line; the map and the captures stay. -/
theorem State.endQuiet_spec :
    s.endQuiet.ltu = { s.ltu with quiet := .idle, armed := s.endQuiet.ltu.armed } ∧
    s.endQuiet.links = { s.links with sched := s.links.sched ++ quietEnd s.ltu.quiet } ∧
    s.endQuiet.dsq = { s.dsq with window := (match s.ltu.quiet with | .given _ => none | _ => s.dsq.window) } ∧
    s.endQuiet.brx.queue = s.brx.queue ∧
    ArmDropped s s.endQuiet (fun id => ∃ w, s.ltu.quiet = .opened w ∧ w.interval = id) := by
  unfold State.endQuiet
  rcases h : s.ltu.quiet with _ | w | w | w
  · exact ⟨congrArg (fun q => { s.ltu with quiet := q }) h, by simp [quietEnd], rfl, rfl, armDropped_none rfl rfl (by simp)⟩
  · exact ⟨rfl, rfl, rfl, rfl, armDropped_none rfl rfl (by simp)⟩
  · exact ⟨rfl, rfl, rfl, rfl, armDropped_none rfl rfl (by simp)⟩
  · unfold State.endWindow State.disarmFor
    dsimp only
    split
    · next ha =>
      refine ⟨rfl, rfl, rfl, rfl, fun _ _ _ => ⟨rfl, rfl⟩, fun hn => absurd ⟨w, rfl, rfl⟩ (hn _ ha)⟩
    · next ha =>
      refine ⟨rfl, rfl, rfl, rfl, fun id h1 h2 => ?_, fun _ => ⟨rfl, rfl⟩⟩
      obtain ⟨w', h2, h3⟩ := h2
      cases h2
      exact absurd (h3 ▸ h1) ha

/-- Bookings turned into voids (R107), and the arm line with them. -/
theorem State.voidSlots_spec (p : Slot → Bool) :
    (s.voidSlots p).ltu = { s.ltu with
      map := s.ltu.map.map (fun e => if p e then { e with use := .void } else e), armed := (s.voidSlots p).ltu.armed } ∧
    (s.voidSlots p).brx.queue = s.brx.queue ∧
    ArmDropped s (s.voidSlots p) (fun id => ∃ e ∈ s.ltu.map, p e = true ∧ e.interval = some id) := by
  unfold State.voidSlots
  dsimp only
  have harm : s.armedAmong p = true ↔ ∃ id, s.ltu.armed = some id ∧ ∃ e ∈ s.ltu.map, p e = true ∧ e.interval = some id := by
    unfold State.armedAmong
    rcases s.ltu.armed with _ | id <;> simp
  split
  · next h =>
    obtain ⟨id, h1, h2⟩ := harm.1 h
    exact ⟨rfl, rfl, fun _ _ _ => ⟨rfl, rfl⟩, fun hn => absurd h2 (hn id h1)⟩
  · next h => exact ⟨rfl, rfl, fun id h1 h2 => absurd (harm.2 ⟨id, h1, h2⟩) h, fun _ => ⟨rfl, rfl⟩⟩

/-- The ranging work of a record dropped (R11, R66, R104). -/
theorem State.dropRanging_spec (i : RecIx) :
    let t := s.dropRanging i
    t.rgu = { s.rgu with
      queue := s.rgu.queue.filter (fun k => decide (k ≠ i)), settles := s.rgu.settles.set i none
      attempt := s.rgu.attempt.filter (fun a => decide (a.index ≠ i)) } ∧
    (s.quietIsFor i = true → t.ltu.quiet = .idle ∧ t.links = { s.links with sched := s.links.sched ++ quietEnd s.ltu.quiet } ∧
      t.dsq = { s.dsq with window := (match s.ltu.quiet with | .given _ => none | _ => s.dsq.window) }) ∧
    (s.quietIsFor i = false → t.ltu.quiet = s.ltu.quiet ∧ t.links = s.links ∧ t.dsq = s.dsq) ∧
    t.ltu = { s.ltu with quiet := t.ltu.quiet, armed := t.ltu.armed } ∧ t.bpt = s.bpt ∧
    ArmDropped s t (fun id => s.quietIsFor i = true ∧ ∃ w, s.ltu.quiet = .opened w ∧ w.interval = id) := by
  intro t
  generalize hs1 : ((s.leaveRanging i).setSettle i none).closeAttemptOf i = s1
  have ht : t = if s1.quietIsFor i then s1.endQuiet else s1 := by simp only [t, State.dropRanging, hs1]
  clear_value t
  have hca : ∀ u : State, u.closeAttemptOf i = { u with rgu := { u.rgu with
      attempt := u.rgu.attempt.filter (fun a => decide (a.index ≠ i)) } } := by
    intro u
    unfold State.closeAttemptOf
    rcases h : u.rgu.attempt with _ | a
    · exact congrArg (fun x => { u with rgu := { u.rgu with attempt := x } }) h
    · by_cases hi : a.index = i
      · simp [hi, Option.filter]
      · simp only [hi, if_false, Option.filter, ne_eq, not_false_eq_true, decide_true, if_true]
        exact congrArg (fun x => { u with rgu := { u.rgu with attempt := x } }) h
  have hs : s1 = { s with rgu := { s.rgu with
      queue := s.rgu.queue.filter (fun k => decide (k ≠ i)), settles := s.rgu.settles.set i none
      attempt := s.rgu.attempt.filter (fun a => decide (a.index ≠ i)) } } := by rw [← hs1, hca]; rfl
  clear hs1 hca
  have hl : s1.ltu = s.ltu ∧ s1.links = s.links ∧ s1.dsq = s.dsq ∧ s1.brx = s.brx ∧ s1.bpt = s.bpt := by
    rw [hs]; exact ⟨rfl, rfl, rfl, rfl, rfl⟩
  have hr : s1.rgu = _ := congrArg State.rgu hs
  clear hs
  obtain ⟨l1, l2, l3, l4, l5⟩ := hl
  have hq : s1.quietIsFor i = s.quietIsFor i := by simp [State.quietIsFor, l1]
  obtain ⟨e1, e2, e3, _, e5⟩ := s1.endQuiet_spec
  rw [hq] at ht
  rcases hb : s.quietIsFor i <;> rw [hb] at ht
  · simp only [Bool.false_eq_true, if_false] at ht
    subst ht
    exact ⟨hr, fun h => (by cases h), fun _ => ⟨by rw [l1], l2, l3⟩, by rw [l1], l5,
      armDropped_none (by rw [l1]) l4 (by simp)⟩
  · simp only [if_true] at ht
    subst ht
    have hx : s1.endQuiet.rgu = s1.rgu ∧ s1.endQuiet.bpt = s1.bpt := by simp
    refine ⟨hx.1.trans hr, fun _ => ⟨?_, ?_, ?_⟩, fun h => (by cases h), ?_, hx.2.trans l5, ?_⟩
    · rw [e1]
    · rw [e2, l1, l2]
    · rw [e3, l1, l3]
    · conv_lhs => rw [e1]
      rw [l1]
      rw [show s1.endQuiet.ltu.quiet = .idle from by rw [e1]]
    · exact armDropped_congr e5 (by rw [l1]) l4.symm rfl rfl (by simp [l1])

/-- The window-message slot without the RANGE-ASK of record `i` (R11). -/
theorem State.dropMessages_window (i : RecIx) :
    ((∃ c n, s.dsq.window = some { cq := c, message := .rangeAsk i n }) → (s.dropMessages i).dsq.window = none) ∧
    ((∀ c n, s.dsq.window ≠ some { cq := c, message := .rangeAsk i n }) → (s.dropMessages i).dsq.window = s.dsq.window) := by
  unfold State.dropMessages
  dsimp only
  rcases h : s.dsq.window with _ | ⟨c', m⟩
  · simp
  · rcases m with e | ⟨k, n'⟩
    · simp
    · by_cases hk : k = i <;> simp [hk]

/-- What abandonment leaves depends on neither record `i` nor the events raised before it, and putting the record on the urgent list after it
changes none of it. -/
theorem abandoned_congr {s c t : State} {i : RecIx} (h : Abandoned c t i) (hr : ∀ k, k ≠ i → c.record k = s.record k)
    (hc : c = { s with records := c.records, evw := c.evw, counters := c.counters }) : Abandoned s (t.appendUrgent i) i := by
  obtain ⟨dsq, rgu, ltu, links, brx, pex, bpt⟩ : c.dsq = s.dsq ∧ c.rgu = s.rgu ∧ c.ltu = s.ltu ∧ c.links = s.links ∧ c.brx = s.brx ∧
      c.pex = s.pex ∧ c.bpt = s.bpt := by rw [hc]; and_intros <;> rfl
  obtain ⟨header, dsu, pct, sram, pending⟩ : c.header = s.header ∧ c.dsu = s.dsu ∧ c.pct = s.pct ∧ c.sram = s.sram ∧
      c.pending = s.pending := by rw [hc]; and_intros <;> rfl
  have hq : c.quietIsFor i = s.quietIsFor i := by simp only [State.quietIsFor, ltu]
  have hh : c.channelOf i = s.channelOf i := State.channelOf_congr s (by rw [pex]) i
  have hw : waitingWithout c i = waitingWithout s i := by simp only [waitingWithout, pex]
  have hcr : ∀ ch, c.chanRequest ch = s.chanRequest ch := by intro ch; simp only [State.chanRequest, bpt]
  constructor
  · exact dsq ▸ h.reply
  · rw [← dsq, ← hq, ← ltu]; exact h.windowGone
  · rw [← dsq, ← hq, ← ltu]; exact h.windowKept
  · exact rgu ▸ h.rgu
  · rw [← ltu, ← links, ← hq]; exact h.quiet
  · rw [← ltu, ← links, ← hq]; exact h.quietKept
  · rw [← ltu]; exact h.bookings
  · exact armDropped_congr h.arm (by rw [ltu]) brx.symm rfl rfl (by simp only [hq, ltu, implies_true])
  · intro hn
    obtain ⟨a, b, d⟩ := h.noChannel (hh.trans hn)
    exact ⟨a.trans (by rw [pex, hw]), b.trans bpt, fun k hk => (d k hk).trans (hr k hk)⟩
  · intro ch hn hl
    obtain ⟨a, b, d⟩ := h.freed ch (hh.trans hn) (hw.trans hl)
    exact ⟨a.trans (by simp only [pex]), b.trans (by simp only [bpt, hcr]), fun k hk => (d k hk).trans (hr k hk)⟩
  · intro ch k ws hn hl
    obtain ⟨a, b, d⟩ := h.passedOn ch k ws (hh.trans hn) (hw.trans hl)
    have hk : k ≠ i := by
      have : k ∈ waitingWithout s i := by rw [hl]; simp
      simp [waitingWithout] at this
      exact this.2
    exact ⟨granted_congr a (hr k hk) pex bpt (by rw [ltu]) rfl rfl rfl, b, fun m hm hm' => (d m hm hm').trans (hr m hm)⟩
  · obtain ⟨k1, k2, k3, k4, k5⟩ := h.kept
    exact ⟨k1.trans header, k2.trans dsu, k3.trans pct, k4.trans sram, k5.trans pending⟩

/-- The work in flight for a record is abandoned by every block as R11 lists, and the record itself is as it was. -/
theorem State.abandonWork_spec (i : RecIx) :
    Abandoned s (s.abandonWork i) i ∧ (s.abandonWork i).record i = s.record i ∧
    (s.abandonWork i).dsq.control = s.dsq.control.filter (fun e => decide (e.index ≠ i)) ∧
    (s.abandonWork i).dsq.urgent = s.dsq.urgent ∧ EventsRaised s (s.abandonWork i) (passEvents s i) := by
  generalize h1 : s.dropMessages i = a
  generalize h2 : a.dropRanging i = b
  generalize h3 : b.voidBookingOf i = c
  generalize h4 : c.dropPush i = t
  have ht : s.abandonWork i = t := by simp only [State.abandonWork, h1, h2, h3, h4]
  rw [ht]
  have fa : a.records = s.records ∧ a.counters = s.counters ∧ a.rgu = s.rgu ∧ a.pex = s.pex ∧ a.ltu = s.ltu ∧ a.brx = s.brx ∧
      a.evw = s.evw ∧ a.pct = s.pct ∧ a.links = s.links ∧ a.bpt = s.bpt ∧
      a.dsq.control = s.dsq.control.filter (fun e => decide (e.index ≠ i)) ∧
      a.dsq.reply = s.dsq.reply.filter (fun e => decide (e.index ≠ i)) ∧ a.dsq.urgent = s.dsq.urgent := by
    rw [← h1]; exact ⟨rfl, rfl, rfl, rfl, rfl, rfl, rfl, rfl, rfl, rfl, rfl, rfl, rfl⟩
  obtain ⟨a1, a2, a3, a4, a5, a6, a7, a8, a9, a10, a11, a12, a13⟩ := fa
  obtain ⟨aw, aw'⟩ := s.dropMessages_window i
  rw [h1] at aw aw'
  have fb := a.dropRanging_spec i
  rw [h2] at fb
  obtain ⟨b1, b2, b3, b4, b5, b6⟩ := fb
  have bq : a.quietIsFor i = s.quietIsFor i := by simp [State.quietIsFor, a5]
  rw [bq] at b2 b3 b6
  rw [a5] at b2 b3 b4 b6
  have bf : b.records = a.records ∧ b.counters = a.counters ∧ b.pex = a.pex ∧ b.evw = a.evw ∧ b.pct = a.pct := by rw [← h2]; simp
  obtain ⟨f1, f2, f3, f4, f5⟩ := bf
  have bd : b.dsq.control = a.dsq.control ∧ b.dsq.reply = a.dsq.reply ∧ b.dsq.urgent = a.dsq.urgent := by
    rcases hq : s.quietIsFor i
    · rw [(b3 hq).2.2]; exact ⟨rfl, rfl, rfl⟩
    · rw [(b2 hq).2.2]; exact ⟨rfl, rfl, rfl⟩
  obtain ⟨c1, _, c2⟩ := b.voidSlots_spec (fun e => e.isFor i)
  rw [show b.voidSlots (fun e => e.isFor i) = c from h3] at c1 c2
  have cf : c.records = b.records ∧ c.counters = b.counters ∧ c.rgu = b.rgu ∧ c.pex = b.pex ∧ c.dsq = b.dsq ∧ c.evw = b.evw ∧
      c.pct = b.pct ∧ c.links = b.links ∧ c.bpt = b.bpt := by rw [← h3]; simp
  obtain ⟨d1, d2, d3, d4, d5, d6, d7, d8, d9⟩ := cf
  have fd := c.dropPush_spec i
  rw [h4] at fd
  obtain ⟨p1, p2, p3, p4, p5, p6⟩ := fd
  have tf : t.rgu = c.rgu ∧ t.ltu = c.ltu ∧ t.brx = c.brx ∧ t.links = c.links := by rw [← h4]; simp
  obtain ⟨t1, t2, t3, t4⟩ := tf
  have keep : t.header = s.header ∧ t.dsu = s.dsu ∧ t.pct = s.pct ∧ t.sram = s.sram ∧ t.pending = s.pending := by
    rw [← ht]; exact s.abandonWork_frame i
  have crec : ∀ k, c.record k = s.record k := fun k => State.record_congr s (by rw [d1, f1, a1]) k
  have cpex : c.pex = s.pex := by rw [d4, f3, a4]
  have cbpt : c.bpt = s.bpt := by rw [d9, b5, a10]
  have cltu : c.ltu = { s.ltu with
      quiet := c.ltu.quiet, armed := c.ltu.armed, map := s.ltu.map.map (fun e => if e.isFor i then { e with use := .void } else e) } := by
    have hbm : b.ltu.map = s.ltu.map := by rw [b4]
    have hcq : c.ltu.quiet = b.ltu.quiet := by rw [c1]
    rw [hbm] at c1
    rw [hcq]
    conv_lhs => rw [c1]
    conv_lhs => rw [b4]
  have cq : c.ltu.quiet = b.ltu.quiet := by rw [c1]
  have cch : c.channelOf i = s.channelOf i := State.channelOf_congr s (by rw [cpex]) i
  have cw : waitingWithout c i = waitingWithout s i := by simp only [waitingWithout, cpex]
  have creq : ∀ ch, c.chanRequest ch = s.chanRequest ch := by intro ch; simp only [State.chanRequest, cbpt]
  have ccy : c.ltu.cycle = s.ltu.cycle := by rw [cltu]
  refine ⟨?_, ?_, ?_, ?_, ?_⟩
  · constructor
    · rw [p5, d5, bd.2.1, a12]
    · intro h
      rw [p5, d5]
      rcases h with h | ⟨hq, w, hw⟩
      · rcases hq : s.quietIsFor i
        · rw [(b3 hq).2.2, aw h]
        · rw [(b2 hq).2.2, aw h]; split <;> rfl
      · rw [(b2 hq).2.2, hw]
    · intro h h'
      rw [p5, d5]
      rcases hq : s.quietIsFor i
      · rw [(b3 hq).2.2, aw' h]
      · rw [(b2 hq).2.2]
        rcases hw : s.ltu.quiet with _ | w | w | w
        · exact aw' h
        · exact aw' h
        · exact absurd hq (by rw [h' w hw]; simp)
        · exact aw' h
    · rw [t1, d3, b1, a3]
    · intro h
      obtain ⟨q1, q2, _⟩ := b2 h
      exact ⟨by rw [t2, cq, q1], by rw [t4, d8, q2, a9]⟩
    · intro h
      obtain ⟨q1, q2, _⟩ := b3 h
      exact ⟨by rw [t2, cq, q1], by rw [t4, d8, q2, a9]⟩
    · rw [t2]; exact cltu
    · refine armDropped_congr (armDropped_trans b6 c2) (by rw [a5]) a6.symm (by rw [t2]) t3 (fun id => ?_)
      have hbm : b.ltu.map = s.ltu.map := by rw [b4]
      rw [hbm]
    · intro h
      obtain ⟨x, y, z⟩ := p1 (cch.trans h)
      exact ⟨by rw [x, cpex, cw], by rw [y, cbpt], fun k hk => by rw [z k hk, crec]⟩
    · intro ch h hl
      obtain ⟨x, y, z⟩ := p2 ch (cch.trans h) (cw.trans hl)
      refine ⟨?_, ?_, fun k hk => by rw [z k hk, crec]⟩
      · rw [x]; simp only [cpex]
      · rw [y]; simp only [cbpt, creq]
    · intro ch k ws h hl
      obtain ⟨x, y, z⟩ := p3 ch k ws (cch.trans h) (cw.trans hl)
      exact ⟨granted_congr x (crec k) cpex cbpt ccy rfl rfl rfl, y, fun m hm hm' => by rw [z m hm hm', crec]⟩
    · exact keep
  · rw [p4, crec]
  · rw [p5, d5, bd.1, a11]
  · rw [p5, d5, bd.2.2, a13]
  · have hpe : passEvents c i = passEvents s i := by simp only [passEvents, cch, cw, crec]
    rw [hpe] at p6
    exact eventsRaised_congr p6 (by rw [d6, f4, a7]) (by rw [d2, f2, a2]) ccy (by rw [d7, f5, a8])

/-- A record entering a state: the record moved, one RECORD event, nothing else. -/
theorem State.enter_spec (i : RecIx) (st : ActState) (why : ChangeReason) :
    (∀ k, (s.enter i st why).record k = if k = i then (s.record i).moveTo st s.ltu.cycle else s.record k) ∧
    EventsRaised s (s.enter i st why) [recordEvent i st why (s.record i).tag] := by
  have hrec : ∀ k, (s.moveQuietly i st).record k = if k = i then (s.record i).moveTo st s.ltu.cycle else s.record k :=
    fun k => State.record_onRecord s i k _
  constructor
  · intro k
    rw [State.record_congr (s.moveQuietly i st) (by simp [State.enter]) k, hrec]
  · have h0 : s.enter i st why = (s.moveQuietly i st).raise (recordEvent i st why (s.record i).tag) := by
      unfold State.enter State.raiseRecord
      rw [hrec, if_pos rfl]
      rfl
    rw [h0]
    exact State.raise_congr _ rfl rfl rfl rfl

/-- A record that is not RELEASING is released (R11). -/
theorem State.release_spec (i : RecIx) (d : RelDest) (why : ChangeReason) (f : Option FailReason)
    (h : (s.record i).state ≠ .releasing) : Released s (s.release i d why f) i d why f := by
  generalize h1 : s.onRecord i (fun r => { r with dest := d, reason := f.getD r.reason }) = a
  generalize h2 : a.enter i .releasing why = b
  generalize h3 : b.abandonWork i = c
  have ht : s.release i d why f = c.appendUrgent i := by simp only [State.release, h1, h2, h3]
  rw [ht]
  have arec : ∀ k, a.record k = if k = i then { s.record i with dest := d, reason := f.getD (s.record i).reason } else s.record k := by
    intro k; rw [← h1]; exact State.record_onRecord s i k _
  have af : a = { s with records := a.records } := by rw [← h1]; rfl
  obtain ⟨b1, b2⟩ := a.enter_spec i .releasing why
  rw [h2] at b1 b2
  have bf : b = { a with records := b.records, evw := b.evw, counters := b.counters } := by rw [← h2, State.enter_eq]
  obtain ⟨c1, c2, c3, c4, c5⟩ := b.abandonWork_spec i
  rw [h3] at c1 c2 c3 c4 c5
  rw [af] at bf
  have acy : a.ltu.cycle = s.ltu.cycle := by rw [af]
  have brec : ∀ k, k ≠ i → b.record k = s.record k := by
    intro k hk; rw [b1, if_neg hk, arec, if_neg hk]
  have hpe : passEvents b i = passEvents s i := by
    have e1 : b.channelOf i = s.channelOf i := State.channelOf_congr s (by rw [bf]) i
    have e2 : waitingWithout b i = waitingWithout s i := by simp only [waitingWithout]; rw [bf]
    unfold passEvents
    rw [e1, e2]
    rcases s.channelOf i with _ | ch
    · rfl
    · rcases hw : waitingWithout s i with _ | ⟨k, ws⟩
      · rfl
      · have hk : k ≠ i := by
          have : k ∈ waitingWithout s i := by rw [hw]; simp
          simp [waitingWithout] at this
          exact this.2
        simp only [brec k hk]
  have hsb : EventsRaised s b [recordEvent i .releasing why (s.record i).tag] := by
    have := eventsRaised_congr (s := s) b2 (by rw [af]) (by rw [af]) acy (by rw [af])
    rw [arec, if_pos rfl] at this
    exact this
  constructor
  · show c.record i = _
    rw [c2, b1, if_pos rfl, arec, if_pos rfl]
    simp [Record.moveTo, h, acy]
  · show c.dsq.urgent ++ [i] = _
    rw [c4, bf]
  · show c.dsq.control = _
    rw [c3, bf]
  · exact abandoned_congr c1 brec bf
  · have := events_trans hsb c5 (by rw [bf]) (by rw [bf])
    rw [hpe] at this
    exact this

/-! ### The end of all work (R24) -/

theorem State.clearPex_spec :
    s.clearPex.pex = { s.pex with chans := Vector.replicate 4 Channel.reset, waiting := [] } ∧
    (∀ ch, s.clearPex.chanRequest ch = droppedRead (s.chanRequest ch)) ∧
    s.clearPex.bpt = { s.bpt with chanRequests := s.clearPex.bpt.chanRequests } := by
  have hfree : ∀ (t : State) (c : ChanIx), (t.freeChannel c).pex = { t.pex with chans := t.pex.chans.set c Channel.reset } := by
    intro t c; unfold State.freeChannel State.dropRead; split <;> rfl
  have hreq : ∀ (t : State) (c ch : ChanIx), (t.freeChannel c).chanRequest ch =
      if ch = c then droppedRead (t.chanRequest ch) else t.chanRequest ch := by
    intro t c ch
    have hu : (t.setChan c Channel.reset).chanRequest = t.chanRequest := rfl
    by_cases h : ch = c
    · subst h
      rcases hr : t.chanRequest ch with _ | r <;> simp [State.freeChannel, State.dropRead, hu, hr, droppedRead]
    · have hv : c.val ≠ ch.val := fun e => h (Fin.ext e.symm)
      unfold State.freeChannel State.dropRead
      split
      · simp [h, hu]
      · rw [State.chanRequest_setRequest_other _ _ h, hu]; simp [h]
  refine ⟨?_, ?_, ?_⟩
  · have : allChannels = [0, 1, 2, 3] := rfl
    simp only [State.clearPex, this, List.foldl_cons, List.foldl_nil, hfree]
    congr 1
    apply Vector.ext
    intro n hn
    rw [Vector.getElem_replicate]
    have h4 : n = 0 ∨ n = 1 ∨ n = 2 ∨ n = 3 := by omega
    rcases h4 with rfl | rfl | rfl | rfl <;> simp
  · intro ch
    have : allChannels = [0, 1, 2, 3] := rfl
    simp only [State.clearPex, this, List.foldl_cons, List.foldl_nil]
    show ((((s.freeChannel 0).freeChannel 1).freeChannel 2).freeChannel 3).chanRequest ch = _
    rw [hreq, hreq, hreq, hreq]
    fin_cases ch <;> simp
  · have : allChannels = [0, 1, 2, 3] := rfl
    simp only [State.clearPex, this, List.foldl_cons, List.foldl_nil, State.freeChannel_eq]

/-- The quiet resource ended, the round abandoned and every booking a void: what holds then (R104, R43, R107). -/
theorem State.endedLine_spec :
    let b := s.endQuiet.abandonRound.voidAllSlots
    TimelineEnded s b (s.ltu.map.map (fun e => { e with use := .void })) ∧
    b.links = { s.links with sched := s.links.sched ++ quietEnd s.ltu.quiet } ∧ b.dsq.urgent = s.dsq.urgent ∧
    b.dsu = { s.dsu with round := .idle, base := match s.dsu.round with | .opened _ => s.ltu.cycle | _ => s.dsu.base } ∧
    b.rgu = s.rgu ∧ b.pex = s.pex ∧ b.bpt = s.bpt ∧ b.brx.queue = s.brx.queue := by
  intro b
  have hb : s.endQuiet.abandonRound.voidAllSlots = b := rfl
  clear_value b
  obtain ⟨q1, q2, q3, q4, q5⟩ := s.endQuiet_spec
  have haf : s.endQuiet.dsu = s.dsu ∧ s.endQuiet.rgu = s.rgu ∧ s.endQuiet.pex = s.pex ∧ s.endQuiet.bpt = s.bpt := by simp
  generalize s.endQuiet = a at *
  have hr : a.abandonRound = { a with dsu := a.abandonRound.dsu } := by unfold State.abandonRound; split <;> rfl
  have acy : a.ltu.cycle = s.ltu.cycle := by rw [q1]
  have hd : a.abandonRound.dsu =
      { s.dsu with round := .idle, base := match s.dsu.round with | .opened _ => s.ltu.cycle | _ => s.dsu.base } := by
    rw [← haf.1, ← acy]
    unfold State.abandonRound
    rcases h : a.dsu.round with _ | _ | _
    · exact congrArg (fun q => { a.dsu with round := q }) h
    · rfl
    · rfl
  obtain ⟨v1, v2, v3⟩ := a.abandonRound.voidSlots_spec (fun e => decide (e.use ≠ .void))
  have hv : a.abandonRound.voidSlots (fun e => decide (e.use ≠ .void)) = a.abandonRound.voidAllSlots := rfl
  rw [hv] at v1 v2 v3
  have hmap : ∀ l : List Slot, l.map (fun e => if decide (e.use ≠ .void) = true then { e with use := .void } else e) =
      l.map (fun e => ({ e with use := .void } : Slot)) := by
    intro l
    apply List.map_congr_left
    intro e _
    rcases e with ⟨ct, j, u⟩
    cases u <;> simp
  rw [hb] at v1 v2 v3
  have bf : b.rgu = a.abandonRound.rgu ∧ b.pex = a.abandonRound.pex ∧ b.bpt = a.abandonRound.bpt ∧ b.dsq = a.abandonRound.dsq ∧
      b.links = a.abandonRound.links ∧ b.dsu = a.abandonRound.dsu := by rw [← hb]; simp
  have rf : a.abandonRound.rgu = a.rgu ∧ a.abandonRound.pex = a.pex ∧ a.abandonRound.bpt = a.bpt ∧ a.abandonRound.dsq = a.dsq ∧
      a.abandonRound.links = a.links ∧ a.abandonRound.ltu = a.ltu ∧ a.abandonRound.brx = a.brx := by rw [hr]; simp
  obtain ⟨b1, b2, b3, b4, b5, b6⟩ := bf
  obtain ⟨r1, r2, r3, r4, r5, r6, r7⟩ := rf
  have hbl : b.ltu = { a.ltu with map := s.ltu.map.map (fun e => { e with use := .void }), armed := b.ltu.armed } := by
    have hm : a.ltu.map = s.ltu.map := by rw [q1]
    rw [r6, hm, hmap] at v1
    exact v1
  refine ⟨⟨?_, ?_⟩, ?_, ?_, ?_, ?_, ?_, ?_, ?_⟩
  · conv_lhs => rw [hbl]
    conv_lhs => rw [q1]
  · have v3' : ArmDropped a b (fun id => ∃ e ∈ s.ltu.map, e.interval = some id) := by
      refine armDropped_congr v3 (by rw [r6]) r7.symm rfl rfl (fun id => ?_)
      have hm : a.ltu.map = s.ltu.map := by rw [q1]
      rw [r6, hm]
      constructor
      · rintro ⟨e, he, hi⟩
        refine ⟨e, he, ?_, hi⟩
        rcases e with ⟨ct, j, u⟩
        cases u
        · simp
        · cases hi
      · rintro ⟨e, he, _, hi⟩
        exact ⟨e, he, hi⟩
    exact armDropped_trans q5 v3'
  · rw [b5, r5, q2]
  · rw [b4, r4, q3]
  · rw [b6, hd]
  · rw [b1, r1, haf.2.1]
  · rw [b2, r2, haf.2.2.1]
  · rw [b3, r3, haf.2.2.2]
  · rw [v2, r7, q4]

/-- All activation work ended: what every block holds then (R163, R96). -/
theorem State.endAllWork_spec :
    TimelineEnded s s.endAllWork (s.ltu.map.map (fun e => { e with use := .void })) ∧
    s.endAllWork.links = { s.links with sched := s.links.sched ++ quietEnd s.ltu.quiet } ∧
    s.endAllWork.dsq = { window := none, urgent := s.dsq.urgent, control := [], reply := [] } ∧
    s.endAllWork.dsu = { s.dsu with
      round := .idle, parks := [], demand := false, base := match s.dsu.round with | .opened _ => s.ltu.cycle | _ => s.dsu.base } ∧
    s.endAllWork.rgu = { s.rgu with queue := [], attempt := none, settles := Vector.replicate 128 none } ∧
    s.endAllWork.pex = { s.pex with chans := Vector.replicate 4 Channel.reset, waiting := [] } ∧
    s.endAllWork.bpt = { s.bpt with chanRequests := s.endAllWork.bpt.chanRequests } ∧
    (∀ ch, s.endAllWork.chanRequest ch = droppedRead (s.chanRequest ch)) ∧
    s.endAllWork.brx.queue = s.brx.queue := by
  obtain ⟨l1, l2, l3, l4, l5, l6, l7, l8⟩ := s.endedLine_spec
  have hs : s.endAllWork = { s.endQuiet.abandonRound.voidAllSlots.clearPex with
      dsq := { s.endQuiet.abandonRound.voidAllSlots.clearPex.dsq with control := [], reply := [], window := none }
      dsu := { s.endQuiet.abandonRound.voidAllSlots.clearPex.dsu with parks := [], demand := false }
      rgu := { s.endQuiet.abandonRound.voidAllSlots.clearPex.rgu with
        queue := [], attempt := none, settles := Vector.replicate 128 none } } := rfl
  rw [hs]
  clear hs
  generalize s.endQuiet.abandonRound.voidAllSlots = b at *
  obtain ⟨c1, c2, c3⟩ := b.clearPex_spec
  have cf : b.clearPex.ltu = b.ltu ∧ b.clearPex.links = b.links ∧ b.clearPex.dsq = b.dsq ∧ b.clearPex.dsu = b.dsu ∧
      b.clearPex.rgu = b.rgu ∧ b.clearPex.brx = b.brx := by simp
  obtain ⟨f1, f2, f3, f4, f5, f6⟩ := cf
  generalize b.clearPex = c at *
  refine ⟨⟨?_, ?_⟩, ?_, ?_, ?_, ?_, ?_, ?_, ?_, ?_⟩
  · show c.ltu = { s.ltu with quiet := .idle, map := s.ltu.map.map (fun e => { e with use := .void }), armed := c.ltu.armed }
    rw [f1]; exact l1.1
  · exact armDropped_congr l1.2 rfl rfl (congrArg Ltu.armed f1) f6 (fun _ => Iff.rfl)
  · show c.links = _; rw [f2, l2]
  · show ({ window := none, urgent := c.dsq.urgent, control := [], reply := [] } : Dsq) = _; rw [f3, l3]
  · show ({ c.dsu with parks := [], demand := false } : Dsu) = _; rw [f4, l4]
  · show ({ c.rgu with queue := [], attempt := none, settles := Vector.replicate 128 none } : Rgu) = _
    rw [f5, l5]
  · show c.pex = _; rw [c1, l6]
  · show c.bpt = { s.bpt with chanRequests := c.bpt.chanRequests }
    rw [← l7]; exact c3
  · intro ch
    show c.chanRequest ch = _
    rw [c2]
    simp only [State.chanRequest, l7]
  · show c.brx.queue = _; rw [f6, l8]

/-- The returns of the records of a list, in its order (R24). -/
theorem State.returns_spec (l : List RecIx) (hl : l.Nodup) : ∀ s : State,
    let t := l.foldl (fun t i => t.returnRecord i) s
    (∀ i, t.record i = if i ∈ l then returned (s.record i) s.ltu.cycle else s.record i) ∧
    EventsRaised s t ((l.filter (fun i => (s.record i).state.inActivation)).map
      (fun i => recordEvent i .awaiting .port (s.record i).tag)) ∧
    t = { s with records := t.records, evw := t.evw, counters := t.counters } := by
  induction l with
  | nil => intro s; exact ⟨fun i => by simp, ⟨rfl, rfl⟩, rfl⟩
  | cons a l ih =>
    intro s
    obtain ⟨hal, hl⟩ := List.nodup_cons.1 hl
    obtain ⟨h1, h2, h3⟩ := ih hl (s.returnRecord a)
    have hf : (s.returnRecord a).ltu = s.ltu ∧ (s.returnRecord a).pct = s.pct := by simp
    have hrec : ∀ k, (s.returnRecord a).record k = if k = a then returned (s.record a) s.ltu.cycle else s.record k := by
      intro k
      unfold State.returnRecord
      rcases hb : (s.record a).state.inActivation
      · by_cases hk : k = a
        · subst hk; simp [returned, hb]
        · simp [hk]
      · rw [if_pos rfl, ((s.onRecord a Record.portReturn).enter_spec a .awaiting .port).1]
        by_cases hk : k = a
        · subst hk
          rw [if_pos rfl, if_pos rfl, State.record_onRecord_same]
          have : (s.record k).state ≠ .awaiting := by intro e; rw [e] at hb; cases hb
          simp [returned, hb, Record.portReturn, Record.moveTo, this]
        · rw [if_neg hk, if_neg hk, State.record_onRecord_other _ _ hk]
    have hev : EventsRaised s (s.returnRecord a)
        (if (s.record a).state.inActivation then [recordEvent a .awaiting .port (s.record a).tag] else []) := by
      unfold State.returnRecord
      rcases hb : (s.record a).state.inActivation
      · exact ⟨rfl, rfl⟩
      · have h0 : EventsRaised s (s.onRecord a Record.portReturn) [] := ⟨rfl, rfl⟩
        have := events_trans h0 ((s.onRecord a Record.portReturn).enter_spec a .awaiting .port).2 rfl rfl
        rw [State.record_onRecord_same] at this
        exact this
    refine ⟨?_, ?_, ?_⟩
    · intro i
      have := h1 i
      simp only [List.foldl_cons]
      rw [this, hf.1]
      by_cases hi : i = a
      · subst hi
        simp [hal, hrec]
      · simp [hi, hrec]
    · have hh := events_trans hev h2 (by rw [hf.1]) hf.2
      have hfil : l.filter (fun i => ((s.returnRecord a).record i).state.inActivation) =
          l.filter (fun i => (s.record i).state.inActivation) := by
        apply List.filter_congr
        intro i hi
        rw [hrec, if_neg (fun e : i = a => hal (e ▸ hi))]
      have hmap : (l.filter (fun i => (s.record i).state.inActivation)).map
          (fun i => recordEvent i .awaiting .port ((s.returnRecord a).record i).tag) =
          (l.filter (fun i => (s.record i).state.inActivation)).map (fun i => recordEvent i .awaiting .port (s.record i).tag) := by
        apply List.map_congr_left
        intro i hi
        rw [hrec, if_neg (fun e : i = a => hal (e ▸ (List.mem_filter.1 hi).1))]
      rw [hfil, hmap] at hh
      have heq : ((a :: l).filter (fun i => (s.record i).state.inActivation)).map
          (fun i => recordEvent i .awaiting .port (s.record i).tag) =
          (if (s.record a).state.inActivation then [recordEvent a .awaiting .port (s.record a).tag] else []) ++
          (l.filter (fun i => (s.record i).state.inActivation)).map (fun i => recordEvent i .awaiting .port (s.record i).tag) := by
        rcases hb : (s.record a).state.inActivation <;> simp [hb]
      rw [heq]
      exact hh
    · have hone : s.returnRecord a =
          { s with records := (s.returnRecord a).records, evw := (s.returnRecord a).evw, counters := (s.returnRecord a).counters } := by
        unfold State.returnRecord
        split
        · unfold State.enter State.raiseRecord State.raise
          split
          · rfl
          · split <;> rfl
        · rfl
      simp only [List.foldl_cons]
      generalize hz : List.foldl (fun t i => t.returnRecord i) (s.returnRecord a) l = z at h3 ⊢
      rw [hone] at h3
      exact h3

/-- A port return (R24): every block has ended its work, the in-activation records have returned with their RECORD events in index order,
and every booking is a void. -/
theorem State.portReturn_spec :
    WorkEnded s s.portReturn ∧ EventsRaised s s.portReturn (returnEvents s) ∧
    TimelineEnded s s.portReturn (s.ltu.map.map (fun e => { e with use := .void })) ∧
    s.portReturn.bpt = { s.bpt with chanRequests := s.portReturn.bpt.chanRequests } := by
  obtain ⟨e1, e2, e3, e4, e5, e6, e7, e8, e9⟩ := s.endAllWork_spec
  have ef : s.endAllWork.records = s.records ∧ s.endAllWork.evw = s.evw ∧ s.endAllWork.counters = s.counters ∧
      s.endAllWork.pct = s.pct := by simp
  have hp : s.portReturn = allRecords.foldl (fun t i => t.returnRecord i) s.endAllWork := rfl
  generalize s.endAllWork = a at *
  have acy : a.ltu.cycle = s.ltu.cycle := by rw [e1.1]
  obtain ⟨h1, h2, h3⟩ := State.returns_spec allRecords (List.nodup_finRange 128) a
  rw [← hp] at h1 h2 h3
  have hrec : ∀ i, a.record i = s.record i := fun i => State.record_congr s ef.1 i
  have hmem : ∀ i : RecIx, i ∈ allRecords := by intro i; simp [allRecords]
  have hev : EventsRaised s s.portReturn (returnEvents s) := by
    have h0 : EventsRaised s a [] := ⟨ef.2.1, ef.2.2.1⟩
    have := events_trans h0 h2 acy ef.2.2.2
    simp only [hrec] at this
    exact this
  clear hp h2
  generalize s.portReturn = t at *
  have l1 : t.ltu = a.ltu := by have := congrArg State.ltu h3; exact this
  have l2 : t.links = a.links := by have := congrArg State.links h3; exact this
  have l3 : t.dsq = a.dsq := by have := congrArg State.dsq h3; exact this
  have l4 : t.dsu = a.dsu := by have := congrArg State.dsu h3; exact this
  have l5 : t.rgu = a.rgu := by have := congrArg State.rgu h3; exact this
  have l6 : t.pex = a.pex := by have := congrArg State.pex h3; exact this
  have l7 : t.bpt = a.bpt := by have := congrArg State.bpt h3; exact this
  have l8 : t.brx = a.brx := by have := congrArg State.brx h3; exact this
  clear h3
  refine ⟨⟨?_, ?_, ?_, ?_, ?_, ?_, ?_, ?_, ?_⟩, hev, ⟨?_, ?_⟩, ?_⟩
  · intro i; rw [h1, if_pos (hmem i), hrec, acy]
  · rw [l1, e1.1]
  · rw [l2, e2]
  · rw [l3, e3]
  · exact (l4.trans e4).trans (by rcases s.dsu.round <;> rfl)
  · rw [l5, e5]
  · rw [l6, e6]
  · intro ch
    have : t.chanRequest ch = a.chanRequest ch := by simp only [State.chanRequest, l7]
    rw [this, e8]
  · rw [l8, e9]
  · rw [l1]; exact e1.1
  · exact armDropped_congr e1.2 rfl rfl (by rw [l1]) l8 (fun _ => Iff.rfl)
  · rw [l7]; exact e7

end Sys2Proof.Machine
end

