-- ==== Sys2Proof/WellFormed.lean ====
section
/-! DEFINITION. Which commands are well formed: the checks on operands that their types do not make. -/

namespace Sys2Proof.Instr

/-- The window word is the intent word (word 0) of a record: word 0x100 + 16 i (R1). -/
def isIntentWord (w : WinWord) : Bool :=
  decide (256 ≤ w.toNat) && decide (w.toNat < 2304) && decide (w.toNat % 16 = 0)

/-- The window word is a held word or a pop word (R140): the header, the directory, the pop words and the records. -/
def isHeldWord (w : WinWord) : Bool :=
  decide (w.toNat < 168) || (decide (256 ≤ w.toNat) && decide (w.toNat < 2304))

/-- A write with a row of its own: of the port intent (R161), of the consumer index (R156), or of a record intent 0, 1 or 2 (R8). -/
def hasOwnRow (w : WinWord) (data : Word) (be : Enables) : Bool :=
  be.getLsbD 0 &&
    (decide (w = 0) || decide (w = 33) || (isIntentWord w && decide ((data.extractLsb' 0 8).toNat ≤ 2)))

/-- The checks: SETUP_WRITE writes a held word that has no row of its own, IMAGE_WRITE the image area (R140), PORT_INTENT_HALT a
value that is not CONFIG or RUN (R161), and a reception command takes at least one sample and no more than its phase of the burst has. -/
def wf : Instr → Bool
  | hardwareReset => true
  | resetRelease _ => true
  | loadRead => true
  | intentAdmit _ _ _ => true
  | intentHold _ _ _ => true
  | intentVacant _ _ _ => true
  | setupWrite w data be => isHeldWord w && !hasOwnRow w data be
  | portIntentConfig _ _ => true
  | portIntentRun _ _ => true
  | portIntentHalt value _ _ => decide (value ≠ 1) && decide (value ≠ 2)
  | drainComplete => true
  | consumerIndexWrite _ _ _ => true
  | imageWrite w _ _ => decide (3328 ≤ w.toNat)
  | recordSnapshotRead _ => true
  | headerSnapshotRead => true
  | popRead => true
  | cycle _ => true
  | roundDue => true
  | quietTimeout => true
  | interruptHold => true
  | fetch _ => true
  | lineDown => true
  | lineUp => true
  | give _ => true
  | deny => true
  | revoke => true
  | armIntervalStart => true
  | quietWindowEnd => true
  | slotArrivalEnd _ _ => true
  | slotEndReport _ _ => true
  | noDelimiter xs => decide (0 < xs.length) && decide (xs.length ≤ Config.breakLimit)
  | burstComplete xs => decide (0 < xs.length) && decide (xs.length ≤ 104)
  | helloTake => true
  | discoveryRoundComplete => true
  | echoTake => true
  | attemptJudge => true
  | settleReply => true
  | blockReply => true
  | imageRead _ => true
  | rangingOutcome => true
  | settleOutcome => true
  | profileOutcome => true
  | eventWriteStart => true
  | eventWordWritten => true
  | accessHold _ => true
  | preambleRecognized xs => decide (0 < xs.length)
  | delimiterCompared xs => decide (0 < xs.length) && decide (xs.length ≤ Config.breakLimit + 16)
  | kindByte xs => decide (0 < xs.length) && decide (xs.length ≤ 8)
  | consecutiveAccess _ => true

end Sys2Proof.Instr
end

