-- ==== Sys2Proof/Tests/Slice0.lean ====
section
/-! SUPPORT. Tests: the checks of WellFormed, the spec's worked figures, one step of each command, and for every obligation with hypotheses a
state and operands that meet them. -/

namespace Sys2Proof.Tests

set_option Elab.async false

open Sys2Proof Sys2Proof.Machine Sys2Proof.Safety Host

/-! ### Ill-formed terms -/

/-- SETUP_WRITE of a plain word of the window, of the port intent and of an ADMIT intent. -/
theorem test_setup_write_ill_formed :
    (Instr.setupWrite 168 0 1).wf = false ∧ (Instr.setupWrite 0 1 1).wf = false ∧ (Instr.setupWrite 33 9 1).wf = false ∧
      (Instr.setupWrite 256 1 1).wf = false := by decide

/-- IMAGE_WRITE below the image area. -/
theorem test_image_write_ill_formed : (Instr.imageWrite 3327 0 1).wf = false := by decide

/-- PORT_INTENT_HALT of CONFIG and of RUN. -/
theorem test_port_intent_halt_ill_formed : (Instr.portIntentHalt 1 0 0).wf = false ∧ (Instr.portIntentHalt 2 0 0).wf = false := by
  decide

/-- Reception commands with no sample. -/
theorem test_no_samples_ill_formed :
    (Instr.preambleRecognized []).wf = false ∧ (Instr.noDelimiter []).wf = false ∧ (Instr.delimiterCompared []).wf = false ∧
      (Instr.kindByte []).wf = false ∧ (Instr.burstComplete []).wf = false := by decide

/-- Reception commands with one sample more than their phase of a burst has. -/
theorem test_too_many_samples_ill_formed :
    (Instr.noDelimiter (List.replicate 129 darkSample)).wf = false ∧
      (Instr.delimiterCompared (List.replicate 145 darkSample)).wf = false ∧
      (Instr.kindByte (List.replicate 9 darkSample)).wf = false ∧ (Instr.burstComplete (List.replicate 105 darkSample)).wf = false := by
  decide +kernel

/-- The boundary terms are well formed: an intent of 3, a write of the image area's first word, 255 as the port intent. -/
theorem test_well_formed :
    (Instr.setupWrite 256 3 1).wf = true ∧ (Instr.setupWrite 2288 1 0b1110).wf = true ∧ (Instr.imageWrite 3328 0 1).wf = true ∧
      (Instr.portIntentHalt 255 0 0).wf = true ∧ (Instr.kindByte (List.replicate 8 darkSample)).wf = true := by decide

/-! ### States to test on -/

/-- The settings of the worked cases (chapters 1, 3, 5). -/
def settings : Header :=
  { Header.reset with
    portIntent := 2, targetLoop := 320000, spanStart := 8000, slotLen := 1024, slotCount := 4, replyLead := 2, quietWait := 6
    rangeLimit := 3, spreadLimit := 32, tol := 8, blockRetries := 4, discoveryPeriod := 64, discoveryDefer := 3, parkRounds := 2
    spreadMin := 2, spreadInit := 4, spreadMax := 7, openDiscovery := 1, irqEnable := 1, threshold := 4 }

/-- A part with the line up, in a port state. -/
def inPort (p : PortState) : State :=
  { State.reset with
    pct := { port := p, refusal := .clear, load := none }
    ltu := { Ltu.reset with cycle := 40000, known := true, lineUp := true }
    header := settings }

/-- A RUNNING part. -/
def running : State := inPort .running

/-- Record 17 of the worked trace (chapter 1), in an activation state. -/
def rec17 (st : ActState) : Record :=
  { Record.reset with
    intent := 1, profileIx := 3, samples := 4, settleCount := 4, serial := 0x4C52003100002A17, tag := 0x1117, state := st
    line := 18, conv := .crossed, resp := 2000, assignTaken := true }

/-- A RUNNING part with record 17 in an activation state. -/
def with17 (st : ActState) : State := { running with records := running.records.set 17 (rec17 st) }

/-- An event. -/
def event : Event :=
  { seq := 0x0102, kind := .port, index := 255, detail0 := 3, detail1 := 0, lostBefore := 0x0506, cycle := 40000, value := 0xA1B2C3D4 }

/-- The state a command leaves. -/
def after (c : Instr) (s : State) : State :=
  match exec c s with
  | .next t => t
  | .fault _ => s
  | .refused _ => s

/-- The state a list of commands leaves. -/
def afterAll (cs : List Instr) (s : State) : State := cs.foldl (fun t c => after c t) s

/-! ### Figures of the spec -/

/-- R167: the check over the nine bytes 0x31 to 0x39 is 0x29B1. -/
theorem test_check_figure : crc16 [0x31, 0x32, 0x33, 0x34, 0x35, 0x36, 0x37, 0x38, 0x39] = 0x29B1 := by decide +kernel

/-- 11.9: the kind byte 0x20 stands on the line as 00000100 when straight and as 11011111 when crossed. -/
theorem test_line_levels :
    levelsOfByte .straight 0x20 = [false, false, false, false, false, true, false, false] ∧
      levelsOfByte .crossed 0x20 = [true, true, false, true, true, true, true, true] := by decide

/-- Chapter 3, worked ranging: loop times 3,684,747, 3,684,750, 3,684,745, 3,684,756 average to 3,684,750, a spread of 11; the equalization
is 89,703 line bits and 2 sixteenths. -/
theorem test_worked_ranging :
    averageLoop [3684747, 3684750, 3684745, 3684756] = 3684750 ∧ sampleSpread [3684747, 3684750, 3684745, 3684756] = 11 ∧
      judgeSamples
        [{ mark := some 3685771, doubled := false }, { mark := some 3702158, doubled := false },
         { mark := some 3718537, doubled := false }, { mark := some 3734932, doubled := false }] 32 5120000 2000
        = .success 3684750 89703 2 := by decide +kernel

/-- Chapter 3, variants: a lost echo is MISS, a late one SPREAD, a doubled place MISS, a near target REACH, a large response time EARLY. -/
theorem test_ranging_variants :
    let ok := fun a : Int => ({ mark := some a, doubled := false } : Place)
    judgeSamples [ok 3685771, ok 3702158, { mark := none, doubled := false }, ok 3734932] 32 5120000 2000 = .failed .miss ∧
      judgeSamples [ok 3685771, ok 3702158, ok 3718537, ok 3734980] 32 5120000 2000 = .failed .spread ∧
      judgeSamples [ok 3685771, { mark := some 3702158, doubled := true }, ok 3718537, ok 3734932] 32 5120000 2000 = .failed .miss ∧
      judgeSamples [ok 3685771, ok 3702158, ok 3718537, ok 3734932] 32 3680000 2000 = .reach ∧
      judgeSamples [ok 130000] 32 5120000 8191 = .failed .early := by decide +kernel

/-- R72: averages with halves rounded away from zero. -/
theorem test_average_deviation :
    averageDeviation 6 4 = 2 ∧ averageDeviation (-6) 4 = -2 ∧ averageDeviation 5 4 = 1 ∧ averageDeviation (-7) 4 = -2 ∧
      averageDeviation 4 3 = 1 ∧ averageDeviation 5 3 = 2 ∧ averageDeviation 0 4 = 0 := by decide +kernel

/-- Chapter 5, the ask: with the three slots of the worked map at cycle 40,500 the not-before cycle is 40,508. -/
theorem test_not_before :
    let m : List Slot :=
      [{ ct := 40501, j := 2, use := .booked 5 .rgu 0 }, { ct := 40503, j := 0, use := .void }, { ct := 40505, j := 3, use := .booked 17 .rgu 1 }]
    State.notBefore { running with ltu := { running.ltu with cycle := 40500, map := m } } = 40508 := by decide +kernel

/-- Chapter 4, the worked image: 40 bytes with sum 1,151; with length 7 or 5 an item runs past its end. -/
theorem test_worked_image :
    let image : List Byte := [0x9E, 0x20, 0x02, 0x11, 0x22, 0x33, 0x83, 0x05]
    (expand .idle image).map List.length = some 40 ∧ (expand .idle image).map byteSum = some 1151 ∧
      expand .idle (image.take 7) = none ∧ expand .idle (image.take 5) = none := by decide +kernel

/-- A part whose channel 0 is about to pre-scan the worked image at window offset 0x3400 for record 17. -/
def scanning (image0 image1 : Word) (length : BitVec 16) : State :=
  let e : DirEntry := { offset := 0x3400, length := length, expanded := 7, sum := 9 }
  let s := with17 .profiling
  { s with
    sram := Memory.writeWord (Memory.writeWord [] 3328 image0 0b1111) 3329 image1 0b1111
    pex := { s.pex with
      dir := s.pex.dir.set 3 e
      chans := s.pex.chans.set 0 { Channel.reset with stage := .scanning, index := 17, dir := 3, pos := 0x3400 } }
    bpt := { s.bpt with chanRequests := s.bpt.chanRequests.set 0 (some { word := 3328, dropped := false }) } }

/-- IMAGE_READ twice: the pre-scan of the worked image stores length 40 and sum 1,151 and tells the record of 3 blocks. -/
theorem test_image_read :
    let t := afterAll [.imageRead 0, .imageRead 0] (scanning 0x1102209E 0x05833322 8)
    (t.dirEntry 3).expanded = 40 ∧ (t.dirEntry 3).sum = 1151 ∧ (t.record 17).blocksTotal = 3 ∧ (t.chan 0).stage = .filling := by
  decide +kernel

/-- IMAGE_READ of the image cut to 7 bytes: the push ends with an image failure and the live half keeps its figures. -/
theorem test_image_read_malformed :
    let t := afterAll [.imageRead 0, .imageRead 0] (scanning 0x1102209E 0x05833322 7)
    (t.dirEntry 3).expanded = 7 ∧ (t.chan 0).stage = .reported .imageFailed := by decide +kernel

/-- Chapter 6, echo 0 of the worked ranging case: begun 230,296 line bits and 11 sixteenths after the reference, crossed, it is captured with
arrival mark 3,685,771. -/
theorem test_worked_reception :
    let s := { running with
      ltu := { running.ltu with
        cycle := 40101, offset := 70296, armed := some (.ranging 40100 17 1) }
      brx := { Brx.reset with hunt := .preamble } }
    let xs := burstSamples .crossed 11 [0x20, 0x12]
    let t := afterAll [.preambleRecognized (xs.take 32), .delimiterCompared ((xs.drop 32).take 48), .kindByte ((xs.drop 80).take 8)
      , .burstComplete (xs.drop 88)] s
    t.brx.queue = [{ kind := .echo, low := 0, payload := [0x12], mark := 3685771, conv := .crossed, interval := .ranging 40100 17 1 }] := by
  decide +kernel

/-- NO_DELIMITER: 128 alternating samples after recognition garble the burst. -/
theorem test_no_delimiter :
    let s := { running with
      ltu := { running.ltu with armed := some (.discovery 40000) }
      brx := { Brx.reset with hunt := .preamble } }
    let xs : List Sample := (List.range 160).map (fun k => { value := decide (k % 2 = 0), phase := 0 })
    let t := afterAll [.preambleRecognized (xs.take 32), .noDelimiter (xs.drop 32)] s
    t.counters.garbledBursts = 1 ∧ t.brx.hunt = .preamble ∧ t.ltu.offset = 160 := by decide +kernel

/-! ### One step of a command -/

/-- The load: its step and the word it reads agree at the ends of each group, and 592 words are read. -/
theorem test_load_words :
    loadWord 0 = 0 ∧ loadWord 32 = 32 ∧ loadWord 33 = 34 ∧ loadWord 62 = 63 ∧ loadWord 63 = 128 ∧ loadWord 78 = 158 ∧
      loadWord 79 = 256 ∧ loadWord 590 = 2291 ∧ loadWord 591 = 33 ∧ loadStep 2291 = some 590 ∧ loadStep 33 = some 591 ∧
      loadStep 129 = none ∧ loadStep 260 = none := by decide +kernel

/-- INTENT_ADMIT of an empty record of a RUNNING part: AWAITING, one RECORD event, an unpark queued. -/
theorem test_intent_admit :
    let t := after (.intentAdmit 17 0 0) running
    (t.record 17).state = .awaiting ∧ t.evw.queue.length = 1 ∧ t.dsu.parks = [{ serial := 0, rounds := 0 }] := by decide +kernel

/-- INTENT_HOLD of an IN_SERVICE record: RELEASING to HELD with its RELEASE queued. -/
theorem test_intent_hold :
    let t := after (.intentHold 17 0 0) (with17 .inService)
    (t.record 17).state = .releasing ∧ (t.record 17).dest = .held ∧ t.dsq.urgent = [17] := by decide +kernel

/-- INTENT_VACANT of a FAILED record: EMPTY, its line number gone, its serial kept. -/
theorem test_intent_vacant :
    let t := after (.intentVacant 17 0 0) (with17 .failed)
    (t.record 17).state = .empty ∧ (t.record 17).line = 0 ∧ (t.record 17).serial = 0x4C52003100002A17 := by decide +kernel

/-- SETUP_WRITE of profile index 16, N 5 and K 9 stores 255, 4 and 8, and of a record in service is discarded. -/
theorem test_setup_write :
    let w : Word := 0x09051000
    let t := after (.setupWrite 256 w 0b1110) running
    let u := after (.setupWrite (intentWord 17) w 0b1110) (with17 .inService)
    (t.record 0).setupWord 0 = 0x0804FF00 ∧ (u.record 17).profileIx = 3 ∧ u.counters.discards = 1 := by decide +kernel

/-- PORT_INTENT_RUN with the worked settings enters RUNNING; PORT_INTENT_CONFIG returns a HALTED part to CONFIG; PORT_INTENT_HALT halts. -/
theorem test_port_intents :
    (after (.portIntentRun 0 0) (inPort .config)).pct.port = .running ∧
      (after (.portIntentConfig 0 0) (inPort .halted)).pct.port = .config ∧
      (after (.portIntentHalt 9 0 0) (inPort .running)).pct.port = .halted := by decide +kernel

/-- GIVE at the not-before cycle gives the window, a cycle earlier it is late. -/
theorem test_give :
    let w : Window := { purpose := .discovery, length := 328448, notBefore := 40508, wait := 0, cq := 0 }
    let s := { running with
      ltu := { running.ltu with quiet := .asked w }
      dsu := { running.dsu with round := .asking 4 } }
    (after (.give 40508) s).ltu.quiet = .given { w with cq := 40508 } ∧ (after (.give 40507) s).ltu.quiet = .idle ∧
      (after (.give 40507) s).counters.quietLateGives = 1 := by decide +kernel

/-- SLOT_END_REPORT before SLOT_ARRIVAL_END drops the arm line with the booking it frees, and frees a void. -/
theorem test_slot_end_report :
    let slot : Slot := { ct := 40000, j := 1, use := .booked 17 .rgu 4 }
    let s := fun m : List Slot => ({ running with ltu := { running.ltu with
      offset := 330048, map := m, armed := some (.slot 4 40000 1 17 .rgu) } } : State)
    (after (.slotEndReport 40000 1) (s [slot])).ltu.armed = none ∧ (after (.slotEndReport 40000 1) (s [slot])).ltu.map = [] ∧
      (after (.slotEndReport 40000 1) (s [{ slot with use := .void }])).ltu.map = [] := by decide +kernel

/-- A FETCH run ahead past a GIVEN window's cycle hands it back at the next normal advance. -/
theorem test_fetch_run_ahead :
    let w : Window := { purpose := .discovery, length := 328448, notBefore := 40002, wait := 0, cq := 40005 }
    let s := { running with ltu := { running.ltu with quiet := .given w } }
    (after (.cycle 40001) s).ltu.quiet = .given w ∧ (afterAll [.fetch 40006, .cycle 40001] s).ltu.quiet = .idle ∧
      (afterAll [.fetch 40006, .cycle 40001] s).links.sched = [.done] := by decide +kernel

/-- ECHO_TAKE leaves an older SETTLE, which is the RGU's too. -/
theorem test_echo_behind_settle :
    let c : Capture := { kind := .status, low := 3, payload := [18, 0, 0, 0], mark := 0, conv := .crossed, interval := .slot 4 40000 1 17 .rgu }
    let q := [c, { c with kind := .echo, low := 0, interval := .ranging 40001 17 1 }]
    let s := { running with brx := { Brx.reset with queue := q } }
    (after .echoTake s).brx.queue = q ∧ (after .settleReply s).brx.queue.length = 1 := by decide +kernel

/-- A HALT withdraws the discovery demand presented. -/
theorem test_halt_demand :
    let s := { with17 .awaiting with dsu := { Dsu.reset with base := 39936 } }
    (after .roundDue s).dsu.demand = true ∧ (afterAll [.roundDue, .portIntentHalt 3 0 0] s).dsu.demand = false := by decide +kernel

/-- R126, R128: an ASSIGN taken anew sets the orphan count of its terminal to 0. -/
theorem test_assign_orphan :
    let t : Terminal := { Terminal.powerUp 0x4C52003100002A17 2000 .crossed with line := 5, orphan := 9 }
    let m := messageBytes 3 18 0 0 (serialBytes 0x4C52003100002A17)
    (t.cycle (some m) 0 true).1.line = 18 ∧ (t.cycle (some m) 0 true).1.orphan = 0 := by decide +kernel

/-- A slip clears the span map and stops discovery, and a cycle start after it is a normal advance. -/
theorem test_slip :
    let s := { running with ltu := { running.ltu with map := [{ ct := 40003, j := 0, use := .void }] } }
    let t := afterAll [.cycle 50000, .cycle 50001] s
    t.ltu.map = [] ∧ t.evw.queue.length = 1 ∧ t.ltu.cycle = 50001 := by decide +kernel

/-- The event ring: one event is written by five steps to slot 0, sequence low byte first, with its cycle number in word 2. -/
theorem test_event_record :
    let s := { running with evw := { Evw.reset with queue := [event] } }
    let t := afterAll [.eventWriteStart, .eventWordWritten, .eventWordWritten, .eventWordWritten, .eventWordWritten] s
    t.sramWord 2304 = 0xFF080102 ∧ t.sramWord 2305 = 0x05060003 ∧ t.sramWord 2306 = 40000 ∧ t.sramWord 2307 = 0xA1B2C3D4 ∧
      t.evw.producer = 1 ∧ t.evw.queue = [] := by decide +kernel

/-- A write of the last byte of SRAM and the read of its word. -/
theorem test_consecutive_access :
    let t := afterAll [.consecutiveAccess (.write 0xFFFFF 0xAB000000 0b1000), .consecutiveAccess (.read 0xFFFFF)] running
    t.links.readData = 0xAB000000 ∧ t.sram = [(4194303, 0xAB)] := by decide +kernel


/-! ### Witnesses: states and operands that meet the hypotheses of each obligation -/

theorem noWindow {s : State} {c : Cycle} (h : s.dsq.window = none) : NoWindowFor s c := fun m hm => by simp [h] at hm

/-- A part in LOADING whose load is at step `n`, its read waiting. -/
def loadAt (n : Nat) : State :=
  { inPort .loading with
    pct := { port := .loading, refusal := .clear, load := some n }
    header := { settings with portIntent := 1 }
    bpt := { Bpt.reset with loadRequest := some (loadWord n) } }

/-- A hold is due with the EVW's, channel 2's or the load's request waiting. -/
def holdEvw : State :=
  { running with
    evw := { Evw.reset with queue := [event], stage := 1 }
    bpt := { Bpt.reset with evwRequest := some { word := 2304, data := 0 }, consecutive := 16 } }
def holdChan : State :=
  { running with
    bpt := { Bpt.reset with
      chanRequests := Bpt.reset.chanRequests.set 2 (some { word := 3328, dropped := true }), consecutive := 16 } }
def holdLoad : State := { loadAt 0 with bpt := { (loadAt 0).bpt with consecutive := 16 } }

theorem witness_StepRunsFront :
    ({ running with pending := [.popRead, .deny] } : State).pending = .popRead :: [.deny] ∧ State.reset.pending = [] ∧
      State.reset.ltu.armed = none := by decide +kernel

theorem witness_MemoryStores :
    Memory.wf running.sram ∧ Memory.wf holdEvw.sram ∧
      storesOf running (.consecutiveAccess (.write 0xFFFFF 7 0b1000)) = [(0xFFFFF, 7, 0b1000)] ∧
      storesOf running (.consecutiveAccess (.read 0xFFFFF)) = [] ∧
      storesOf holdEvw (.consumerIndexWrite 9 0 0) = [(2304, 0, 0b1111), (33, 9, 0b0001)] ∧
      storesOf holdEvw (.accessHold (.read 33)) = [(2304, 0, 0b1111)] ∧
      ∃ t, exec (.consecutiveAccess (.write 0xFFFFF 0 0b1000)) running = .next t :=
  ⟨by decide, by decide, by decide +kernel, by decide +kernel, by decide +kernel, by decide +kernel, _, rfl⟩

theorem witness_ConsecutiveAccess :
    running.holdDue = false ∧ running.windowWord 16384 = none ∧ (State.reset.pct.port = .off ∧ State.reset.pct.load = none) ∧
      (loadAt 5).holdDue = false ∧ (loadAt 5).pct.port = .loading ∧ running.windowWord 3328 = some 3328 ∧
      running.windowWord 16383 = some 16383 ∧ running.windowWord 168 = some 168 ∧ running.windowWord 255 = some 255 ∧ running.windowWord 2304 = some 2304 ∧
      running.windowWord 3327 = some 3327 := by decide +kernel

theorem witness_AccessHold :
    accessOf holdEvw (.intentHold 3 0 0) = some (.write 304 2 0b0001) ∧ accessOf holdChan .popRead = some (.read 160) ∧
      accessOf holdLoad (.setupWrite 1 7 0b1111) = some (.write 1 7 0b1111) ∧ holdEvw.windowWord 16384 = none ∧
      running.holdDue = false ∧ holdEvw.holdDue = true ∧ holdEvw.bpt.evwRequest ≠ none ∧ holdChan.holdDue = true ∧
      holdChan.bpt.evwRequest = none ∧ holdChan.chanRequest 2 ≠ none ∧ (∀ k : ChanIx, k < 2 → holdChan.chanRequest k = none) ∧
      holdLoad.holdDue = true ∧ holdLoad.pct.port = .loading ∧ holdLoad.bpt.evwRequest = none ∧
      ∀ ch : ChanIx, holdLoad.chanRequest ch = none := by decide +kernel

theorem witness_ResetAndRelease : State.reset.pct.port = .off ∧ running.pct.port ≠ .off := by decide +kernel

theorem loadAt_waits (n : Nat) : LoadWaits (loadAt n) n (loadWord n) :=
  ⟨rfl, rfl, fun ch => by simp [loadAt, State.chanRequest, Bpt.reset], rfl, rfl⟩

/-- A part about to serve the last word of its load, with a stored port intent. -/
def intending (p : Byte) : State := { loadAt 591 with header := { settings with portIntent := p } }

theorem witness_LoadRead :
    LoadWaits (loadAt 0) 0 (BitVec.ofNat 14 0) ∧ LoadWaits (loadAt 32) 32 (BitVec.ofNat 14 32) ∧
      LoadWaits (loadAt 33) 33 (BitVec.ofNat 14 34) ∧ LoadWaits (loadAt 62) 62 (BitVec.ofNat 14 63) ∧ LoadWaits (loadAt 4) 4 4 ∧
      LoadWaits (loadAt 63) 63 (BitVec.ofNat 14 128) ∧ LoadWaits (loadAt 78) 78 (BitVec.ofNat 14 (128 + 2 * 15)) ∧
      LoadWaits (loadAt 79) 79 (setupWordOf 0 0) ∧ LoadWaits (loadAt 590) 590 (setupWordOf 127 3) ∧ LoadWaits (loadAt 591) 591 33 ∧
      (loadAt 591).header.portIntent = 1 ∧ LoadWaits (intending 2) 591 33 ∧ (intending 2).header.portIntent = 2 ∧
      LoadWaits (intending 0) 591 33 ∧ (intending 0).header.portIntent ≠ 1 ∧ (intending 0).header.portIntent ≠ 2 :=
  ⟨loadAt_waits 0, loadAt_waits 32, loadAt_waits 33, loadAt_waits 62, loadAt_waits 4, loadAt_waits 63, loadAt_waits 78,
    loadAt_waits 79, loadAt_waits 590, loadAt_waits 591, rfl, loadAt_waits 591, rfl, loadAt_waits 591, by decide, by decide⟩

/-- RUNNING with a RELEASE waiting for record 17. -/
def releasing17 : State := { with17 .releasing with dsq := { Dsq.reset with urgent := [17] } }

theorem witness_PortIntentConfig :
    (State.reset.holdDue = false ∧ State.reset.pct.port = .off ∧ State.reset.pct.load = none) ∧
      ((loadAt 1).pct.port = .loading ∧ (loadAt 1).pct.load = some 1) ∧ (loadAt 0).pct.load = some 0 ∧
      (inPort .config).holdDue = false ∧ (inPort .config).pct.port = .config ∧ (inPort .draining).pct.port = .draining ∧
      (inPort .halted).pct.port = .halted ∧ running.pct.port = .running ∧ running.dsq.urgent = [] ∧ releasing17.dsq.urgent ≠ [] ∧
      ((inPort .draining).dsq.urgent = [] ∧ (inPort .draining).ltu.quiet = .idle) := by decide +kernel

/-- A part in CONFIG with a target loop time and a span geometry. -/
def configured (target start : Word) (len : BitVec 16) (count : Byte) : State :=
  { inPort .config with
    header := { settings with targetLoop := target, spanStart := start, slotLen := len, slotCount := count } }

theorem witness_PortIntentRun :
    let target := fun s : State => 16384 ≤ s.header.targetLoop.toNat ∧ s.header.targetLoop.toNat ≤ 524287
    let span := fun s : State => 512 ≤ s.header.slotLen.toNat ∧ s.header.slotLen.toNat ≤ 4096 ∧ 1 ≤ s.header.slotCount.toNat ∧
      s.header.slotCount.toNat ≤ 8 ∧ s.header.spanStart.toNat + s.header.slotCount.toNat * s.header.slotLen.toNat ≤ 160000
    State.reset.pct.port = .off ∧ (loadAt 1).pct.port = .loading ∧ (configured 0 0 0 0).pct.port = .config ∧
      (configured 0 0 0 0).holdDue = false ∧ ¬target (configured 16383 0 512 1) ∧ ¬target (configured 524288 0 512 1) ∧
      target (configured 16384 0 511 1) ∧ ¬span (configured 16384 0 511 1) ∧ ¬span (configured 16384 0 4097 1) ∧
      ¬span (configured 16384 0 512 9) ∧ ¬span (configured 16384 159489 512 1) ∧ target (configured 524287 159488 512 1) ∧
      span (configured 524287 159488 512 1) ∧ span (configured 524287 127232 4096 8) ∧ (inPort .draining).pct.port = .draining ∧
      (inPort .halted).pct.port = .halted ∧ running.holdDue = false ∧ running.pct.port = .running ∧ 3 ≤ (255 : Byte).toNat := by
  decide +kernel

theorem witness_PortIntentHalt :
    (0 : Byte) ≠ 1 ∧ (0 : Byte) ≠ 2 ∧ (3 : Byte) ≠ 1 ∧ (3 : Byte) ≠ 2 ∧ (inPort .halted).holdDue = false ∧
      (loadAt 1).holdDue = false ∧ (loadAt 1).pct.port = .loading ∧
      (inPort .halted).pct.port = .halted ∧ (inPort .draining).pct.port = .draining := by decide +kernel

/-- RUNNING with `n` events waiting. -/
def events (n : Nat) : State := { running with evw := { Evw.reset with queue := List.replicate n event } }

theorem witness_EventTaken :
    State.reset.pct.port = .off ∧ (events 7).pct.port ≠ .off ∧ (events 7).pct.port ≠ .loading ∧ (events 7).evw.queue.length < 8 ∧
      8 ≤ (events 8).evw.queue.length := by decide +kernel

/-- RUNNING with an event being written at a stage. -/
def writing (stage : Nat) : State :=
  { running with
    evw := { Evw.reset with queue := [event], stage := stage }
    bpt := { Bpt.reset with evwRequest := some { word := 2304, data := 0 } } }

theorem witness_EventWords :
    (events 1).evw.queue = event :: [] ∧ (events 1).evw.producer + 1 ≠ (events 1).evw.consumer ∧ (events 1).evw.stage = 0 ∧
      running.evw.queue = [] ∧ ({ running with evw := { Evw.reset with consumer := 1 } } : State).evw.producer + 1 = 1 ∧
      (writing 1).bpt.evwRequest = some { word := 2304, data := 0 } ∧ (writing 1).evw.queue = event :: [] ∧
      1 ≤ (writing 1).evw.stage ∧ (writing 3).evw.stage ≤ 3 ∧ (writing 4).evw.stage = 4 := by decide +kernel

theorem witness_EventRecordWritten :
    Memory.wf (events 8).sram ∧ (events 8).evw.queue = event :: List.replicate 7 event ∧ (events 8).evw.producer + 1 ≠ (events 8).evw.consumer ∧
      (events 8).evw.stage = 0 := by decide +kernel

/-- RUNNING with the ring from slot `c` to slot `p`. -/
def ring (c p : Byte) : State :=
  { running with
    header := { settings with holdCycles := 1 }
    evw := { Evw.reset with consumer := c, producer := p, written := List.replicate (p - c).toNat 39999 } }

theorem witness_ConsumerIndexWrite :
    (State.reset.pct.port = .off ∧ State.reset.pct.load = none) ∧ ((loadAt 591).pct.port = .loading ∧ (loadAt 591).pct.load = some 591) ∧
      (ring 254 1).holdDue = false ∧ (ring 254 1).pct.port ≠ .off ∧ (ring 254 1).pct.port ≠ .loading ∧
      ((1 : Byte) - (ring 254 1).evw.consumer).toNat ≤ ((ring 254 1).evw.producer - (ring 254 1).evw.consumer).toNat ∧
      ((ring 254 1).evw.producer - (ring 254 1).evw.consumer).toNat < ((2 : Byte) - (ring 254 1).evw.consumer).toNat := by
  decide +kernel

theorem witness_InterruptLine :
    (ring 254 1).holdCondition = true ∧ (writing 4).bpt.evwRequest ≠ none ∧ (writing 4).evw.queue ≠ [] ∧ 4 ≤ (writing 4).evw.stage ∧
      running.holdDue = false ∧ (0b0100 : Enables) ≠ 0 ∧ (ring 254 1).header.irqEnable ≠ 0 ∧ (ring 254 1).header.holdCycles ≠ 0 ∧
      1 ≤ ((ring 254 1).evw.producer - (ring 254 1).evw.consumer).toNat ∧
      (ring 254 1).evw.written = 39999 :: List.replicate 2 39999 ∧
      (ring 254 1).header.holdCycles.toNat ≤ ((ring 254 1).ltu.cycle - 39999).toNat ∧ running.holdCondition = false := by
  decide +kernel

/-- Two records of one serial: record 3 in a state, record 17 in another. -/
def twins (a b : ActState) : State :=
  let s := with17 b
  { s with records := s.records.set 3 (rec17 a) }

theorem witness_IntentAdmit :
    let v := fun s : State => intentStored s 17 (withLane0 1 0) (enableLane0 0)
    let holds := fun (s : State) (k : RecIx) => ((v s).record k).state.live = true ∧ ((v s).record k).serial = ((v s).record 17).serial
    (with17 .held).holdDue = false ∧ (with17 .held).pct.port = .running ∧ ((v (with17 .held)).record 17).state = .held ∧
      (∀ k, ¬holds (with17 .held) k) ∧ ((v (twins .awaiting .failed)).record 17).state = .failed ∧
      holds (twins .awaiting .failed) 3 ∧ (∀ m : RecIx, m < 3 → ¬holds (twins .awaiting .failed) m) ∧
      ((v releasing17).record 17).state = .releasing ∧ ((v (with17 .inService)).record 17).state = .inService := by decide +kernel

theorem witness_IntentHold :
    let v := fun s : State => intentStored s 17 (withLane0 2 0) (enableLane0 0)
    ((v (with17 .awaiting)).record 17).state = .awaiting ∧ ((v (with17 .held)).record 17).state = .held ∧
      ((v releasing17).record 17).state = .releasing ∧ ((v (with17 .committing)).record 17).state.inActivation = true := by decide +kernel

theorem witness_IntentVacant :
    let v := fun s : State => intentStored s 17 (withLane0 0 0) (enableLane0 0)
    ((v (with17 .held)).record 17).state = .held ∧ ((v running).record 17).state = .empty ∧
      ((v releasing17).record 17).state = .releasing ∧ ((v (with17 .inService)).record 17).state = .inService := by decide +kernel

theorem witness_IntentKept :
    running.holdDue = false ∧ (0b0001 : Enables).getLsbD 0 = true ∧ 3 ≤ (byteOf 3 0).toNat ∧ (inPort .draining).pct.port = .draining ∧
      (State.reset.pct.port = .off ∧ State.reset.pct.load = none) ∧ (loadAt 80).pct.load = some 80 ∧ 79 + 4 * (0 : RecIx).val < 80 ∧
      (loadAt 79).pct.port = .loading ∧ (loadAt 79).pct.load = some 79 := by decide +kernel

theorem witness_SetupWriteRecord :
    running.holdDue = false ∧ (0b0010 : Enables) ≠ 0 ∧ running.pct.port ≠ .off ∧ running.pct.port ≠ .loading ∧
      (0b0010 : Enables).getLsbD 0 = false ∧ (State.reset.pct.port = .off ∧ State.reset.pct.load = none) ∧
      ((loadAt 84).pct.port = .loading ∧ (loadAt 84).pct.load = some 84) ∧ 84 ≤ 79 + 4 * (1 : RecIx).val + 1 ∧
      79 + 4 * (1 : RecIx).val + 0 < 84 ∧ (running.record 0).state = .empty ∧
      ¬(((with17 .awaiting).record 17).state = .empty ∨ ((with17 .awaiting).record 17).state = .held ∨
        ((with17 .awaiting).record 17).state = .failed) := by decide +kernel

/-- RUNNING or CONFIG with channel 1 at a stage, serving record 17 from entry 3, an image of 8 bytes at 0x3400. -/
def pushing (p : PortState) (stage : ChanStage) : State :=
  let s := inPort p
  { s with
    records := s.records.set 17 (rec17 .profiling)
    pex := { s.pex with
      dir := s.pex.dir.set 3 { offset := 0x3400, length := 8, expanded := 40, sum := 1151 }
      chans := s.pex.chans.set 1
        { Channel.reset with
          stage := stage, index := 17, dir := 3, blocks := 3, current := 0, bufA := .full 0 false (List.replicate 16 0x20)
          pos := 0x3408, next := 1 } } }

theorem witness_SetupWriteSettings :
    let s := inPort .config
    (State.reset.pct.port = .off ∧ State.reset.pct.load = none) ∧ ((loadAt 5).pct.load = some 5 ∧ (loadAt 5).pct.port = .loading) ∧
      (loadAt 64).pct.load = some 64 ∧ 63 + (0 : DirIx).val < 64 ∧ 64 ≤ 63 + (1 : DirIx).val ∧ (0b1110 &&& headerLanes 33 : Enables) = 0 ∧
    s.holdDue = false ∧ s.pct.port = .config ∧ (0b0010 &&& headerLanes 4 : Enables) ≠ 0 ∧ (0b0010 : Enables).getLsbD 1 = true ∧
      (0b0001 : Enables).getLsbD 1 = false ∧ (0b1111 &&& headerLanes 15 : Enables) = 0 ∧ (0b1111 &&& headerLanes 16 : Enables) ≠ 0 ∧
      (0b1000 &&& headerLanes 18 : Enables) = 0 ∧ (0b1000 &&& headerLanes 32 : Enables) ≠ 0 ∧ running.pct.port ≠ .config ∧
      (∀ i : RecIx, (s.record i).eqValid = false) ∧
      (({ s with records := s.records.set 127 { rec17 .inService with eqValid := true } } : State).record 127).eqValid = true ∧
      (((pushing .config .scanning).chan 1).stage ≠ .free ∧ ((pushing .config .scanning).chan 1).dir = 3) ∧
      (∀ ch : ChanIx, ((pushing .config .scanning).chan ch).stage ≠ .free → ((pushing .config .scanning).chan ch).dir ≠ 15) := by
  decide +kernel

/-- Channels 1 and 3 use entry 3, channel 3 with its block READY, its entry in the reply-bearing list. -/
def sharing : State :=
  let s := pushing .running (.sent 40003 0 0)
  { s with
    records := s.records.set 30 (rec17 .profiling)
    pex := { s.pex with chans := s.pex.chans.set 3 { s.chan 1 with stage := .ready, index := 30 } }
    dsq := { s.dsq with reply := [{ index := 30, kind := .profileBlock }, { index := 9, kind := .confirmAsk }] } }

theorem witness_ImageWrite :
    let s := pushing .running (.sent 40003 0 0)
    let touched := fun (w : WinWord) (be : Enables) (ch : ChanIx) => (s.chan ch).stage ≠ .free ∧
      ∃ k < 4, be.getLsbD k = true ∧ (s.dirEntry (s.chan ch).dir).offset.toNat ≤ 4 * w.toNat + k ∧
        4 * w.toNat + k < (s.dirEntry (s.chan ch).dir).offset.toNat + (s.dirEntry (s.chan ch).dir).length.toNat
    s.holdDue = false ∧ State.reset.pct.port = .off ∧ (∀ ch, ¬touched 3330 0b1111 ch) ∧ (∀ ch, ¬touched 3329 0 ch) ∧
      touched 3329 0b1000 1 ∧ (∀ ch, ch ∈ [(1 : ChanIx)] ↔ touched 3329 0b1000 ch) ∧ sharing.holdDue = false ∧
      (∀ ch, ch ∈ [(1 : ChanIx), 3] ↔ (sharing.chan ch).stage ≠ .free ∧
        ∃ k < 4, (0b0001 : Enables).getLsbD k = true ∧ (sharing.dirEntry (sharing.chan ch).dir).offset.toNat ≤ 4 * 3328 + k ∧
          4 * 3328 + k < (sharing.dirEntry (sharing.chan ch).dir).offset.toNat + (sharing.dirEntry (sharing.chan ch).dir).length.toNat) := by
  decide +kernel

/-- RUNNING with the record snapshot of record 17 and the header snapshot held. -/
def snapped : State := { with17 .inService with
  bpt := { Bpt.reset with snapHeld := true, snapIndex := 17, snap := (rec17 .settling).liveWords, headerHeld := true } }

theorem witness_HeldWordReads :
    let s := with17 .inService
    s.holdDue = false ∧ s.pct.port ≠ .off ∧ s.pct.port ≠ .loading ∧ s.bpt.headerHeld = false ∧ (33 : WinWord).toNat < 64 ∧
      64 < (65 : WinWord).toNat ∧ (127 : WinWord).toNat < 128 ∧ (158 : WinWord).toNat = 128 + 2 * (15 : DirIx).val ∧
      (159 : WinWord).toNat = 129 + 2 * (15 : DirIx).val ∧ 160 < (161 : WinWord).toNat ∧ (167 : WinWord).toNat < 168 ∧
      (2291 : WinWord).toNat = 259 + 16 * (127 : RecIx).val ∧ (2303 : WinWord).toNat = 260 + 16 * (127 : RecIx).val + 11 ∧
      ¬(s.bpt.snapHeld = true ∧ s.bpt.snapIndex = 17) ∧ ¬(snapped.bpt.snapHeld = true ∧ snapped.bpt.snapIndex = 3) := by decide +kernel

theorem witness_SnapshotReads :
    (with17 .settling).holdDue = false ∧ State.reset.pct.port = .off ∧ (with17 .settling).pct.port ≠ .off ∧
      (with17 .settling).pct.port ≠ .loading ∧ snapped.holdDue = false ∧ snapped.bpt.snapHeld = true ∧ snapped.bpt.snapIndex = 17 ∧
      snapped.bpt.snap = (after (.recordSnapshotRead 17) (with17 .settling)).bpt.snap ∧ snapped.bpt.headerHeld = true ∧
      (after .headerSnapshotRead running).bpt.headerHeld = true := by decide +kernel

/-- A listed stranger. -/
def stranger (x : Serial) : Stranger := { serial := x, conv := .straight, resp := 1024, first := 1, last := 2, count := 255 }

/-- RUNNING with strangers listed. -/
def strangers (l : List Stranger) : State := { running with dsu := { Dsu.reset with strangers := l } }

theorem witness_PopRead :
    (strangers [stranger 5]).holdDue = false ∧ State.reset.pct.port = .off ∧ (strangers [stranger 5]).dsu.strangers = stranger 5 :: [] ∧
      (strangers []).dsu.strangers = [] := by decide +kernel

/-- The worked image after its pre-scan, its first read waiting; with `stage`, `dropped` and the other buffer as given. -/
def filling (stage : ChanStage) (dropped : Bool) (other : Buffer) : State :=
  let s := scanning 0x1102209E 0x05833322 8
  { s with
    pex := { s.pex with
      chans := s.pex.chans.set 0 { s.chan 0 with stage := stage, blocks := 3, bufA := .filling [], bufB := other } }
    bpt := { s.bpt with chanRequests := s.bpt.chanRequests.set 0 (some { word := 3328, dropped := dropped }) } }

theorem witness_PreScan :
    let s := scanning 0x1102209E 0x05833322 8
    let c := s.chan 0
    let e := s.dirEntry c.dir
    let f := filling .filling false .empty
    let x := f.chan 0
    let sent := { (pushing .running (.sent 40003 0 0)).chan 1 with next := 2 }
    let last := { sent with blocks := 1, next := 1 }
    (c.stage = .scanning ∧ c.pos = e.offset.toNat ∧ c.item = .idle ∧ c.scanLen = 0 ∧ c.scanSum = 0 ∧ 1 ≤ e.length.toNat ∧
      13312 ≤ e.offset.toNat ∧ e.offset.toNat + e.length.toNat ≤ 65536 ∧
      ReadNext s 0 { word := BitVec.ofNat 14 (e.offset.toNat / 4), dropped := false }) ∧
    (x.stage = .filling ∧ x.buffer x.next = .filling [] ∧ x.buffer (x.next + 1) = .empty ∧ x.item = .idle ∧ x.pos = e.offset.toNat ∧
      x.pos < e.offset.toNat + e.length.toNat ∧ (owed x.item (imageFrom f e x.pos)).map List.length = some 40 ∧
      x.blocks = x.next + (40 + 15) / 16 ∧ ReadNext f 0 { word := BitVec.ofNat 14 (x.pos / 4), dropped := false }) ∧
    ReadNext (filling .filling true .empty) 0 { word := 3328, dropped := true } ∧
    ReadNext (filling .free true .empty) 0 { word := 3328, dropped := true } ∧
    ReadNext (filling .scanning true .empty) 0 { word := 3328, dropped := true } ∧
    running.chanRequest 0 = none ∧
    (sent.stage = .sent 40003 0 0 ∧ (sent.buffer sent.next).isFull = true) ∧
    (last.buffer last.next = .empty ∧ last.blocks ≤ last.next) ∧
    (((filling (.reported .profileFailed) false .empty).chan 0).stage = .reported .profileFailed ∧
      ReadNext (filling (.reported .profileFailed) false .empty) 0 { word := 3328, dropped := false }) := by
  simp only [ReadNext]
  decide +kernel

/-- RUNNING with the quiet resource in a state. -/
def quietly (q : Quiet) : State := { running with ltu := { running.ltu with quiet := q } }

/-- A window of discovery, and one of ranging record 17 under attempt 1. -/
def discWindow : Window := { purpose := .discovery, length := 328448, notBefore := 40002, wait := 5, cq := 40001 }
def rangeWindow : Window := { discWindow with purpose := .ranging 17 1, length := 324352 }

/-- The attempt of record 17. -/
def attempt17 (stage : AttemptStage) (p0 : Place) : Attempt :=
  { index := 17, ident := 1, count := 2, length := 322304, ref := some 40001, stage := stage
    places := [p0, { mark := none, doubled := false }] }

/-- RUNNING with record 17 at the head of the ranging queue in a state, its attempt current. -/
def ranging17 (st : ActState) (a : Option Attempt) : State :=
  let s := with17 st
  { s with
    rgu := { Rgu.reset with queue := [17, 3], ident := 1, attempt := a }
    ltu := { s.ltu with quiet := .opened rangeWindow } }

theorem witness_AskEnded :
    ({ running with dsu := { Dsu.reset with round := .asking 4 } } : State).dsu.round = .asking 4 ∧ running.dsu.round = .idle ∧
      (ranging17 .ranging none).rgu.queue = 17 :: [3] ∧ ((ranging17 .ranging none).record 17).state = .ranging ∧
      running.rgu.queue = [] := by decide +kernel

theorem witness_CycleStart :
    State.reset.ltu.known = false ∧ running.ltu.known = true ∧ running.ltu.lineUp = true ∧ (40001 : Cycle) = running.ltu.cycle + 1 ∧
      (quietly (.asked discWindow)).ltu.quiet = .asked discWindow ∧
      (quietly (.given { discWindow with cq := 40002 })).ltu.quiet = .given { discWindow with cq := 40002 } ∧
      2147483648 ≤ ((40001 : Cycle) - 40002).toNat ∧ discWindow.passed = false ∧
      (quietly (.given { discWindow with cq := 40002, passed := true })).ltu.quiet = .given { discWindow with cq := 40002, passed := true } ∧
      (quietly (.given discWindow)).ltu.quiet = .given discWindow ∧
      ((40001 : Cycle) - discWindow.cq).toNat < 2147483648 ∧ (quietly (.opened discWindow)).ltu.quiet = .opened discWindow := by
  decide +kernel

/-- RUNNING with record 17 ready to range, a base cycle and a deferral count. -/
def arbitrated (base : Cycle) (deferral : Nat) (queue : List RecIx) : State :=
  let s := with17 .assigned
  { s with
    rgu := { Rgu.reset with queue := queue }
    dsu := { Dsu.reset with base := base, deferral := deferral } }

theorem witness_CycleArbitrates :
    let demand := fun s : State =>
      ({ s with ltu := { s.ltu with cycle := 40001, offset := 0, known := true, nextFetched := false } } : State).discoveryDemand
    let s := arbitrated 39937 2 [17]
    s.ltu.known = true ∧ s.ltu.lineUp = true ∧ s.ltu.quiet = .idle ∧ s.pct.port = .running ∧ (inPort .config).pct.port ≠ .running ∧
      (s.rgu.queue = 17 :: [] ∧ (s.record 17).state = .assigned ∧ s.rgu.attempt = none) ∧ demand s = true ∧
      s.dsu.deferral < s.header.discoveryDefer.toNat ∧ demand (arbitrated 39938 0 [17]) = false ∧
      (arbitrated 39937 3 [17]).header.discoveryDefer.toNat ≤ (arbitrated 39937 3 [17]).dsu.deferral ∧
      demand (arbitrated 39937 3 [17]) = true ∧ (arbitrated 39937 0 []).rgu.queue = [] ∧ demand (arbitrated 39937 0 []) = true ∧
      demand (arbitrated 39938 0 []) = false := by decide +kernel

theorem witness_CycleSlip :
    running.ltu.known = true ∧ running.ltu.lineUp = true ∧ (40000 : Cycle) ≠ running.ltu.cycle + 1 ∧
      (40002 : Cycle) ≠ running.ltu.cycle + 1 := by decide +kernel

theorem witness_LineUpDown : running.ltu.lineUp = true ∧ State.reset.ltu.lineUp = false := by decide +kernel

theorem witness_Give :
    let asked := fun p : Purpose => ({ ranging17 .ranging (some (attempt17 .asking { mark := none, doubled := false })) with
      ltu := { running.ltu with quiet := .asked { rangeWindow with purpose := p } }
      dsu := { Dsu.reset with round := .asking 4 } } : State)
    (asked .discovery).ltu.quiet = .asked { rangeWindow with purpose := .discovery } ∧ (asked .discovery).dsu.round = .asking 4 ∧
      (asked (.ranging 17 1)).rgu.attempt = some (attempt17 .asking { mark := none, doubled := false }) ∧
      (asked .discovery).ltu.latestFetch = none ∧ ((40002 : Cycle) - rangeWindow.notBefore).toNat < 2147483648 ∧
      ¬((asked .discovery).ltu.cycle - (40002 : Cycle)).toNat < 2147483648 ∧
      2147483648 ≤ ((40001 : Cycle) - rangeWindow.notBefore).toNat ∧ running.ltu.quiet = .idle := by decide +kernel

theorem witness_DenyRevokeTimeout :
    (quietly (.asked discWindow)).ltu.quiet = .asked discWindow ∧ discWindow.wait < running.header.quietWait.toNat ∧
      running.header.quietWait.toNat ≤ ({ discWindow with wait := 6 } : Window).wait ∧
      (quietly (.given discWindow)).ltu.quiet = .given discWindow ∧ (quietly (.opened discWindow)).ltu.quiet = .opened discWindow ∧
      running.ltu.quiet = .idle := by decide +kernel

/-- RUNNING `n` line bits after the start of the transmit cycle 40,000 of a map of entries. -/
def mapped (n : Nat) (m : List Slot) : State := { running with ltu := { running.ltu with offset := n, map := m } }

/-- An entry of slot (40,000, 1). -/
def slot1 (use : SlotUse) : Slot := { ct := 40000, j := 1, use := use }

theorem witness_ArmedIntervals :
    let at_ := fun (s : State) (c : Cycle) => 160000 * (s.ltu.cycle - c).toInt + (s.ltu.offset : Int)
    let w : Window := { discWindow with cq := 40000 }
    let opened := fun n : Nat => ({ running with ltu := { running.ltu with offset := n, quiet := .opened w } } : State)
    let m := [slot1 (.booked 17 .rgu 0), { ct := 40000, j := 2, use := .void }]
    let before := fun n : Nat => ({ mapped n m with ltu := { (mapped n m).ltu with quiet := .opened { w with cq := 40003 } } } : State)
    (opened 0).ltu.quiet = .opened w ∧ 0 ≤ at_ (opened 0) w.cq ∧ at_ (opened 328447) w.cq < w.length ∧
      (opened 0).ltu.armed ≠ some w.interval ∧ (w.length : Int) ≤ at_ (opened 328448) w.cq ∧ (mapped 329024 m).ltu.quiet = .idle ∧
      slot1 (.booked 17 .rgu 0) ∈ (mapped 329024 m).ltu.map ∧ (320000 + 8000 + 1 * 1024 : Int) ≤ at_ (mapped 329024 m) 40000 ∧
      at_ (mapped 330047 m) 40000 < (320000 + 8000 + 1 * 1024 + 1024 : Int) ∧
      (∀ e ∈ m, e.use ≠ .void → e = slot1 (.booked 17 .rgu 0)) ∧ (mapped 329024 m).ltu.armed = none ∧
      ((before 329024).ltu.quiet = .opened { w with cq := 40003 } ∧ at_ (before 329024) 40003 < 0 ∧ (before 329024).ltu.map = m) ∧
      at_ (mapped 329023 m) 40000 < (320000 + 8000 + 1 * 1024 : Int) ∧
      (320000 + 8000 + 1 * 1024 + 1024 : Int) ≤ at_ (mapped 330048 m) 40000 := by decide +kernel

/-- Line bit `n` with slot (40,000, 1) booked for record 17, whose ask is OUTSTANDING in it with `missed` misses. -/
def asked17 (n missed : Nat) : State :=
  let s := with17 .settling
  { s with
    ltu := { s.ltu with offset := n, map := [slot1 (.booked 17 .rgu 4)] }
    rgu := { Rgu.reset with
      settles := Rgu.reset.settles.set 17
        (some { found := 0, missed := missed, sum := 0, stage := .outstanding 40000 1 4, report := none }) } }

/-- Line bit `n` with slot (40,000, 1) booked for channel 1, SENT in it. -/
def sent17 (n retries : Nat) : State :=
  let s := pushing .running (.sent 40000 1 4)
  { s with
    ltu := { s.ltu with offset := n, map := [slot1 (.booked 17 (.channel 1) 4)] }
    pex := { s.pex with chans := s.pex.chans.set 1 { s.chan 1 with retries := retries } } }

theorem witness_SlotEnds :
    let past := fun s : State => (320000 + 8000 + (1 + 1) * 1024 : Int) ≤ 160000 * (s.ltu.cycle - 40000).toInt + (s.ltu.offset : Int)
    let id := Interval.slot 4 40000 1 17 .rgu
    running.slotAt 40000 1 = none ∧ ¬past (asked17 330047 0) ∧ past (asked17 330048 0) ∧
      (asked17 330048 0).slotAt 40000 1 = some (slot1 (.booked 17 .rgu 4)) ∧
      (slot1 .void).use = .void ∧ (mapped 330048 [slot1 .void]).slotAt 40000 1 = some (slot1 .void) ∧ (asked17 330048 0).ltu.armed ≠ some id ∧
      ({ asked17 330048 0 with ltu := { (asked17 330048 0).ltu with armed := some id } } : State).ltu.armed = some id ∧
      (asked17 330048 0).brx.queue = [] ∧
      (asked17 330048 2).settle 17 = some { found := 0, missed := 2, sum := 0, stage := .outstanding 40000 1 4, report := none } ∧
      (∀ k : RecIx, k < 17 → (asked17 330048 2).settle k = none) ∧ 2 + 1 < ((asked17 330048 2).record 17).settleCount.toNat ∧
      ((asked17 330048 3).record 17).settleCount.toNat ≤ 3 + 1 ∧ (sent17 330048 2).slotAt 40000 1 = some (slot1 (.booked 17 (.channel 1) 4)) ∧
      ((sent17 330048 2).chan 1).stage = .sent 40000 1 4 ∧ ((sent17 330048 2).chan 0).stage = .free ∧
      ((sent17 330048 2).chan 1).retries + 1 < (sent17 330048 2).header.blockRetries.toNat ∧
      (sent17 330048 3).header.blockRetries.toNat ≤ ((sent17 330048 3).chan 1).retries + 1 := by decide +kernel

theorem witness_MessageLayout : (List.replicate 18 (0xFF : Byte)).length ≤ 18 ∧ ([] : List Byte).length ≤ 18 := by decide

theorem fetchTakes_running : FetchTakes running 40001 := ⟨rfl, rfl, rfl, rfl⟩

theorem witness_FetchNone :
    let valid := fun (s : State) (c : Cycle) => s.ltu.known = true ∧ c = s.ltu.cycle + 1 ∧ s.ltu.nextFetched = false
    ¬valid State.reset 1 ∧ ¬valid (quietly (.given discWindow)) 40002 ∧ (quietly (.given discWindow)).ltu.quiet = .given discWindow ∧
      ¬valid running 40002 ∧ running.ltu.quiet = .idle ∧ valid (inPort .halted) 40001 ∧ (inPort .halted).pct.port = .halted ∧
      valid (inPort .draining) 40001 ∧ ((inPort .draining).pct.port = .draining ∧ (inPort .draining).dsq.urgent = []) ∧
      valid running 40001 ∧ (running.pct.port = .running ∧ running.dsq.window = none ∧ running.dsq.urgent = [] ∧
        running.dsq.control = [] ∧ running.dsu.parks = [] ∧ running.dsq.reply = []) := by decide +kernel

/-- A RELEASE of record 17 waits, for a destination. -/
def leaving (d : RelDest) : State :=
  let s := releasing17
  { s with records := s.records.set 17 { rec17 .releasing with dest := d } }

theorem witness_FetchRelease :
    FetchTakes (leaving .empty) 40001 ∧ (leaving .empty).dsq.urgent = 17 :: [] ∧ (leaving .empty).pct.port = .running ∧
      NoWindowFor (leaving .empty) 40001 ∧ ((leaving .empty).record 17).state = .releasing ∧
      ((leaving .empty).record 17).dest = .empty ∧ ((leaving .held).record 17).dest = .held ∧
      ((leaving .failed).record 17).dest = .failed ∧ ((leaving .awaiting).record 17).dest = .awaiting :=
  ⟨⟨rfl, rfl, rfl, rfl⟩, rfl, rfl, noWindow rfl, by decide +kernel, by decide +kernel, by decide +kernel, by decide +kernel,
    by decide +kernel⟩

/-- A control message of record 17 waits. -/
def control17 (st : ActState) (k : ControlKind) (profile : Byte) (waiting : List RecIx) : State :=
  let s := with17 st
  { s with
    records := s.records.set 17 { rec17 st with profileIx := profile }
    dsq := { Dsq.reset with control := [{ index := 17, kind := k }] }
    pex := { s.pex with waiting := waiting } }

theorem witness_FetchControl :
    FetchTakes (control17 .equalized .equalize 3 []) 40001 ∧ NoWindowFor (control17 .equalized .equalize 3 []) 40001 ∧
      (control17 .equalized .equalize 3 []).dsq.urgent = [] ∧
      (control17 .assigned .assign 3 []).dsq.control = { index := 17, kind := .assign } :: [] ∧
      (control17 .settling .trim 3 []).dsq.control = { index := 17, kind := .trim } :: [] ∧
      (control17 .committing .commit 3 []).dsq.control = { index := 17, kind := .commit } :: [] ∧
      ((control17 .equalized .equalize 255 []).record 17).profileIx = 255 ∧
      ((control17 .equalized .equalize 15 []).record 17).profileIx.toNat < 16 ∧
      ((control17 .equalized .equalize 15 []).record 17).profileDelivered = false ∧
      (control17 .equalized .equalize 3 [5]).pex.waiting ≠ [] ∧ (control17 .equalized .equalize 3 []).pex.waiting = [] ∧
      ((control17 .equalized .equalize 3 []).chan 0).stage = .free :=
  ⟨⟨rfl, rfl, rfl, rfl⟩, noWindow rfl, rfl, rfl, rfl, rfl, by decide +kernel, by decide +kernel, by decide +kernel, by decide +kernel,
    rfl, by decide +kernel⟩

/-- A window given for cycle 40,001 with its message. -/
def given (m : WindowMessage) : State :=
  let s := ranging17 .ranging (some (attempt17 .asking { mark := none, doubled := false }))
  { s with
    ltu := { s.ltu with quiet := .given rangeWindow }
    dsq := { Dsq.reset with window := some { cq := 40001, message := m } } }

theorem witness_FetchWindowAndPark :
    FetchTakes (given (.invite 4)) 40001 ∧ (given (.invite 4)).pct.port = .running ∧
      (given (.invite 4)).dsq.window = some { cq := 40001, message := .invite 4 } ∧
      (given (.invite 4)).ltu.quiet = .given rangeWindow ∧
      (given (.rangeAsk 17 4)).dsq.window = some { cq := 40001, message := .rangeAsk 17 4 } ∧
      (given (.rangeAsk 17 4)).rgu.attempt = some (attempt17 .asking { mark := none, doubled := false }) ∧
      (∃ p : Park, ({ running with dsu := { Dsu.reset with parks := [p] } } : State).dsu.parks = p :: []) ∧
      NoWindowFor { running with dsu := { Dsu.reset with parks := [{ serial := 1, rounds := 2 }] } } 40001 :=
  ⟨⟨rfl, rfl, rfl, rfl⟩, rfl, rfl, rfl, rfl, rfl, ⟨⟨1, 2⟩, rfl⟩, noWindow rfl⟩

/-- The reply-bearing list holds an ask of record 30, which holds a booking, and then an entry of record 17; slot (40,003, 0) is taken. -/
def replying (s : State) (k : ReplyKind) : State :=
  { s with
    ltu := { s.ltu with
      map := [{ ct := 40003, j := 0, use := .booked 30 .rgu 0 }], nextIdent := 1 }
    rgu := { s.rgu with
      settles := (s.rgu.settles.set 17 (some { found := 0, missed := 0, sum := 0, stage := .queued, report := none })).set 30
        (some { found := 0, missed := 0, sum := 0, stage := .queued, report := none }) }
    dsq := { Dsq.reset with reply := [{ index := 30, kind := .confirmAsk }, { index := 17, kind := k }] } }

theorem witness_FetchReply :
    let s := replying (with17 .settling) .confirmAsk
    let u := replying (pushing .running .ready) .profileBlock
    let b : ReplyEntry := { index := 30, kind := .confirmAsk }
    let e : ReplyEntry := { index := 17, kind := .confirmAsk }
    s.dsq.reply = [b] ++ e :: [] ∧ e ∉ [b] ∧ s.holdsBooking 30 = true ∧ s.holdsBooking 17 = false ∧
      s.header.replyLead.toNat ≤ 2 ∧ (2 ≤ 15 ∧ 1 < s.header.slotCount.toNat) ∧ s.usable (40001 + BitVec.ofNat 32 2) 1 = true ∧
      s.usable (40001 + BitVec.ofNat 32 2) 0 = false ∧ s.settle 17 ≠ none ∧
      u.dsq.reply = [b] ++ { index := 17, kind := .profileBlock } :: [] ∧ u.channelOf 17 = some 1 ∧ (u.chan 1).stage = .ready ∧
      (u.chan 1).buffer (u.chan 1).current = .full 0 false (List.replicate 16 0x20) := by decide +kernel

/-- Armed for a discovery window at a hunt state. -/
def hunting (b : Brx) : State := { running with ltu := { running.ltu with armed := some (.discovery 40000) }, brx := b }

/-- A hunt record in BODY with `n` samples of a byte, `bytes` decoded and `expected` bytes to come. -/
def body (n : Nat) (bytes : List Byte) (expected : Option Nat) : Brx :=
  { Brx.reset with
    hunt := .body
    record := { HuntRecord.empty with conv := .straight, bits := List.replicate n false, bytes := bytes, expected := expected } }

/-- A hunt record in BODY that lacks the last bit of the check over its bytes, sent straight. -/
def ending (bytes : List Byte) : HuntRecord :=
  let check := bytesLE 2 (crc16 bytes).toNat
  { HuntRecord.empty with
    conv := .straight, bits := (levelsOfByte .straight (byteAt check 1)).take 7, bytes := bytes ++ [byteAt check 0], expected := some 1
    mark := 4000 }

/-- A HELLO of a serial with a slot field, captured in a window. -/
def helloOf (x : Serial) (slot : Byte) (cq : Cycle) : Capture :=
  { kind := .hello, low := 0, payload := bytesLE 8 x.toNat ++ bytesLE 2 2000 ++ [slot], mark := 4001614, conv := .crossed
    interval := .discovery cq }

/-- RUNNING with an open round of spread 16 and captures waiting. -/
def openRound (seen : List Seen) (q : List Capture) : State :=
  let s := with17 .awaiting
  { s with
    dsu := { Dsu.reset with
      exponent := 4, round := .opened { ref := 40000, spread := 16, valid := 4, garbled := false, seen := seen } }
    brx := { Brx.reset with queue := q } }

theorem witness_HuntSteps :
    let run31 : Brx := { Brx.reset with hunt := .preamble, run := 31, previous := some false }
    let held15 : HuntRecord := { HuntRecord.empty with candidate := some 64, held := straightDelimiter.take 15 }
    let kind7 := body 7 [] none
    let last7 := body 7 [0x20, 0x12, 0x00] (some 1)
    let bytes := last7.record.bytes ++ [byteOfSamples .straight (last7.record.bits ++ [false])]
    (hunting Brx.reset).ltu.armed = some (.discovery 40000) ∧ (hunting Brx.reset).intervalOver (.discovery 40000) = false ∧
      run31.run = 31 ∧ run31.previous = some (!true) ∧ run31.previous ≠ some (!false) ∧
      ({ HuntRecord.empty with passed := 127 } : HuntRecord).candidate = none ∧ held15.candidate ≠ none ∧ held15.held.length = 15 ∧
      held15.held ++ [true] = straightDelimiter ∧ held15.held ++ [false] ≠ straightDelimiter ∧
      held15.held ++ [false] ≠ crossedDelimiter ∧ crossedDelimiter.take 15 ++ [false] = crossedDelimiter ∧ kind7.hunt = .body ∧
      kind7.record.expected = none ∧ kind7.record.bits.length = 7 ∧
      (byteOfSamples .straight (kind7.record.bits ++ [true])).toNat / 16 = 8 ∧
      byteOfSamples .straight ([false, false, false, false, true, false, false] ++ [false]) = 0x10 ∧ last7.record.expected = some 1 ∧
      (crc16 (bytes.take (bytes.length - 2))).toNat ≠ natLE (bytes.drop (bytes.length - 2)) ∧ running.ltu.armed = none ∧
      (ending [0x20, 0x12]).expected = some 1 ∧ (ending [0x20, 0x12]).bits.length = 7 ∧
      (∃ v, let b := (ending [0x20, 0x12]).bytes ++ [byteOfSamples .straight ((ending [0x20, 0x12]).bits ++ [v])]
        b.take (b.length - 2) = [0x20, 0x12] ∧ (crc16 (b.take (b.length - 2))).toNat = natLE (b.drop (b.length - 2))) ∧
      (openRound [] []).dsu.round = .opened { ref := 40000, spread := 16, valid := 4, garbled := false, seen := [] } ∧
      running.dsu.round = .idle ∧ kindOf 0x20 = some .echo ∧ kindOf 0x31 = some .status ∧ BurstKind.echo ≠ .hello := by decide +kernel

theorem witness_BurstReceived :
    let s := hunting { Brx.reset with hunt := .preamble }
    let hello := (Terminal.powerUp 0x4C52003100002A17 8191 .crossed).hello 15
    let payload := hello.body.drop 1
    let xs := burstSamples .crossed 11 (0x10 :: payload)
    s.ltu.armed = some (.discovery 40000) ∧ s.brx.hunt = .preamble ∧ s.brx.run = 0 ∧ s.brx.previous = none ∧
      hello.body = 0x10 :: payload ∧ kindOf 0x10 = some .hello ∧ payload.length = BurstKind.hello.payloadBytes ∧
      BurstKind.hello = (Interval.discovery 40000).expects ∧ 1024 ≤ natLE ((payload.drop 8).take 2) ∧
      natLE ((payload.drop 8).take 2) ≤ 8191 ∧ s.brx.queue.length < 2 ∧
      (List.range xs.length).all (fun k => !(heard s k s.brx).intervalOver (.discovery 40000)) = true ∧
      kindOf 0x2F = some .echo ∧ kindOf 0x33 = some .status ∧ kindOf 0x34 = none := by decide +kernel

theorem witness_HelloChecked :
    let x : Serial := 0x4C52003100002A17
    let y : Capture := helloOf x 15 40000
    let late : Capture := helloOf x 16 40000
    running.brx.queue = [] ∧ (openRound [] [y]).brx.queue = [] ++ y :: [] ∧ y.kind = .hello ∧
      (openRound [] [helloOf x 0 39000]).brx.queue = [] ++ helloOf x 0 39000 :: [] ∧ (helloOf x 0 39000).interval ≠ .discovery 40000 ∧
      y.interval = .discovery 40000 ∧ 16 ≤ (byteAt late.payload 10).toNat ∧ (byteAt y.payload 10).toNat < 16 ∧
      BitVec.ofNat 64 (natLE (y.payload.take 8)) = x ∧
      (openRound [{ serial := 1, reported := true }, { serial := x, reported := false }] [y]).dsu.round
        = .opened { ref := 40000, spread := 16, valid := 4, garbled := false
                    seen := [{ serial := 1, reported := true }] ++ { serial := x, reported := false } :: [] } ∧ (1 : Serial) ≠ x ∧
      ((openRound [] [y]).record 17).state.live = true ∧ ((openRound [] [y]).record 17).serial = x ∧
      (∀ j : RecIx, j < 17 → ((openRound [] [y]).record j).state.live = false) ∧
      (∀ k : RecIx, ((openRound [] [y]).record k).serial ≠ 9) := by decide +kernel

theorem witness_HelloMatched :
    ((with17 .awaiting).record 17).state.live = true ∧ ((with17 .awaiting).record 17).serial = 0x4C52003100002A17 ∧
      (∀ k : RecIx, k < 17 → ((with17 .awaiting).record k).state.live = false) ∧ ((with17 .awaiting).record 17).state = .awaiting ∧
      (releasing17.record 17).state = .releasing ∧ ((with17 .inService).record 17).state = .inService ∧
      ((with17 .assigned).record 17).state = .assigned ∧ ((with17 .assigned).record 17).assignTaken = true ∧
      ((with17 .settling).record 17).state.inActivation = true ∧ (with17 .settling).channelOf 17 = none := by decide +kernel

theorem witness_StrangerHeard :
    (∀ k : RecIx, ((with17 .held).record k).state.live = false) ∧ ((with17 .held).record 17).state = .held ∧
      (∀ k : RecIx, k < 17 → ((with17 .held).record k).state = .empty) ∧ (∀ k : RecIx, (running.record k).state = .empty) ∧
      running.header.openDiscovery ≠ 0 ∧ (running.header.filterAOn = 0 ∧ running.header.filterBOn = 0) ∧ running.header.rangeMode = 0 ∧
      (State.reset.header.openDiscovery = 0) ∧ (strangers [stranger 5]).dsu.strangers = [stranger 5] ∧
      (strangers (List.replicate 31 (stranger 5))).dsu.strangers.length < 32 ∧
      32 ≤ (strangers (List.replicate 32 (stranger 5))).dsu.strangers.length ∧ (stranger 5).serial ≠ 6 := by decide +kernel

/-- RUNNING with an open round of a window record. -/
def ended (valid : Nat) (garbled : Bool) : State :=
  { running with dsu := { Dsu.reset with
      exponent := 4, round := .opened { ref := 39990, spread := 16, valid := valid, garbled := garbled, seen := [] } } }

theorem witness_Rounds :
    let s : State := { with17 .awaiting with dsu := { Dsu.reset with base := 39936 } }
    (s.pct.port = .running ∧ s.ltu.lineUp = true ∧ s.dsu.round = .idle ∧
      s.header.discoveryPeriod.toNat ≤ (s.ltu.cycle - s.dsu.base).toNat ∧ (s.record 17).state = .awaiting) ∧
      ¬running.header.discoveryPeriod.toNat ≤ (running.ltu.cycle - 39937).toNat ∧ running.dsu.round = .idle ∧
      (ended 4 false).dsu.round = .opened { ref := 39990, spread := 16, valid := 4, garbled := false, seen := [] } ∧ 4 * 4 ≤ 16 ∧
      16 < 4 * 5 ∧ (ended 4 false).ltu.quiet = .idle ∧ (ended 4 false).brx.queue = [] ∧
      (quietly (.opened { discWindow with cq := 39990 })).ltu.quiet = .opened { discWindow with cq := 39990 } := by decide +kernel

/-- A STATUS of record 17 in slot (40,000, 1). -/
def status17 (low : Nat) (seq : Byte) (sum : Nat) (mark : Int) (o : Owner) : Capture :=
  { kind := .status, low := low, payload := [18, seq] ++ bytesLE 2 sum, mark := mark, conv := .crossed
    interval := .slot 4 40000 1 17 o }

/-- An ECHO of record 17's attempt, and an attempt waiting for it. -/
def echo17 (i : Nat) (line : Byte) (conv : Conv) : Capture :=
  { kind := .echo, low := i, payload := [line], mark := 3685771, conv := conv, interval := .ranging 40001 17 1 }
def echoing (c : Capture) (p0 : Place) : State :=
  let s := ranging17 .ranging (some (attempt17 .opened p0))
  { s with brx := { Brx.reset with queue := [c] } }

theorem witness_EchoTaken :
    let empty : Place := { mark := none, doubled := false }
    let full : Place := { mark := some 3669387, doubled := false }
    let c := echo17 1 18 .crossed
    running.brx.queue = [] ∧ (echoing c full).brx.queue = [] ++ c :: [] ∧ c.kind = .echo ∧
      (echoing c full).rgu.attempt = some (attempt17 .opened full) ∧ (attempt17 .opened full).stage = .opened ∧
      (attempt17 .opened full).ref = some 40001 ∧ c.interval = .ranging 40001 17 1 ∧ (attempt17 .opened full).count ≤ 2 ∧
      c.low < (attempt17 .opened full).count ∧ (byteAt c.payload 0).toNat = ((echoing c full).record 17).line ∧
      (19 : Nat) ≠ ((echoing c full).record 17).line ∧ Conv.straight ≠ ((echoing c full).record 17).conv ∧
      c.conv = ((echoing c full).record 17).conv ∧ (attempt17 .opened full).places[1]? = some empty ∧
      (attempt17 .opened empty).places[0]? = some empty ∧ (echoing c full).ltu.quiet = .opened rangeWindow ∧
      rangeWindow.interval = c.interval ∧ (attempt17 .judging full).stage ≠ .opened ∧
      (quietly (.opened discWindow)).ltu.quiet = .opened discWindow ∧ discWindow.interval ≠ c.interval ∧
      (status17 3 0 0 0 .rgu).kind ≠ .echo ∧ OldestIs { running with brx := { Brx.reset with queue := [status17 3 0 0 0 .rgu, c] } }
        (fun b => decide (b.kind = .echo ∨ (b.kind = .status ∧ b.low = 3))) (status17 3 0 0 0 .rgu) [] [c] := by
  and_intros <;> decide +kernel

/-- RUNNING with an attempt of record 17 that has samples. -/
def judged (stage : AttemptStage) (marks : List Int) : State :=
  ranging17 .ranging (some { attempt17 stage { mark := none, doubled := false } with
    count := marks.length, places := marks.map (fun m => { mark := some m, doubled := false }) })

theorem witness_AttemptJudge :
    let loops := fun marks : List Int => marks.zipIdx.map (fun (m, i) => m - 1024 - 16384 * (i : Int))
    let good := [3685771, 3702158, 3718537, 3734932]
    running.rgu.attempt = none ∧ (judged .judging good).rgu.attempt ≠ none ∧ (judged .judging good).brx.queue = [] ∧
      (∃ x ∈ [echo17 0 18 .crossed], x.interval = .ranging 40001 17 1) ∧
      (attempt17 .asking { mark := none, doubled := false }).stage = .asking ∧
      (∃ p ∈ (attempt17 .judging { mark := none, doubled := false }).places, p.mark = none ∨ p.doubled = true) ∧
      (∀ x ∈ loops good, ∀ y ∈ loops good, x - y ≤ 32) ∧
      (∃ x ∈ loops [3685771, 3702188], ∃ y ∈ loops [3685771, 3702188], (32 : Int) < x - y) ∧
      (4 * 3684750 ≤ (loops good).sum + 2 ∧ (loops good).sum + 2 < 4 * (3684750 + 1)) ∧ (3684750 : Int) ≤ 16 * 320000 ∧
      (16 * 2000 : Int) ≤ 3684750 ∧ loops [5121025] = [5120001] ∧ (16 * 320000 : Int) < 5120001 ∧ loops [33023] = [31999] ∧
      (31999 : Int) < 16 * 2000 := by decide +kernel

/-- An outcome of record 17's attempt waits. -/
def ranged (used : Nat) (o : RangingOutcome) : State :=
  let s := ranging17 .ranging none
  { s with
    records := s.records.set 17 { rec17 .ranging with rangeUsed := used }
    rgu := { s.rgu with reports := [{ index := 17, ident := 1, outcome := o }] } }

theorem witness_RangingOutcome :
    running.rgu.reports = [] ∧
      (ranged 1 (.failed .miss)).rgu.reports = { index := 17, ident := 1, outcome := .failed .miss } :: [] ∧
      ((ranged 1 (.failed .miss)).record 17).state = .ranging ∧ (1 : BitVec 8) = (ranged 1 .reach).rgu.ident ∧
      (2 : BitVec 8) ≠ (ranged 1 .reach).rgu.ident ∧
      ((ranged 1 (.failed .miss)).record 17).rangeUsed + 1 < (ranged 1 (.failed .miss)).header.rangeLimit.toNat ∧
      (ranged 2 (.failed .miss)).header.rangeLimit.toNat ≤ ((ranged 2 (.failed .miss)).record 17).rangeUsed + 1 := by decide +kernel

/-- Record 17 settling with replies found, and a SETTLE of it waiting. -/
def settling17 (found : Nat) (c : Capture) : State :=
  let s := asked17 0 0
  { s with
    pex := (pushing .running .free).pex
    rgu := { s.rgu with
      settles := s.rgu.settles.set 17
        (some { found := found, missed := 0, sum := 0, stage := .outstanding 40000 1 4, report := none }) }
    brx := { Brx.reset with queue := [c] } }

theorem witness_SettleReply :
    let c := status17 3 0 1151 5265440 .rgu
    let s := settling17 3 c
    running.brx.queue = [] ∧ s.brx.queue = [] ++ c :: [] ∧ c.kind = .status ∧ c.low = 3 ∧ c.interval = .slot 4 40000 1 17 .rgu ∧
      s.settle 17 = some { found := 3, missed := 0, sum := 0, stage := .outstanding 40000 1 4, report := none } ∧
      (∀ m : RecIx, m < 17 → s.settle m = none) ∧ (∀ m : RecIx, running.settle m = none) ∧ c.conv = (s.record 17).conv ∧
      Conv.straight ≠ (s.record 17).conv ∧ natLE ((c.payload.drop 2).take 2) = (s.dirEntry (profileDir (s.record 17).profileIx)).sum ∧
      natLE (((status17 3 0 1150 0 .rgu).payload.drop 2).take 2) ≠ (s.dirEntry (profileDir (s.record 17).profileIx)).sum ∧
      (echo17 0 18 .crossed).kind = .echo ∧ c.kind ≠ .echo ∧ (s.record 17).settleCount.toNat ≤ 3 + 1 ∧ 2 + 1 < (s.record 17).settleCount.toNat ∧ (s.record 17).trimSent = false ∧
      c.mark - 16 * (320000 + 8000 + 1 * 1024 + 64) = 32 ∧ (32 : Int).natAbs / 4 ≤ s.header.tol.toNat := by decide +kernel

/-- A settle outcome of record 17 waits. -/
def settled (used : Nat) (o : SettleOutcome) : State :=
  let s := with17 .settling
  { s with
    records := s.records.set 17 { rec17 .settling with rangeUsed := used }
    rgu := { Rgu.reset with
      settles := Rgu.reset.settles.set 17 (some { found := 4, missed := 0, sum := 6, stage := .decided, report := some o })
      settleReports := [17] } }

theorem witness_SettleOutcome :
    running.rgu.settleReports = [] ∧ (settled 0 (.pass 2)).rgu.settleReports = 17 :: [] ∧
      ((settled 0 (.pass 2)).record 17).state = .settling ∧
      (settled 0 (.pass 2)).settle 17 = some { found := 4, missed := 0, sum := 6, stage := .decided, report := some (.pass 2) } ∧
      ((with17 .assigned).record 17).state ≠ .settling ∧
      ((settled 1 (.reRange none)).record 17).rangeUsed + 1 < (settled 1 (.reRange none)).header.rangeLimit.toNat ∧
      (settled 2 (.reRange none)).header.rangeLimit.toNat ≤ ((settled 2 (.reRange none)).record 17).rangeUsed + 1 := by decide +kernel

/-- Channel 1 SENT with a reply of record 17 waiting. -/
def replied (current retries : Nat) (c : Capture) : State :=
  let s := sent17 0 retries
  { s with
    pex := { s.pex with chans := s.pex.chans.set 1 { s.chan 1 with current := current } }
    brx := { Brx.reset with queue := [c] } }

/-- An ACK of block 0 waits; both buffers are FULL, and the image stands at a position and an item. -/
def refilling (item : ImageItem) (pos : Nat) (blocks : Nat) : State :=
  let s := replied 0 0 (status17 1 0 0 5265408 (.channel 1))
  { s with
    pex := { s.pex with chans := s.pex.chans.set 1 { s.chan 1 with
      blocks := blocks, bufB := .full 1 false (List.replicate 16 0x20), pos := pos, item := item, next := 2 } } }

theorem witness_BlockReply :
    let ack := status17 1 0 0 5265408 (.channel 1)
    let nak := status17 2 0 0 5265408 (.channel 1)
    running.brx.queue = [] ∧ (replied 0 0 ack).brx.queue = [] ++ ack :: [] ∧ ack.kind = .status ∧ ack.low = 1 ∧ nak.low = 2 ∧
      ack.interval = .slot 4 40000 1 17 (.channel 1) ∧ ((replied 0 0 ack).chan 1).stage = .sent 40000 1 4 ∧
      ((replied 0 0 ack).chan 0).stage = .free ∧ (∀ ch : ChanIx, (running.chan ch).stage = .free) ∧
      ack.conv = ((replied 0 0 ack).record 17).conv ∧ (byteAt ack.payload 1).toNat = ((replied 0 0 ack).chan 1).current ∧
      (byteAt ack.payload 1).toNat ≠ ((replied 1 0 ack).chan 1).current ∧
      ((replied 0 2 nak).chan 1).retries + 1 < (replied 0 2 nak).header.blockRetries.toNat ∧
      (replied 0 3 nak).header.blockRetries.toNat ≤ ((replied 0 3 nak).chan 1).retries + 1 ∧
      ((replied 0 0 ack).chan 1).current + 1 < ((replied 0 0 ack).chan 1).blocks ∧
      ((refilling .idle 0x3404 3).chan 1).next = ((refilling .idle 0x3404 3).chan 1).current + 2 ∧
      ((refilling .idle 0x3404 3).chan 1).buffer 1 = .full 1 false (List.replicate 16 0x20) ∧
      2 < ((refilling .idle 0x3404 3).chan 1).blocks ∧ ((refilling .idle 0x3404 2).chan 1).blocks ≤ 2 ∧
      ((replied 2 0 (status17 1 2 0 5265408 (.channel 1))).chan 1).blocks
        ≤ ((replied 2 0 (status17 1 2 0 5265408 (.channel 1))).chan 1).current + 1 := by decide +kernel

/-- A push outcome of record 17 waits, and records for a channel. -/
def pushed (o : PushOutcome) (waiting : List RecIx) : State :=
  let s := pushing .running (.reported o)
  { s with
    records := s.records.set 30 (rec17 .equalized)
    pex := { s.pex with waiting := waiting, reports := [{ index := 17, chan := 1 }] } }

theorem witness_ProfileOutcome :
    running.pex.reports = [] ∧ (pushed .complete []).pex.reports = { index := 17, chan := 1 } :: [] ∧
      ((pushed .complete []).record 17).state = .profiling ∧ ((pushed .complete []).chan 1).index = 17 ∧
      ((pushed .complete []).chan 1).stage = .reported .complete ∧ (pushed .complete []).pex.waiting = [] ∧
      (pushed .complete [30]).pex.waiting = 30 :: [] ∧ (30 : RecIx) ≠ 17 ∧
      ((pushed .profileFailed []).chan 1).stage = .reported .profileFailed ∧
      ((pushed .imageFailed []).chan 1).stage = .reported .imageFailed ∧ ((with17 .settling).record 17).state ≠ .profiling := by
  decide +kernel

/-- Record 17 with channel 1 SENT in slot (40,000, 1), the arm line up for it, a read of the channel queued, and two records waiting for a
channel; an OPEN window of an OPEN round. -/
def working : State :=
  let s := sent17 330047 2
  { s with
    ltu := { s.ltu with quiet := .opened { discWindow with cq := 39999 }, armed := some (.slot 4 40000 1 17 (.channel 1)) }
    dsu := (ended 4 false).dsu
    pex := { s.pex with waiting := [30, 5] }
    bpt := { s.bpt with chanRequests := s.bpt.chanRequests.set 1 (some { word := 3330, dropped := false }) } }

/-- What the clauses of `Abandoned` speak of (O17, O18, O45, O50, O52, O54): a channel passed on and a channel freed, a booking armed, a RANGE-ASK
of the record, a window GIVEN for it and one OPEN for it, and a window message of another demander. -/
theorem witness_Abandoned :
    let ranging := fun m => given (.rangeAsk m 4)
    (working.channelOf 17 = some 1 ∧ waitingWithout working 17 = 30 :: [5] ∧ (working.chanRequest 1).isSome = true) ∧
      ((sent17 0 0).channelOf 17 = some 1 ∧ waitingWithout (sent17 0 0) 17 = []) ∧ (with17 .settling).channelOf 17 = none ∧
      (∃ e ∈ working.ltu.map, e.isFor 17 = true ∧ e.interval = working.ltu.armed) ∧ working.quietIsFor 17 = false ∧
      ((ranging 17).dsq.window = some { cq := 40001, message := .rangeAsk 17 4 } ∧ (ranging 17).quietIsFor 17 = true ∧
        (ranging 17).ltu.quiet = .given rangeWindow) ∧
      ((ranging 3).quietIsFor 3 = false ∧ (given (.invite 4)).quietIsFor 3 = false) ∧
      ((ranging17 .ranging none).quietIsFor 17 = true ∧ (ranging17 .ranging none).ltu.quiet = .opened rangeWindow) := by
  decide +kernel

/-- What the clauses of `WorkEnded` and `TimelineEnded` speak of (O7, O8, O10, O31): an OPEN round, the arm line up for a booking, and the
arm line up for an OPEN window. -/
theorem witness_WorkEnded :
    (∃ w, working.dsu.round = .opened w) ∧ (∃ id, working.ltu.armed = some id ∧ ∃ e ∈ working.ltu.map, e.interval = some id) ∧
      (let s : State := { quietly (.opened discWindow) with ltu := { (quietly (.opened discWindow)).ltu with armed := some (.discovery 40001) } }
       s.ltu.quiet = .opened discWindow ∧ s.ltu.armed = some discWindow.interval) ∧
      (working.chanRequest 1).isSome = true ∧ running.dsu.round = .idle :=
  ⟨⟨_, rfl⟩, ⟨_, rfl, by decide +kernel⟩, by decide +kernel, by decide +kernel, rfl⟩

/-- The invariants hold at reset, and a step from there answers a next state. -/
theorem witness_invariants :
    Memory.wf State.reset.sram ∧ SerialsDistinct State.reset ∧ State.reset.evw.stage = 0 ∧ State.reset.ltu.map = [] ∧
      ∃ t, step State.reset = .next t :=
  ⟨by decide, fun i k h => absurd h (by simp [State.record, State.reset, Record.reset, ActState.live]), rfl, rfl, _, rfl⟩

end Sys2Proof.Tests
end

section
set_option Elab.async false
/-! Words and their byte lanes: a word is its four lanes, its halves are two of them each, and a merge with no lane enabled is the old word. -/

namespace Sys2Proof.Machine

/-- Two adjacent parts of a bit vector, joined again. -/
theorem extract_append_extract {w : Nat} (x : BitVec w) (a m n : Nat) :
    x.extractLsb' (a + n) m ++ x.extractLsb' a n = x.extractLsb' a (m + n) :=
  BitVec.extractLsb'_append_extractLsb'_eq_extractLsb' rfl

/-- A word is its four byte lanes (10.7). -/
theorem word4_byteOf (w : Word) : word4 (byteOf w 0) (byteOf w 1) (byteOf w 2) (byteOf w 3) = w := by
  have h3 := extract_append_extract w 16 8 8
  have h2 := extract_append_extract w 8 16 8
  have h1 := extract_append_extract w 0 24 8
  simp only [Nat.reduceAdd] at h3 h2 h1
  simp only [word4, byteOf, Nat.reduceMul, h3, h2, h1]
  simp

/-- A serial is its two halves (R2). -/
theorem serial_halves (x : Serial) : x.extractLsb' 32 32 ++ x.extractLsb' 0 32 = x := by
  rw [extract_append_extract x 0 32 32]
  simp

@[simp] theorem mergeLane_none (old new : Word) (k : Nat) : mergeLane old new 0#4 k = byteOf old k := by
  simp [mergeLane]

@[simp] theorem merge_none (old new : Word) : merge old new 0#4 = old := by
  simp only [merge, mergeLane_none, word4_byteOf]

@[simp] theorem storeLane_none (old : Byte) (data : Word) (k : Nat) (f : Byte → Byte) : storeLane old data 0#4 k f = old := by
  simp [storeLane]

/-- A record write with no lane enabled stores nothing. -/
@[simp] theorem Record.store_none (r : Record) (k : Nat) (data : Word) : r.store k data 0#4 = r := by
  unfold Record.store
  split <;> simp only [storeLane_none, merge_none, serial_halves]

/-- A record write changes none of the live fields. -/
theorem Record.store_state (r : Record) (k : Nat) (data : Word) (be : Enables) : (r.store k data be).state = r.state := by
  unfold Record.store
  split <;> rfl

end Sys2Proof.Machine
end

section
set_option Elab.async false
/-! The law of serial numbers (R9, R12): which changes of the records and of the lists that move them keep it, and that every step makes
only such changes. -/

namespace Sys2Proof.Machine

open Sys2Proof.Safety

/-! ### Changes that keep the law -/

/-- In activation or in service: the states in which a record has work that can be abandoned (R11). -/
def ActState.Active (st : ActState) : Prop := st.inActivation = true ∨ st = .inService

/-- Live and not RELEASING: the states from which a record can go on to a state of activation or service (R14 to R22). -/
def ActState.Engaged (st : ActState) : Prop := st.live = true ∧ st ≠ .releasing

theorem ActState.Active.engaged {st : ActState} (h : st.Active) : st.Engaged := by
  cases st <;> simp_all [ActState.Active, ActState.Engaged, ActState.inActivation, ActState.live]

theorem ActState.Active.live {st : ActState} (h : st.Active) : st.live = true := h.engaged.1

theorem ActState.Active.ne_releasing {st : ActState} (h : st.Active) : st ≠ .releasing := h.engaged.2

theorem ActState.Active.ne_empty {st : ActState} (h : st.Active) : st ≠ .empty := fun e => by
  rw [e] at h; simp [ActState.Active, ActState.inActivation] at h

/-- Between `s` and `t` records have at most gone on from an engaged state to an active one, their serials standing; the control list and
the profile-wait queue have gained active records alone, and the urgent list stands. -/
structure Moved (s t : State) : Prop where
  pct : t.pct = s.pct
  serial : ∀ k, (t.record k).serial = (s.record k).serial
  state : ∀ k, (t.record k).state = (s.record k).state ∨ ((s.record k).state.Engaged ∧ (t.record k).state.Active)
  control : ∀ e ∈ t.dsq.control, e ∈ s.dsq.control ∨ (t.record e.index).state.Active
  waiting : ∀ i ∈ t.pex.waiting, i ∈ s.pex.waiting ∨ (t.record i).state.Active
  urgent : t.dsq.urgent = s.dsq.urgent

/-- Nothing that the law looks at has changed. -/
theorem Moved.of_same {s t : State} (hr : t.records = s.records := by simp) (hp : t.pct = s.pct := by simp)
    (hc : t.dsq.control = s.dsq.control := by simp) (hu : t.dsq.urgent = s.dsq.urgent := by simp)
    (hw : t.pex.waiting = s.pex.waiting := by simp) : Moved s t where
  pct := hp
  serial k := by rw [State.record_congr s hr]
  state k := .inl (by rw [State.record_congr s hr])
  control e he := .inl (hc ▸ he)
  waiting i hi := .inl (hw ▸ hi)
  urgent := hu

theorem Moved.refl (s : State) : Moved s s := .of_same rfl rfl rfl rfl rfl

theorem Moved.trans {s t u : State} (h : Moved s t) (k : Moved t u) : Moved s u where
  pct := k.pct.trans h.pct
  serial i := (k.serial i).trans (h.serial i)
  state i := by
    rcases h.state i with e | ⟨e, a⟩ <;> rcases k.state i with e' | ⟨e', a'⟩
    · exact .inl (e'.trans e)
    · exact .inr ⟨e ▸ e', a'⟩
    · exact .inr ⟨e, e' ▸ a⟩
    · exact .inr ⟨e, a'⟩
  control e he := by
    rcases k.control e he with he | a
    · rcases h.control e he with he | a
      · exact .inl he
      · rcases k.state e.index with e' | ⟨_, a'⟩
        · exact .inr (e' ▸ a)
        · exact .inr a'
    · exact .inr a
  waiting i hi := by
    rcases k.waiting i hi with hi | a
    · rcases h.waiting i hi with hi | a
      · exact .inl hi
      · rcases k.state i with e' | ⟨_, a'⟩
        · exact .inr (e' ▸ a)
        · exact .inr a'
    · exact .inr a
  urgent := k.urgent.trans h.urgent

theorem Moved.lawful {s t : State} (m : Moved s t) (h : Lawful s) : Lawful t where
  distinct i k hi hk e := by
    have live : ∀ j, (t.record j).state.live = true → (s.record j).state.live = true := fun j hj => by
      rcases m.state j with e | ⟨e, -⟩
      · exact e ▸ hj
      · exact e.1
    exact h.distinct i k (live i hi) (live k hk) (by rw [← m.serial, ← m.serial, e])
  vacant hv i := by
    have he := h.vacant (m.pct ▸ hv) i
    rcases m.state i with e | ⟨e, -⟩
    · exact e.trans he
    · rw [he] at e; cases e.1
  loaded ho := by rw [m.pct] at ho ⊢; exact h.loaded ho
  control e he := by
    rcases m.control e he with he | a
    · rcases m.state e.index with e' | ⟨_, a⟩
      · rw [e']; exact h.control e he
      · exact a
    · exact a
  waiting i hi := by
    rcases m.waiting i hi with hi | a
    · rcases m.state i with e' | ⟨_, a⟩
      · rw [e']; exact h.waiting i hi
      · exact a
    · exact a
  urgent i hi := by
    have he := h.urgent i (m.urgent ▸ hi)
    rcases m.state i with e | ⟨e, -⟩
    · exact e.trans he
    · exact absurd he e.2
  once := m.urgent ▸ h.once

@[simp] theorem State.record_setSettle (s : State) (i : RecIx) (x : Option Settle) (k : RecIx) :
    (s.setSettle i x).record k = s.record k := rfl

@[simp] theorem State.record_leaveRanging (s : State) (i k : RecIx) : (s.leaveRanging i).record k = s.record k := rfl

@[simp] theorem State.record_joinRanging (s : State) (i k : RecIx) : (s.joinRanging i).record k = s.record k := rfl

section

variable {s t : State} (m : Moved s t)
include m

theorem Moved.same {u : State} (hr : u.records = t.records := by simp) (hp : u.pct = t.pct := by simp)
    (hc : u.dsq.control = t.dsq.control := by simp) (hu : u.dsq.urgent = t.dsq.urgent := by simp)
    (hw : u.pex.waiting = t.pex.waiting := by simp) : Moved s u := m.trans (.of_same hr hp hc hu hw)

theorem Moved.setChan (ch : ChanIx) (c : Channel) : Moved s (t.setChan ch c) := m.same rfl rfl rfl rfl rfl

theorem Moved.setDir (p : DirIx) (e : DirEntry) : Moved s (t.setDir p e) := m.same rfl rfl rfl rfl rfl

theorem Moved.appendReply (i : RecIx) (k : ReplyKind) : Moved s (t.appendReply i k) := m.same rfl rfl rfl rfl rfl

theorem Moved.setSettle (i : RecIx) (x : Option Settle) : Moved s (t.setSettle i x) := m.same rfl rfl rfl rfl rfl

theorem Moved.leaveRanging (i : RecIx) : Moved s (t.leaveRanging i) := m.same rfl rfl rfl rfl rfl

theorem Moved.joinRanging (i : RecIx) : Moved s (t.joinRanging i) := m.same rfl rfl rfl rfl rfl

theorem Moved.followInterrupt : Moved s t.followInterrupt := m.same rfl rfl rfl rfl rfl

theorem Moved.parkSerial (x : Serial) : Moved s (t.parkSerial x) := m.same

/-- A change of one record that keeps its serial and its state, or takes it from an engaged state to an active one. -/
theorem Moved.onRecord (i : RecIx) (f : Record → Record) (hs : ∀ r, (f r).serial = r.serial := by intro _; rfl)
    (hst : (f (t.record i)).state = (t.record i).state ∨ ((t.record i).state.Engaged ∧ (f (t.record i)).state.Active) := by
      exact .inl rfl) : Moved s (t.onRecord i f) := by
  refine m.trans ⟨rfl, fun k => ?_, fun k => ?_, fun _ => .inl, fun _ => .inl, rfl⟩ <;> rw [State.record_onRecord] <;> split
  · next e => rw [e, hs]
  · rfl
  · next e => rw [e]; exact hst
  · exact .inl rfl

theorem Moved.moveQuietly (i : RecIx) (st : ActState) (h : (t.record i).state.Engaged) (hst : st.Active) :
    Moved s (t.moveQuietly i st) := m.onRecord i _ (fun _ => rfl) (.inr ⟨h, hst⟩)

/-- A record goes on to an active state with its RECORD event. -/
theorem Moved.enter (i : RecIx) (st : ActState) (why : ChangeReason) (h : (t.record i).state.Engaged) (hst : st.Active) :
    Moved s (t.enter i st why) :=
  (m.moveQuietly i st h hst).same (hr := by simp [State.enter])

end

/-- What the steps of a fold make, the fold makes. -/
theorem Moved.foldl {α : Type} (f : State → α → State) (h : ∀ t a, Moved t (f t a)) (l : List α) : ∀ s, Moved s (l.foldl f s) := by
  induction l with
  | nil => exact Moved.refl
  | cons a l ih => exact fun s => (h s a).trans (ih (f s a))

/-- One record has been replaced, which no list names: by one that is not live, or whose serial no other live record holds. -/
theorem lawful_of_replaced {s t : State} {i : RecIx} {r : Record} (h : Lawful s) (hrec : ∀ k, t.record k = if k = i then r else s.record k)
    (hp : t.pct = s.pct) (hc : t.dsq.control = s.dsq.control) (hu : t.dsq.urgent = s.dsq.urgent) (hw : t.pex.waiting = s.pex.waiting)
    (ho : s.pct.port.overlay = true ∨ r.state = .empty) (ha : ¬(s.record i).state.Active) (hi : i ∉ s.dsq.urgent)
    (hl : r.state.live = true → ∀ k, k ≠ i → (s.record k).state.live = true → (s.record k).serial ≠ r.serial) : Lawful t where
  distinct j k hj hk e := by
    rw [hrec] at hj e; rw [hrec k] at hk e
    split at hj <;> split at hk
    · next a b => rw [a, b]
    · next a b => simp only [a, b, if_true, if_false] at e; exact absurd e.symm (hl hj k b hk)
    · next a b => simp only [a, b, if_true, if_false] at e; exact absurd e (hl hk j a hj)
    · next a b => simp only [a, b, if_false] at e; exact h.distinct j k hj hk e
  vacant hv k := by
    rw [hp] at hv
    rw [hrec]; split
    · exact ho.resolve_left (by simp [hv])
    · exact h.vacant hv k
  loaded hv := by rw [hp] at hv ⊢; exact h.loaded hv
  control e he := by
    have hs : (s.record e.index).state.Active := h.control e (hc ▸ he)
    have hne : e.index ≠ i := fun x => ha (x ▸ hs)
    rw [hrec, if_neg hne]; exact hs
  waiting k hk := by
    have hs : (s.record k).state.Active := h.waiting k (hw ▸ hk)
    have hne : k ≠ i := fun x => ha (x ▸ hs)
    rw [hrec, if_neg hne]; exact hs
  urgent k hk := by
    rw [hu] at hk
    rw [hrec, if_neg (fun x : k = i => hi (x ▸ hk))]; exact h.urgent k hk
  once := hu ▸ h.once

/-- The port has gone on in the overlay states, or every record was EMPTY and still is. -/
theorem lawful_of_port {s t : State} (h : Lawful s) (hr : t.records = s.records) (hd : t.dsq = s.dsq) (hx : t.pex = s.pex)
    (ho : t.pct.port.overlay = true ∨ s.pct.port.overlay = false) (hl : t.pct.port.overlay = true → t.pct.load = none) : Lawful t := by
  have hrec : ∀ k, t.record k = s.record k := State.record_congr s hr
  refine ⟨fun i k => ?_, fun hv k => ?_, hl, ?_, ?_, ?_, hd ▸ h.once⟩
  · rw [hrec, hrec]; exact h.distinct i k
  · rw [hrec]; exact h.vacant (ho.resolve_left (by simp [hv])) k
  · simp only [hrec, hd]; exact h.control
  · simp only [hrec, hx]; exact h.waiting
  · simp only [hrec, hd]; exact h.urgent

/-- Outside the overlay states the lists are empty, and so every change of setup fields is lawful. -/
theorem lawful_of_vacant {s t : State} (h : Lawful s) (hv : s.pct.port.overlay = false)
    (hr : ∀ k, (t.record k).state = (s.record k).state) (hd : t.dsq = s.dsq) (hx : t.pex.waiting = s.pex.waiting)
    (hl : t.pct.port.overlay = true → t.pct.load = none) : Lawful t := by
  have he : ∀ k, (t.record k).state = .empty := fun k => (hr k).trans (h.vacant hv k)
  refine ⟨fun i k hi => ?_, fun _ => he, hl, ?_, ?_, ?_, hd ▸ h.once⟩
  · rw [he] at hi; cases hi
  · simp only [hr, hd]; exact h.control
  · simp only [hr, hx]; exact h.waiting
  · simp only [hr, hd]; exact h.urgent

/-! ### Releases and port returns -/

/-- The abandonment of record `i` (R11): the other records stand, or one that waited for a channel is PROFILING; no record waits but those that
did. -/
theorem abandoned_others {s t : State} {i : RecIx} (w : Abandoned s t i) (ha : ∀ k ∈ waitingWithout s i, (s.record k).state.Active) :
    (∀ k, k ≠ i → (t.record k).serial = (s.record k).serial ∧
      ((t.record k).state = (s.record k).state ∨ ((s.record k).state.Active ∧ (t.record k).state.Active))) ∧
    ∀ k ∈ t.pex.waiting, k ∈ waitingWithout s i := by
  have stands : (∀ k, k ≠ i → t.record k = s.record k) → ∀ k, k ≠ i → (t.record k).serial = (s.record k).serial ∧
      ((t.record k).state = (s.record k).state ∨ ((s.record k).state.Active ∧ (t.record k).state.Active)) :=
    fun h k hk => by rw [h k hk]; exact ⟨rfl, .inl rfl⟩
  rcases hc : s.channelOf i with _ | ch
  · obtain ⟨hpex, -, hk⟩ := w.noChannel hc
    exact ⟨stands hk, by rw [hpex]; exact fun k => id⟩
  · rcases hw : waitingWithout s i with _ | ⟨k, ws⟩
    · obtain ⟨hpex, -, hk⟩ := w.freed ch hc hw
      exact ⟨stands hk, by rw [hpex]; exact fun k => id⟩
    · obtain ⟨hg, hws, hk⟩ := w.passedOn ch k ws hc hw
      refine ⟨fun m hm => ?_, fun m hm => List.mem_cons_of_mem _ (hws ▸ hm)⟩
      by_cases hmk : m = k
      · subst hmk
        rw [hg.record]
        exact ⟨rfl, .inr ⟨ha m (hw ▸ List.mem_cons_self), .inl rfl⟩⟩
      · rw [hk m hm hmk]; exact ⟨rfl, .inl rfl⟩

/-- In a lawful state the records that wait for a channel, `i` apart, are active. -/
theorem waitingWithout_active {s : State} (h : Lawful s) (i : RecIx) :
    ∀ k ∈ waitingWithout s i, k ≠ i ∧ (s.record k).state.Active := fun k hk => by
  simp only [waitingWithout, List.mem_filter, decide_eq_true_eq] at hk
  exact ⟨hk.2, h.waiting k hk.1⟩

/-- A released record, with its channel passed on, keeps the law (R11, R12). -/
theorem released_lawful {s t : State} {i : RecIx} {d : RelDest} {why : ChangeReason} {f : Option FailReason}
    (r : Released s t i d why f) (h : Lawful s) (ha : (s.record i).state.Active) : Lawful t := by
  obtain ⟨-, -, hpct, -, -⟩ := r.work.kept
  have hover : s.pct.port.overlay = true := by
    by_contra hv
    exact ha.ne_empty (h.vacant (by simpa using hv) i)
  have hwait := waitingWithout_active h i
  obtain ⟨hrec, hwsub⟩ := abandoned_others r.work (fun k hk => (hwait k hk).2)
  have hi : t.record i = _ := r.record
  have hlive : ∀ k, (t.record k).state.live = true → (s.record k).state.live = true := fun k hk => by
    by_cases e : k = i
    · rw [e]; exact ha.live
    · rcases (hrec k e).2 with e | ⟨e, -⟩
      · rw [← e]; exact hk
      · exact e.live
  have hserial : ∀ k, (t.record k).serial = (s.record k).serial := fun k => by
    by_cases e : k = i
    · rw [e, hi]
    · exact (hrec k e).1
  have hactive : ∀ k, k ≠ i → (s.record k).state.Active → (t.record k).state.Active := fun k hk a => by
    rcases (hrec k hk).2 with e | ⟨-, e⟩
    · exact e ▸ a
    · exact e
  refine ⟨fun j k hj hk e => ?_, fun hv => ?_, ?_, fun e he => ?_, fun k hk => ?_, fun k hk => ?_, ?_⟩
  · exact h.distinct j k (hlive j hj) (hlive k hk) (by rw [← hserial, ← hserial, e])
  · rw [hpct, hover] at hv; cases hv
  · rw [hpct]; exact h.loaded
  · rw [r.control, List.mem_filter, decide_eq_true_eq] at he
    exact hactive e.index he.2 (h.control e he.1)
  · have := hwait k (hwsub k hk)
    exact hactive k this.1 this.2
  · rw [r.urgent, List.mem_append, List.mem_singleton] at hk
    rcases hk with hk | rfl
    · have hs := h.urgent k hk
      have hki : k ≠ i := fun e => ha.ne_releasing (e ▸ hs)
      rcases (hrec k hki).2 with e | ⟨e, -⟩
      · exact e.trans hs
      · exact absurd hs e.ne_releasing
    · rw [hi]
  · rw [r.urgent, List.nodup_append]
    refine ⟨h.once, List.nodup_singleton i, fun a ha' b hb e => ?_⟩
    rw [List.mem_singleton] at hb
    subst hb; subst e
    exact ha.ne_releasing (h.urgent _ ha')

/-- A port return keeps the law: the records return to AWAITING from activation, and no list names one of them. -/
theorem State.portReturn_lawful {s : State} (h : Lawful s) : Lawful s.portReturn := by
  obtain ⟨w, -, -, -⟩ := s.portReturn_spec
  have hpct : s.portReturn.pct = s.pct := by simp
  generalize s.portReturn = t at w hpct
  have hrec : ∀ k, (t.record k).serial = (s.record k).serial ∧
      ((t.record k).state = (s.record k).state ∨ ((s.record k).state.Active ∧ (t.record k).state = .awaiting)) := fun k => by
    rw [w.records, returned]
    split
    · next hb => exact ⟨rfl, .inr ⟨.inl hb, rfl⟩⟩
    · exact ⟨rfl, .inl rfl⟩
  have hlive : ∀ k, (t.record k).state.live = true → (s.record k).state.live = true := fun k hk => by
    rcases (hrec k).2 with e | ⟨e, -⟩
    · exact e ▸ hk
    · exact e.live
  refine ⟨fun j k hj hk e => ?_, fun hv k => ?_, ?_, ?_, ?_, fun k hk => ?_, ?_⟩
  · exact h.distinct j k (hlive j hj) (hlive k hk) (by rw [← (hrec j).1, ← (hrec k).1, e])
  · have he := h.vacant (hpct ▸ hv) k
    rcases (hrec k).2 with e | ⟨e, -⟩
    · exact e.trans he
    · exact absurd he e.ne_empty
  · rw [hpct]; exact h.loaded
  · simp [w.dsq]
  · simp [w.pex]
  · rw [w.dsq] at hk
    have he := h.urgent k hk
    rcases (hrec k).2 with e | ⟨e, -⟩
    · exact e.trans he
    · exact absurd he e.ne_releasing
  · rw [w.dsq]; exact h.once

end Sys2Proof.Machine
end

section
set_option Elab.async false
/-! The law of serial numbers, operation by operation. -/

namespace Sys2Proof.Machine

open Sys2Proof.Safety

variable {s : State}

/-! ### The timeline and the channels -/

theorem State.abandonAttempt_moved (s : State) : Moved s s.abandonAttempt := by
  have closed : Moved s { s with rgu := { s.rgu with attempt := none } } := .of_same rfl rfl rfl rfl rfl
  unfold State.abandonAttempt
  split
  · exact closed
  · next i _ _ =>
    split
    · next h =>
      have hi : (({ s with rgu := { s.rgu with attempt := none } } : State).record i).state = .ranging := h
      exact closed.onRecord i _ (hst := .inr ⟨by rw [hi]; exact ⟨rfl, nofun⟩, .inl rfl⟩)
    · exact closed

section

variable {t : State} (m : Moved s t)
include m

theorem Moved.abandonAttempt : Moved s t.abandonAttempt := m.trans (State.abandonAttempt_moved t)

theorem Moved.askEnded (p : Purpose) : Moved s (t.askEnded p) := by
  have emptied : Moved s t.emptyWindowSlot := m.same rfl rfl rfl rfl rfl
  unfold State.askEnded
  split
  · exact emptied.same
  · exact emptied.abandonAttempt

theorem Moved.reportPush (ch : ChanIx) (o : PushOutcome) : Moved s (t.reportPush ch o) := m.same rfl rfl rfl rfl rfl

theorem Moved.placeRead (ch : ChanIx) : Moved s (t.placeRead ch) := m.same

theorem Moved.dropRead (ch : ChanIx) : Moved s (t.dropRead ch) := m.same

theorem Moved.runFill (ch : ChanIx) (bytes : List Byte) : Moved s (t.runFill ch bytes) := by
  unfold State.runFill
  dsimp only
  split <;> split
  · exact ((m.setChan _ _).appendReply _ _).placeRead _
  · exact (m.setChan _ _).placeRead _
  · exact (m.setChan _ _).appendReply _ _
  · exact m.setChan _ _

theorem Moved.scanGood (ch : ChanIx) : Moved s (t.scanGood ch) := by
  unfold State.scanGood
  dsimp only
  split
  · exact .reportPush (.onRecord (m.setDir _ _) _ _) _ _
  · exact .runFill (.setChan (.onRecord (m.setDir _ _) _ _) _ _) _ _

theorem Moved.startScan (ch : ChanIx) : Moved s (t.startScan ch) := by
  unfold State.startScan
  dsimp only
  split
  · exact (m.setChan _ _).scanGood _
  · split
    · exact (m.setChan _ _).placeRead _
    · exact (m.setChan _ _).reportPush _ _

theorem Moved.grantChannel (ch : ChanIx) (i : RecIx) : Moved s (t.grantChannel ch i) := (m.setChan _ _).startScan _

theorem Moved.freeChannel (ch : ChanIx) : Moved s (t.freeChannel ch) := (m.setChan _ _).dropRead _

theorem Moved.offerAgain (ch : ChanIx) : Moved s (t.offerAgain ch) := (m.setChan _ _).appendReply _ _

theorem Moved.negativeOutcome (ch : ChanIx) : Moved s (t.negativeOutcome ch) := by
  unfold State.negativeOutcome
  dsimp only
  split
  · exact .offerAgain (.onRecord (m.setChan _ _) _ _) _
  · exact (m.setChan _ _).reportPush _ _

theorem Moved.ackBlock (ch : ChanIx) : Moved s (t.ackBlock ch) := by
  unfold State.ackBlock
  dsimp only
  split
  · exact .reportPush (.onRecord m _ _) _ _
  · exact .runFill (.setChan (.onRecord m _ _) _ _) _ _

theorem Moved.deliver (ch : ChanIx) (data : Word) : Moved s (t.deliver ch data) := by
  unfold State.deliver
  dsimp only
  split
  · split
    · exact m.reportPush _ _
    · split
      · exact (m.setChan _ _).scanGood _
      · exact (m.setChan _ _).placeRead _
  · exact m.runFill _ _

theorem Moved.resume (ch : ChanIx) : Moved s (t.resume ch) := by
  unfold State.resume
  split
  · exact m
  · exact m
  · exact m.placeRead _
  all_goals exact m.runFill _ _

theorem Moved.restartChannel (ch : ChanIx) : Moved s (t.restartChannel ch) := by
  have voided : ∀ n u, Moved s u → Moved s (u.voidIdent n) := fun n u h => h.same
  unfold State.restartChannel
  dsimp only
  refine .startScan (.dropRead (.onRecord ?_ _ _) _) _
  split
  · exact voided _ _ m.same
  · exact m.same

end

/-- The record at the head of the profile-wait queue is active (R81), so a channel may go to it. -/
theorem State.grantWaiting_moved (h : Lawful s) (ch : ChanIx) : Moved s (s.grantWaiting ch) := by
  unfold State.grantWaiting
  split
  · exact .refl s
  · next i rest hw =>
    have ha : (s.record i).state.Active := h.waiting i (by simp [hw])
    have hrest : Moved s { s with pex := { s.pex with waiting := rest } } :=
      ⟨rfl, fun _ => rfl, fun _ => .inl rfl, fun _ => .inl, fun k hk => .inl (by rw [hw]; exact List.mem_cons_of_mem _ hk), rfl⟩
    exact (hrest.enter i .profiling .channel ha.engaged (.inl rfl)).grantChannel _ _

theorem State.imageTouched_moved (s : State) (w : WinWord) (be : Enables) : Moved s (s.imageTouched w be) :=
  Moved.foldl _ (fun t ch => by split; exacts [(Moved.refl t).restartChannel ch, .refl t]) _ s

/-! ### Abandonment, release and settling -/

theorem State.abandonWork_moved (h : Lawful s) (i : RecIx) : Moved s (s.abandonWork i) := by
  obtain ⟨w, hi, hc, hu, -⟩ := s.abandonWork_spec i
  obtain ⟨-, -, hpct, -, -⟩ := w.kept
  obtain ⟨hrec, hwait⟩ := abandoned_others w (fun k hk => (waitingWithout_active h i k hk).2)
  refine ⟨hpct, fun k => ?_, fun k => ?_, fun e he => .inl ?_, fun k hk => .inl (List.mem_of_mem_filter (hwait k hk)), hu⟩
  · by_cases e : k = i
    · rw [e, hi]
    · exact (hrec k e).1
  · by_cases e : k = i
    · rw [e, hi]; exact .inl rfl
    · exact (hrec k e).2.imp_right (fun a => ⟨a.1.engaged, a.2⟩)
  · rw [hc] at he; exact List.mem_of_mem_filter he

theorem State.release_lawful (h : Lawful s) {i : RecIx} (ha : (s.record i).state.Active) (d : RelDest) (why : ChangeReason)
    (f : Option FailReason) : Lawful (s.release i d why f) :=
  released_lawful (s.release_spec i d why f ha.ne_releasing) h ha

theorem State.fail_lawful (h : Lawful s) {i : RecIx} (ha : (s.record i).state.Active) (f : FailReason) : Lawful (s.fail i f) :=
  State.release_lawful h ha _ _ _

theorem State.enterSettling_moved {i : RecIx} (ha : (s.record i).state.Engaged) (why : ChangeReason) : Moved s (s.enterSettling i why) := by
  unfold State.enterSettling
  exact .appendReply (.setSettle (.enter (.onRecord (.refl s) _ _) _ _ _ (by rw [State.record_onRecord_same]; exact ha) (.inl rfl)) _ _) _ _

/-! ### Intents -/

/-- A record that is neither active nor RELEASING, in an overlay state, stands on no list that moves records. -/
theorem not_urgent_of_state (h : Lawful s) {i : RecIx} (hi : (s.record i).state ≠ .releasing) : i ∉ s.dsq.urgent :=
  fun hm => hi (h.urgent i hm)

/-- A record that is on no list has its fields changed and enters a state: one that is not live, or its serial is held by no other live
record. -/
theorem State.onRecord_enter_lawful (h : Lawful s) (ho : s.pct.port.overlay = true) {i : RecIx} (ha : ¬(s.record i).state.Active)
    (hi : i ∉ s.dsq.urgent) (f : Record → Record) {st : ActState} (why : ChangeReason)
    (hl : st.live = true → ∀ k, k ≠ i → (s.record k).state.live = true → (s.record k).serial ≠ (f (s.record i)).serial) :
    Lawful ((s.onRecord i f).enter i st why) := by
  refine lawful_of_replaced h (r := (f (s.record i)).moveTo st s.ltu.cycle) (fun k => ?_) (by simp) (by simp) (by simp) (by simp) (.inl ho)
    ha hi hl
  rw [(State.enter_spec _ i st why).1, State.record_onRecord_same, State.record_onRecord]
  split <;> rfl

/-- A record enters a state that is not live, from one that is neither active nor RELEASING. -/
theorem State.enter_lawful (h : Lawful s) (ho : s.pct.port.overlay = true) {i : RecIx} (ha : ¬(s.record i).state.Active)
    (hr : (s.record i).state ≠ .releasing) {st : ActState} (hst : st.live = false) (why : ChangeReason) : Lawful (s.enter i st why) :=
  lawful_of_replaced h (s.enter_spec i st why).1 (by simp) (by simp) (by simp) (by simp) (.inl ho) ha (not_urgent_of_state h hr)
    (fun hl => by simp [Record.moveTo, hst] at hl)

theorem State.record_raise (s : State) (e : Raise) (k : RecIx) : (s.raise e).record k = s.record k :=
  State.record_congr s (by simp) k

theorem State.record_raiseRecord (s : State) (i : RecIx) (why : ChangeReason) (k : RecIx) : (s.raiseRecord i why).record k = s.record k :=
  State.record_congr s (by simp) k

theorem State.enterEmpty_lawful (h : Lawful s) (ho : s.pct.port.overlay = true) {i : RecIx} (ha : ¬(s.record i).state.Active)
    (hi : i ∉ s.dsq.urgent) (why : ChangeReason) : Lawful (s.enterEmpty i why) :=
  lawful_of_replaced h (fun k => (State.record_raiseRecord _ i why k).trans (State.record_onRecord s i k _)) (by simp) (by simp) (by simp)
    (by simp) (.inl ho) ha hi nofun

/-- No live record holds the serial (R9). -/
theorem State.liveHolder_none {x : Serial} : s.liveHolder x = none ↔ ∀ k, (s.record k).state.live = true → (s.record k).serial ≠ x := by
  simp [State.liveHolder, List.find?_eq_none, allRecords]

theorem State.admission_lawful (h : Lawful s) (ho : s.pct.port.overlay = true) {i : RecIx} (ha : ¬(s.record i).state.Active)
    (hr : (s.record i).state ≠ .releasing) : Lawful (s.admission i) := by
  unfold State.admission
  split
  · exact Moved.lawful .of_same h
  · next hn =>
    have admitted : Lawful ((s.onRecord i Record.clearActivation).enter i .awaiting .intent) :=
      State.onRecord_enter_lawful h ho ha (not_urgent_of_state h hr) _ _ (fun _ k _ => State.liveHolder_none.1 hn k)
    dsimp only
    split
    · exact Moved.lawful .of_same admitted
    · exact Moved.lawful .of_same admitted

theorem State.redirect_lawful (h : Lawful s) (i : RecIx) (d : RelDest) : Lawful (s.redirect i d) := ((Moved.refl s).onRecord i _).lawful h

theorem State.actAdmit_lawful (h : Lawful s) (ho : s.pct.port.overlay = true) (i : RecIx) : Lawful (s.actAdmit i) := by
  unfold State.actAdmit
  split
  case h_1 e | h_2 e | h_3 e => exact State.admission_lawful h ho (by simp [ActState.Active, e, ActState.inActivation]) (by simp [e])
  case h_4 => exact State.redirect_lawful h i _
  all_goals exact h

theorem State.actHold_lawful (h : Lawful s) (ho : s.pct.port.overlay = true) (i : RecIx) : Lawful (s.actHold i) := by
  unfold State.actHold
  split
  case h_1 e | h_2 e | h_3 e => exact State.enter_lawful h ho (by simp [ActState.Active, e, ActState.inActivation]) (by simp [e]) rfl _
  case h_4 => exact h
  case h_5 => exact State.redirect_lawful h i _
  all_goals next e => exact State.release_lawful h (by simp [ActState.Active, e, ActState.inActivation]) _ _ _

theorem State.actVacant_lawful (h : Lawful s) (ho : s.pct.port.overlay = true) (i : RecIx) : Lawful (s.actVacant i) := by
  unfold State.actVacant
  split
  case h_1 => exact h
  case h_2 e | h_3 e | h_4 e =>
    exact State.enterEmpty_lawful h ho (by simp [ActState.Active, e, ActState.inActivation]) (not_urgent_of_state h (by simp [e])) _
  case h_5 => exact State.redirect_lawful h i _
  all_goals next e => exact State.release_lawful h (by simp [ActState.Active, e, ActState.inActivation]) _ _ _

theorem State.actIntent_lawful (h : Lawful s) (ho : s.pct.port.overlay = true) (i : RecIx) : Lawful (s.actIntent i) := by
  unfold State.actIntent
  split
  · exact State.actVacant_lawful h ho i
  · split
    · exact State.actAdmit_lawful h ho i
    · split
      · exact State.actHold_lawful h ho i
      · exact State.actHold_lawful (Moved.lawful (t := s.discard _ _ _) .of_same h) (by simpa using ho) i

theorem State.actAllIntents_lawful (h : Lawful s) (ho : s.pct.port.overlay = true) : Lawful s.actAllIntents := by
  have fold : ∀ (l : List RecIx) (t : State), Lawful t → t.pct.port.overlay = true → Lawful (l.foldl (fun t i => t.actIntent i) t) := by
    intro l
    induction l with
    | nil => exact fun t h _ => h
    | cons i l ih => exact fun t h ho => ih _ (State.actIntent_lawful h ho i) (by simpa using ho)
  exact fold allRecords s h ho

end Sys2Proof.Machine
end

section
set_option Elab.async false
/-! The law of serial numbers, command by command. -/

namespace Sys2Proof.Machine

open Sys2Proof.Safety

variable {s : State}

/-! ### HELLOs and outcomes -/

/-- A record that is in activation joins the control list. -/
theorem Moved.appendControl {t : State} (m : Moved s t) (i : RecIx) (k : ControlKind) (h : (t.record i).state.Active) :
    Moved s (t.appendControl i k) := by
  refine m.trans ⟨rfl, fun _ => rfl, fun _ => .inl rfl, fun e he => ?_, fun _ => .inl, rfl⟩
  rcases List.mem_append.1 he with he | he
  · exact .inl he
  · rw [List.mem_singleton] at he
    exact .inr (he ▸ h)

/-- A record goes on to an active state and joins the control list. -/
theorem Moved.enterControl {t : State} (m : Moved s t) (i : RecIx) (st : ActState) (why : ChangeReason) (k : ControlKind)
    (h : (t.record i).state.Engaged) (hst : st.Active) : Moved s ((t.enter i st why).appendControl i k) :=
  (m.enter i st why h hst).appendControl i k (by rw [(State.enter_spec _ _ _ _).1, if_pos rfl]; exact hst)

theorem State.reappear_moved (h : Lawful s) {i : RecIx} (he : (s.record i).state.Engaged) (conv : Conv) (resp : Nat) :
    Moved s (s.reappear i conv resp) := by
  have m : Moved s (s.abandonWork i) := State.abandonWork_moved h i
  obtain ⟨-, hi, -, -, -⟩ := s.abandonWork_spec i
  refine .enterControl (.onRecord (m.same (u := (s.abandonWork i).raise _)) _ _) _ _ _ _ ?_ (.inl rfl)
  rw [State.record_onRecord_same, State.record_raise, hi]
  exact he

theorem State.helloLive_moved (h : Lawful s) (i : RecIx) (conv : Conv) (resp : Nat) : Moved s (s.helloLive i conv resp) := by
  have m : Moved s (s.onRecord i (fun r => r.sighted s.ltu.cycle)) := (Moved.refl s).onRecord i _
  have again : (s.record i).state.Engaged → Moved s ((s.onRecord i (fun r => r.sighted s.ltu.cycle)).reappear i conv resp) :=
    fun he => m.trans (State.reappear_moved (m.lawful h) (by rw [State.record_onRecord_same]; exact he) conv resp)
  unfold State.helloLive
  dsimp only
  split
  case h_1 e =>
    refine .enterControl (m.onRecord i _) i _ _ _ ?_ (.inl rfl)
    rw [State.record_onRecord_same, State.record_onRecord_same]
    show (s.record i).state.Engaged
    rw [e]
    exact ⟨rfl, nofun⟩
  case h_2 e =>
    split
    · exact again (by rw [e]; exact ⟨rfl, nofun⟩)
    · exact m
  case h_3 | h_10 | h_11 | h_12 => exact m
  all_goals next e => exact again (by rw [e]; exact ⟨rfl, nofun⟩)

theorem State.matchHello_moved (h : Lawful s) (x : Serial) (conv : Conv) (resp : Nat) : Moved s (s.matchHello x conv resp) := by
  unfold State.matchHello
  split
  · exact State.helloLive_moved h _ conv resp
  · split
    · exact .parkSerial (.onRecord (.refl s) _ _) _
    · exact .of_same

theorem State.handleHello_lawful (h : Lawful s) (c : Capture) : Lawful (s.handleHello c) := by
  unfold State.handleHello
  split
  · split
    · unfold State.helloInWindow
      dsimp only
      split
      · exact Moved.lawful .of_same h
      · split
        · exact Moved.lawful .of_same h
        · refine (State.matchHello_moved ?_ _ _ _).lawful ?_ <;> split <;> exact Moved.lawful .of_same h
    · exact h
  · exact h
  · exact h

theorem State.countAttempt_lawful (h : Lawful s) {i : RecIx} (ha : (s.record i).state.Active) (why : ChangeReason) :
    Lawful (s.countAttempt i why) := by
  unfold State.countAttempt
  dsimp only
  have counted := (Moved.refl s).onRecord i (fun r => { r with rangeUsed := min (r.rangeUsed + 1) s.header.rangeLimit.toNat })
  split
  · refine Moved.lawful (.enter (.joinRanging (.setSettle (.leaveRanging counted _) _ _) _) i .assigned why ?_ (.inl rfl)) h
    simpa using ha.engaged
  · refine State.fail_lawful (counted.lawful h) ?_ _
    simpa using ha

theorem State.applyRanging_lawful (h : Lawful s) {i : RecIx} (ha : (s.record i).state.Active) (o : RangingOutcome) :
    Lawful (s.applyRanging i o) := by
  unfold State.applyRanging
  split
  · refine Moved.lawful (.enterControl (.onRecord (.leaveRanging (.refl s) _) i _) i _ _ _ ?_ (.inl rfl)) h
    simpa using ha.engaged
  · exact State.countAttempt_lawful h ha _
  · exact State.fail_lawful h ha _

theorem State.applySettle_lawful (h : Lawful s) {i : RecIx} (ha : (s.record i).state.Active) (x : Settle) (o : SettleOutcome) :
    Lawful (s.applySettle i x o) := by
  unfold State.applySettle
  split
  · exact State.fail_lawful h ha _
  · refine Moved.lawful (.appendControl (.setSettle (.onRecord (.refl s) i _) i _) i _ ?_) h
    simpa using ha
  · refine Moved.lawful (.enterControl (.setSettle (.onRecord (.refl s) i _) i _) i _ _ _ ?_ (.inl rfl)) h
    simpa using ha.engaged
  · exact State.countAttempt_lawful (((Moved.refl s).onRecord i _).lawful h) (by rw [State.record_onRecord_same]; exact ha) _

theorem State.record_freeChannel (s : State) (ch : ChanIx) (i : RecIx) : (s.freeChannel ch).record i = s.record i := by
  rw [State.freeChannel_eq]; rfl

theorem State.applyPush_lawful (h : Lawful s) {i : RecIx} (ha : (s.record i).state.Active) (ch : ChanIx) (o : PushOutcome) :
    Lawful (s.applyPush i ch o) := by
  unfold State.applyPush
  split
  · have m : Moved s ((s.onRecord i (fun r => { r with profileDelivered := true })).freeChannel ch) :=
      ((Moved.refl s).onRecord i _).freeChannel ch
    have settling := m.trans (State.enterSettling_moved (i := i)
      (by rw [State.record_freeChannel, State.record_onRecord_same]; exact ha.engaged) .profileDone)
    exact (State.grantWaiting_moved (settling.lawful h) ch).lawful (settling.lawful h)
  · exact State.fail_lawful h ha _
  · exact State.fail_lawful h ha _

/-! ### Captures and line time -/

theorem Moved.askAgain {t : State} (m : Moved s t) (i : RecIx) (x : Settle) : Moved s (t.askAgain i x) :=
  (m.setSettle _ _).appendReply _ _

theorem State.handleSettle_moved (s : State) (c : Capture) : Moved s (s.handleSettle c) := by
  have voided : ∀ n, Moved s (s.voidIdent n) := fun n => .of_same
  unfold State.handleSettle
  split
  · exact .of_same
  · split
    · split
      · split
        · exact .refl s
        · unfold State.settleReply
          dsimp only
          split
          · exact .of_same
          · split
            · exact .of_same
            · exact (voided _).askAgain _ _
      all_goals exact .refl s
    · exact .refl s

theorem State.handleBlockReply_moved (s : State) (c : Capture) : Moved s (s.handleBlockReply c) := by
  have voided : ∀ n, Moved s (s.voidIdent n) := fun n => .of_same
  unfold State.handleBlockReply
  split
  · exact .of_same
  · split
    · exact .of_same
    · split
      · exact .refl s
      · split
        · exact .of_same
        · split
          · exact (voided _).negativeOutcome _
          · exact (voided _).ackBlock _

theorem State.slotUnanswered_moved (s : State) (e : Slot) : Moved s (s.slotUnanswered e) := by
  unfold State.slotUnanswered
  split
  · exact .of_same
  · have freed : ∀ id, Moved s ((s.disarmFor id).freeSlot e.ct e.j) := fun id => .of_same
    dsimp only
    split
    · split
      · unfold State.settleMiss
        split
        · exact freed _
        · dsimp only
          split
          · exact (freed _).askAgain _ _
          · exact .of_same
      · exact freed _
    · split
      · exact (freed _).negativeOutcome _
      · exact freed _

theorem Moved.ask {t : State} (m : Moved s t) (p : Purpose) (n : Nat) : Moved s (t.ask p n) := m.same

theorem State.grantRanging_moved {i : RecIx} (he : (s.record i).state.Engaged) : Moved s (s.grantRanging i) := by
  have started : ∀ g, Moved s { s with rgu := g } := fun _ => .of_same rfl rfl rfl rfl rfl
  refine .ask (.moveQuietly (started _) i .ranging ?_ (.inl rfl)) _ _
  exact he

theorem State.arbitrate_moved (s : State) : Moved s s.arbitrate := by
  have discovery : Moved s s.grantDiscovery := .of_same
  unfold State.arbitrate
  split
  · split
    · next i hi =>
      have he : (s.record i).state.Engaged := by
        unfold State.rangingDemand at hi
        split at hi
        · cases hi
        · split at hi
          · next ha => cases hi; rw [ha.1]; exact ⟨rfl, nofun⟩
          · cases hi
      split
      · split
        · exact discovery
        · exact (Moved.of_same (t := s.deferDiscovery)).trans (State.grantRanging_moved he)
      · exact State.grantRanging_moved he
    · split
      · exact discovery
      · exact .refl s
  · exact .refl s

theorem State.requeueAsks_moved (s : State) : Moved s s.requeueAsks :=
  Moved.foldl _ (fun t i => by
    split
    · split
      · exact (Moved.refl t).askAgain _ _
      all_goals exact .refl t
    · exact .refl t) _ s

theorem State.requeueBlocks_moved (s : State) : Moved s s.requeueBlocks :=
  Moved.foldl _ (fun t ch => by
    split
    · exact (Moved.refl t).offerAgain _
    · exact .refl t) _ s

theorem State.endQuiet_moved (s : State) : Moved s s.endQuiet := by
  obtain ⟨-, -, hd, -, -⟩ := s.endQuiet_spec
  exact .of_same (hc := by rw [hd]) (hu := by rw [hd])

theorem Moved.dropTimeline {t : State} (m : Moved s t) : Moved s t.dropTimeline := by
  have abandoned : Moved s t.endQuiet.abandonRound := (m.trans (State.endQuiet_moved t)).same
  exact abandoned.abandonAttempt.same rfl rfl rfl rfl rfl

theorem State.advanceQuiet_moved (s : State) : Moved s s.advanceQuiet := by
  unfold State.advanceQuiet
  split
  · exact .of_same
  · split
    · exact .askEnded .of_same _
    · exact .refl _
  · exact .refl _
  · exact State.arbitrate_moved _

theorem State.slip_moved (s : State) : Moved s s.slip := by
  have m : Moved s (s.raiseLine .slip) := .of_same
  exact (m.dropTimeline.trans (State.requeueAsks_moved _)).trans (State.requeueBlocks_moved _)

theorem State.cycleStart_moved (s : State) (c : Cycle) : Moved s (s.cycleStart c) := by
  have m : Moved s (s.startCycle c).presentDemand := .of_same
  unfold State.cycleStart
  dsimp only
  split
  · exact m.followInterrupt
  · split
    · exact .followInterrupt ((m.same (u := State.advanceMap _)).trans (State.advanceQuiet_moved _))
    · exact .followInterrupt (m.trans (State.slip_moved _))

theorem State.lineFalls_lawful (h : Lawful s) : Lawful s.lineFalls := by
  unfold State.lineFalls
  split
  · exact State.portReturn_lawful (Moved.lawful (.dropTimeline .of_same) h)
  · exact h

theorem State.takeGive_moved (s : State) (cq : Cycle) : Moved s (s.takeGive cq) := by
  unfold State.takeGive
  split
  · split
    · unfold State.windowGiven
      split
      all_goals split
      all_goals exact .of_same rfl rfl rfl rfl rfl
    · exact .askEnded .of_same _
  all_goals exact .of_same

theorem State.takeDeny_moved (s : State) : Moved s s.takeDeny := by
  unfold State.takeDeny
  split
  · exact .askEnded .of_same _
  all_goals exact .of_same

theorem State.takeRevoke_moved (s : State) : Moved s s.takeRevoke := by
  unfold State.takeRevoke
  split
  · exact .askEnded .of_same _
  all_goals exact .of_same

theorem State.timeOutAsk_moved (s : State) : Moved s s.timeOutAsk := by
  unfold State.timeOutAsk
  split
  · split
    · exact .askEnded .of_same _
    · exact .refl s
  all_goals exact .refl s

theorem State.feed_moved (ps : List HuntPhase) (xs : List Sample) : ∀ s, Moved s (State.feed ps xs s) := by
  induction xs with
  | nil => exact Moved.refl
  | cons x xs ih =>
    intro s
    unfold State.feed
    split
    · exact (Moved.of_same (t := s.laneSample x)).trans (ih _)
    · exact .refl s

end Sys2Proof.Machine
end

section
set_option Elab.async false
/-! The law of serial numbers: messages taken, the port, the load, the bus, and the step. -/

namespace Sys2Proof.Machine

open Sys2Proof.Safety

variable {s : State}

/-! ### Messages taken -/

theorem Moved.raiseRecord {t : State} (m : Moved s t) (i : RecIx) (why : ChangeReason) : Moved s (t.raiseRecord i why) := m.same


/-- The head of the urgent list, a RELEASING record that the list names once, leaves it for its destination (R13). -/
theorem State.releaseTaken_lawful (h : Lawful s) (ho : s.pct.port.overlay = true) {i : RecIx} {rest : List RecIx}
    (hu : s.dsq.urgent = i :: rest) : Lawful (s.releaseTaken i) := by
  have hi : (s.record i).state = .releasing := h.urgent i (by simp [hu])
  obtain ⟨hnot, honce⟩ := List.nodup_cons.1 (hu ▸ h.once)
  have hs1 : Lawful { s with dsq := { s.dsq with urgent := s.dsq.urgent.drop 1 } } := by
    refine ⟨h.distinct, h.vacant, h.loaded, h.control, h.waiting, fun k hk => h.urgent k (List.mem_of_mem_drop hk), ?_⟩
    show (s.dsq.urgent.drop 1).Nodup
    rw [hu]
    exact honce
  have hin : i ∉ ({ s with dsq := { s.dsq with urgent := s.dsq.urgent.drop 1 } } : State).dsq.urgent := by
    show i ∉ s.dsq.urgent.drop 1
    rw [hu]
    exact hnot
  have hs1i : (({ s with dsq := { s.dsq with urgent := s.dsq.urgent.drop 1 } } : State).record i).state = .releasing := hi
  have hna : ¬(ActState.releasing).Active := by simp [ActState.Active, ActState.inActivation]
  have others : ∀ k, k ≠ i → (s.record k).state.live = true → (s.record k).serial ≠ (s.record i).serial :=
    fun k hk hl e => hk (h.distinct k i hl (by rw [hi]; rfl) e)
  unfold State.releaseTaken
  dsimp only
  split
  · exact State.enterEmpty_lawful hs1 ho (hs1i ▸ hna) hin _
  · exact State.onRecord_enter_lawful hs1 ho (hs1i ▸ hna) hin _ _ nofun
  · exact State.onRecord_enter_lawful hs1 ho (hs1i ▸ hna) hin _ _ nofun
  · exact State.onRecord_enter_lawful hs1 ho (hs1i ▸ hna) hin _ _ (fun _ => others)
  · exact State.onRecord_enter_lawful hs1 ho (hs1i ▸ hna) hin _ _ nofun

/-- A control message is of an active record, which goes on from state to state (R15, R18, R21). -/
theorem State.controlTaken_moved (h : Lawful s) {e : ControlEntry} {rest : List ControlEntry} (hc : s.dsq.control = e :: rest) :
    Moved s (s.controlTaken e) := by
  have ha : (s.record e.index).state.Active := h.control e (by simp [hc])
  have m : Moved s { s with dsq := { s.dsq with control := s.dsq.control.drop 1 } } :=
    ⟨rfl, fun _ => rfl, fun _ => .inl rfl, fun x hx => .inl (List.mem_of_mem_drop hx), fun _ => .inl, rfl⟩
  have ha1 : (({ s with dsq := { s.dsq with control := s.dsq.control.drop 1 } } : State).record e.index).state.Active := ha
  unfold State.controlTaken
  dsimp only
  generalize ({ s with dsq := { s.dsq with control := s.dsq.control.drop 1 } } : State) = s1 at m ha1 ⊢
  split
  · exact .raiseRecord (.joinRanging (.onRecord m _ _) _) _ _
  · unfold State.equalizeTaken
    split
    · split
      · exact .grantChannel (.enter m _ _ _ ha1.engaged (.inl rfl)) _ _
      · refine .same (m.trans (u := { s1 with pex := { s1.pex with waiting := s1.pex.waiting ++ [e.index] } })
          ⟨rfl, fun _ => rfl, fun _ => .inl rfl, fun _ => .inl, fun k hk => ?_, rfl⟩)
        rcases List.mem_append.1 hk with hk | hk
        · exact .inl hk
        · rw [List.mem_singleton] at hk
          exact .inr (hk ▸ ha1)
    · exact m.trans (State.enterSettling_moved ha1.engaged _)
  · exact (m.setSettle _ _).appendReply _ _
  · exact m.enter _ _ _ ha1.engaged (.inr rfl)

theorem State.windowTaken_moved (s : State) (m : BoundMessage) : Moved s (s.windowTaken m) := by
  have hd : (s.windowTaken m).dsq = s.emptyWindowSlot.dsq := by
    unfold State.windowTaken
    dsimp only
    split <;> split <;> simp
  exact .of_same (hc := by rw [hd]; rfl) (hu := by rw [hd]; rfl)

theorem State.replyTaken_moved (s : State) (c : Cycle) (e : ReplyEntry) (o : Owner) (d j : Nat) : Moved s (s.replyTaken c e o d j) := by
  have booked : Moved s (State.book { s with dsq := { s.dsq with reply := s.dsq.reply.erase e } } (c + BitVec.ofNat 32 d) j e.index o) :=
    .of_same rfl rfl rfl rfl rfl
  unfold State.replyTaken
  dsimp only
  split
  · exact booked.setSettle _ _
  · exact booked.setChan _ _

/-- A RELEASE is chosen in the overlay states alone, and is the head of the urgent list (R130, R131). -/
theorem State.choose_release {c : Cycle} {i : RecIx} (h : s.choose c = .release i) :
    s.pct.port.overlay = true ∧ ∃ rest, s.dsq.urgent = i :: rest := by
  have reply : s.chooseReply c ≠ .release i := by unfold State.chooseReply; split <;> nofun
  have lists : s.chooseLists c = .release i → ∃ rest, s.dsq.urgent = i :: rest := by
    unfold State.chooseLists
    split
    · next hu => intro e; cases e; exact ⟨_, hu⟩
    · split
      · nofun
      · split
        · nofun
        · exact fun e => absurd e reply
  have urgent : s.chooseUrgent = .release i → ∃ rest, s.dsq.urgent = i :: rest := by
    unfold State.chooseUrgent
    split
    · next hu => intro e; cases e; exact ⟨_, hu⟩
    · nofun
  unfold State.choose at h
  split at h
  · cases h
  · split at h
    · next hp =>
      refine ⟨by rw [hp]; rfl, lists ?_⟩
      unfold State.chooseAll at h
      split at h
      · split at h
        · cases h
        · exact h
      · exact h
    · next hp => exact ⟨by rw [hp]; rfl, urgent h⟩
    · next hp => exact ⟨by rw [hp]; rfl, urgent h⟩
    all_goals cases h

/-- A control message is chosen at the head of the control list (R131). -/
theorem State.choose_control {c : Cycle} {e : ControlEntry} (h : s.choose c = .control e) : ∃ rest, s.dsq.control = e :: rest := by
  have reply : s.chooseReply c ≠ .control e := by unfold State.chooseReply; split <;> nofun
  have urgent : s.chooseUrgent ≠ .control e := by unfold State.chooseUrgent; split <;> nofun
  have lists : s.chooseLists c = .control e → ∃ rest, s.dsq.control = e :: rest := by
    unfold State.chooseLists
    split
    · nofun
    · split
      · next hc => intro x; cases x; exact ⟨_, hc⟩
      · split
        · nofun
        · exact fun x => absurd x reply
  unfold State.choose at h
  split at h
  · cases h
  · split at h
    · refine lists ?_
      unfold State.chooseAll at h
      split at h
      · split at h
        · cases h
        · exact h
      · exact h
    · exact absurd h urgent
    · exact absurd h urgent
    all_goals cases h

theorem State.takeChoice_lawful (h : Lawful s) {c : Cycle} {x : Choice} (hx : s.choose c = x) : Lawful (s.takeChoice c x) := by
  unfold State.takeChoice
  split
  · exact h
  · exact (State.windowTaken_moved s _).lawful h
  · obtain ⟨ho, rest, hu⟩ := State.choose_release hx
    exact State.releaseTaken_lawful h ho hu
  · obtain ⟨rest, hc⟩ := State.choose_control hx
    exact (State.controlTaken_moved h hc).lawful h
  · exact Moved.lawful .of_same h
  · exact (State.replyTaken_moved s _ _ _ _ _).lawful h

theorem State.takeFetch_lawful (h : Lawful s) (c : Cycle) : Lawful (s.takeFetch c) := by
  have recorded : Lawful (s.recordFetch c) := Moved.lawful .of_same h
  unfold State.takeFetch
  dsimp only
  split
  · exact Moved.lawful .of_same (State.takeChoice_lawful recorded (c := c) rfl)
  · exact Moved.lawful .of_same recorded

/-! ### The port -/

theorem State.enterPort_pct (s : State) (p : PortState) : (s.enterPort p).pct = { s.pct with port := p } := by
  simp [State.enterPort]

theorem State.enterPort_lawful (h : Lawful s) (ho : s.pct.port.overlay = true) {p : PortState} (hp : p.overlay = true) :
    Lawful (s.enterPort p) :=
  lawful_of_port h (by simp) (by simp) (by simp) (.inl (by rw [State.enterPort_pct]; exact hp))
    (fun _ => by rw [State.enterPort_pct]; exact h.loaded ho)

theorem State.enterConfig_lawful (h : Lawful s) (hl : s.pct.load = none) : Lawful s.enterConfig := by
  have hpct : s.enterConfig.pct = { s.pct with port := .config } := State.enterPort_pct _ _
  exact lawful_of_port h (by simp) (by simp) (by simp) (.inl (by rw [hpct]; rfl)) (fun _ => by rw [hpct]; exact hl)

theorem State.halt_lawful (h : Lawful s) (ho : s.pct.port.overlay = true) : Lawful s.halt :=
  State.portReturn_lawful (State.enterPort_lawful h ho rfl)

theorem State.startDraining_lawful (h : Lawful s) (ho : s.pct.port.overlay = true) : Lawful s.startDraining := by
  have hd : Lawful ((s.enterPort .draining).portReturn) := State.portReturn_lawful (State.enterPort_lawful h ho rfl)
  unfold State.startDraining
  dsimp only
  split
  · exact State.enterConfig_lawful hd (by simp [State.enterPort_pct, h.loaded ho])
  · exact hd

theorem State.refuseRun_lawful (h : Lawful s) (ho : s.pct.port.overlay = true) (r : RefusalCode) : Lawful (s.refuseRun r) :=
  lawful_of_port h (by simp) (by simp) (by simp) (.inl (by simpa [State.refuseRun, State.setRefusal] using ho))
    (fun _ => by simpa [State.refuseRun, State.setRefusal] using h.loaded ho)

/-- Entry into RUNNING with the counters, the settings or the Discovery Unit prepared; the intents are acted on last. -/
theorem State.running_lawful {t : State} (h : Lawful s) (ho : s.pct.port.overlay = true) (hr : t.records = s.records)
    (hd : t.dsq = s.dsq) (hx : t.pex = s.pex) (hp : t.pct.port = .running) (hl : t.pct.load = s.pct.load) : Lawful t.actAllIntents := by
  have hto : t.pct.port.overlay = true := by rw [hp]; rfl
  exact State.actAllIntents_lawful (lawful_of_port h hr hd hx (.inl hto) (fun _ => hl.trans (h.loaded ho))) hto

theorem State.validateRun_lawful (h : Lawful s) (ho : s.pct.port.overlay = true) : Lawful s.validateRun := by
  unfold State.validateRun
  split
  · exact State.refuseRun_lawful h ho _
  · split
    · exact State.refuseRun_lawful h ho _
    · unfold State.runFromConfig
      exact State.running_lawful h ho (by simp) (by simp) (by simp) (by simp [State.enterPort_pct])
        (by simp [State.enterPort_pct, State.setRefusal])

theorem State.runFromDraining_lawful (h : Lawful s) (ho : s.pct.port.overlay = true) : Lawful s.runFromDraining :=
  State.running_lawful h ho (by simp) (by simp) (by simp) (by simp [State.enterPort_pct]) (by simp [State.enterPort_pct])

theorem State.actPortIntent_lawful (h : Lawful s) (ho : s.pct.port.overlay = true) : Lawful s.actPortIntent := by
  unfold State.actPortIntent
  split
  · unfold State.actConfig
    split
    · exact State.startDraining_lawful h ho
    · exact State.enterConfig_lawful h (h.loaded ho)
    all_goals exact h
  · split
    · unfold State.actRun
      split
      · exact State.validateRun_lawful h ho
      · exact State.runFromDraining_lawful h ho
      all_goals exact h
    · unfold State.actHalt
      split
      case h_1 | h_2 | h_3 => exact State.halt_lawful h ho
      all_goals exact h

/-! ### The load and the bus -/

/-- A header word stored changes no field of a record but the attempts used, which a lowered RangeLimit may lower (R17). -/
theorem State.storeHeader_record (s : State) (w : Nat) (data : Word) (be : Enables) (k : RecIx) :
    ∃ n, (s.storeHeader w data be).record k = { s.record k with rangeUsed := n } := by
  unfold State.storeHeader
  split
  · exact ⟨_, by split <;> rfl⟩
  · dsimp only
    split
    · exact ⟨min (s.record k).rangeUsed (s.header.store w data be).rangeLimit.toNat, by simp [State.record, State.lowerRangeUsed]⟩
    · exact ⟨_, rfl⟩

theorem State.storeHeader_moved (s : State) (w : Nat) (data : Word) (be : Enables) : Moved s (s.storeHeader w data be) where
  pct := by simp
  serial k := by obtain ⟨n, h⟩ := s.storeHeader_record w data be k; rw [h]
  state k := .inl (by obtain ⟨n, h⟩ := s.storeHeader_record w data be k; rw [h])
  control e he := .inl (by simpa using he)
  waiting i hi := .inl (by simpa using hi)
  urgent := by simp

theorem State.storeSetup_state (s : State) (w : Nat) (data : Word) (be : Enables) (k : RecIx) :
    ((s.storeSetup w data be).record k).state = (s.record k).state := by
  unfold State.storeSetup
  split
  · obtain ⟨n, h⟩ := s.storeHeader_record w data be k
    rw [h]
  · split
    · rfl
    · rw [State.record_onRecord]
      split
      · next e => rw [Record.store_state, e]
      · rfl

theorem State.storeSetup_waiting (s : State) (w : Nat) (data : Word) (be : Enables) :
    (s.storeSetup w data be).pex.waiting = s.pex.waiting := by
  unfold State.storeSetup
  split
  · simp
  · split <;> rfl

/-- Setup words are stored in the copies with no intent acted on outside the overlay states alone, where every record is EMPTY (R160). -/
theorem State.storeSetup_lawful (h : Lawful s) (hv : s.pct.port.overlay = false) (w : Nat) (data : Word) (be : Enables) :
    Lawful (s.storeSetup w data be) :=
  lawful_of_vacant h hv (s.storeSetup_state w data be) (by simp) (s.storeSetup_waiting w data be) (fun ho => by simp [hv] at ho)

theorem State.loadServed_lawful (h : Lawful s) (data : Word) : Lawful (s.loadServed data) := by
  unfold State.loadServed
  split
  · exact Moved.lawful (s := s) (.of_same rfl rfl rfl rfl rfl) h
  · next n hn =>
    have hv : s.pct.port.overlay = false := by
      by_contra ho
      rw [h.loaded (by simpa using ho)] at hn
      cases hn
    have stored := State.storeSetup_lawful h hv (loadWord n).toNat data 0b1111
    have hpct : (s.storeSetup (loadWord n).toNat data 0b1111).pct = s.pct := by simp
    dsimp only
    generalize s.storeSetup (loadWord n).toNat data 0b1111 = s1 at stored hpct ⊢
    split
    · exact lawful_of_port stored rfl rfl rfl (.inr (hpct ▸ hv)) (fun ho => by
        rw [show (s1.placeLoad (n + 1)).pct.port = s1.pct.port from rfl, hpct, hv] at ho
        cases ho)
    · unfold State.completeLoad
      dsimp only
      have cleared : Lawful { s1 with
          pct := { s1.pct with load := none }, bpt := { s1.bpt with loadRequest := none }
          evw := { s1.evw with producer := s1.evw.consumer, written := [] } } :=
        lawful_of_port stored rfl rfl rfl (.inr (hpct ▸ hv)) (fun _ => rfl)
      exact (Moved.followInterrupt (.refl _)).lawful
        (State.actPortIntent_lawful (State.enterConfig_lawful cleared rfl) (by simp [State.enterConfig, State.enterPort_pct]; rfl))

theorem State.serveChannel_lawful (h : Lawful s) (ch : ChanIx) (r : ReadRequest) : Lawful (s.serveChannel ch r) := by
  have served : Moved s (s.setRequest ch none).servedOne := .of_same
  unfold State.serveChannel
  dsimp only
  split
  · exact (served.resume ch).lawful h
  · exact (served.deliver ch _).lawful h

theorem State.serveLoad_lawful (h : Lawful s) (w : WinWord) : Lawful (s.serveLoad w) :=
  State.loadServed_lawful (Moved.lawful .of_same h) _

theorem State.serveHighest_lawful (h : Lawful s) : Lawful s.serveHighest := by
  unfold State.serveHighest
  split
  · exact Moved.lawful .of_same h
  · split
    · exact State.serveChannel_lawful h _ _
    · split
      · exact State.serveLoad_lawful h _
      · exact h

theorem State.arbiter_lawful (h : Lawful s) : Lawful s.arbiter := by
  unfold State.arbiter
  split
  · exact Moved.lawful (s := s.serveHighest) (.of_same rfl rfl rfl rfl rfl) (State.serveHighest_lawful h)
  · exact Moved.lawful .of_same h

/-! ### Writes -/

/-- A record that is not writable keeps its serial at a write: the intent alone is stored (R3). -/
theorem State.writeRecord_lawful (h : Lawful s) (ho : s.pct.port.overlay = true) (i : RecIx) (k : Nat) (data : Word) (be : Enables) :
    Lawful (s.writeRecord i k data be) := by
  have stored : ∀ kept : Enables, ((s.record i).state.writable = false → kept = be &&& (if k = 0 then 0b0001 else 0)) →
      Lawful (s.onRecord i (fun r => r.store k data kept)) := fun kept hkept => by
    rcases hw : (s.record i).state.writable
    · rw [hkept hw]
      refine Moved.lawful (.onRecord (.refl s) i _ (fun r => ?_) (.inl (Record.store_state _ _ _ _))) h
      split
      · next hk => rw [hk]; rfl
      · simp
    · have hst : ¬(s.record i).state.Active ∧ (s.record i).state ≠ .releasing ∧ (s.record i).state.live = false := by
        cases e : (s.record i).state <;> simp_all [ActState.writable, ActState.Active, ActState.inActivation, ActState.live]
      obtain ⟨ha, hr, hl⟩ := hst
      exact lawful_of_replaced h (s.record_onRecord i · _) rfl rfl rfl rfl (.inl ho) ha (not_urgent_of_state h hr)
        (fun hl' => by rw [Record.store_state, hl] at hl'; cases hl')
  unfold State.writeRecord
  dsimp only
  have kept := stored (if (s.record i).state.writable = true then be else be &&& (if k = 0 then 0b0001 else 0)) (fun hw => by simp [hw])
  generalize (if (s.record i).state.writable = true then be else be &&& (if k = 0 then 0b0001 else 0)) = lanes at kept ⊢
  have offered : Lawful (if lanes = be then s.onRecord i (fun r => r.store k data lanes)
      else (s.onRecord i (fun r => r.store k data lanes)).discard (indexByte i) .state (recordOffset i + 4 * k)) := by
    split
    · exact kept
    · exact Moved.lawful .of_same kept
  split
  · refine State.actIntent_lawful offered ?_ i
    split
    · exact ho
    · simpa using ho
  · exact offered

theorem State.writeHeader_lawful (h : Lawful s) (ho : s.pct.port.overlay = true) (k : Nat) (data : Word) (be : Enables) :
    Lawful (s.writeHeader k data be) := by
  have stored : ∀ k, Lawful (s.storeHeader k data be) := fun k => (s.storeHeader_moved k data be).lawful h
  have discarded : ∀ x why o, Lawful (s.discard x why o) := fun _ _ _ => Moved.lawful .of_same h
  unfold State.writeHeader
  split
  · exact State.actPortIntent_lawful (stored 0) (by simpa using ho)
  · split
    · split
      · exact discarded _ _ _
      · split
        · exact discarded _ _ _
        · exact stored k
    · split
      · split
        · exact discarded _ _ _
        · exact stored k
      · split
        · exact Moved.lawful .of_same h
        · exact (Moved.followInterrupt (.refl _)).lawful (stored k)

theorem State.offerWrite_lawful (h : Lawful s) (ho : s.pct.port.overlay = true) (w : WinWord) (data : Word) (be : Enables) :
    Lawful (s.offerWrite w data be) := by
  unfold State.offerWrite
  dsimp only
  split
  · exact h
  · split
    · split
      · exact h
      · exact State.writeHeader_lawful h ho _ _ _
    · split
      · exact h
      · split
        · split
          · unfold State.writeDirectory
            split
            · exact Moved.lawful .of_same h
            · exact ((Moved.refl s).setDir _ _).lawful h
          · exact h
        · split
          · exact h
          · split
            · split
              · exact State.writeRecord_lawful h ho _ _ _ _
              · exact h
            · split
              · exact h
              · exact (State.imageTouched_moved s w be).lawful h

theorem State.windowWrite_lawful (h : Lawful s) (w : WinWord) (data : Word) (be : Enables) : Lawful (s.windowWrite w data be) := by
  unfold State.windowWrite
  split
  · next ho => exact State.offerWrite_lawful (Moved.lawful (t := s.endSnapshots w) .of_same h) ho w data be
  · next hv =>
    split
    · exact State.storeSetup_lawful h (by simpa using hv) _ _ _
    · exact h

theorem State.busWrite_lawful (h : Lawful s) (a : BusAddr) (data : Word) (be : Enables) : Lawful (s.busWrite a data be) := by
  have written : Lawful (s.sramWrite a data be) := Moved.lawful .of_same h
  unfold State.busWrite
  dsimp only
  split
  · exact State.windowWrite_lawful written _ _ _
  · exact written

theorem State.access_lawful (h : Lawful s) (a : Access) : Lawful (s.access a) := by
  unfold State.access
  split
  · exact Moved.lawful .of_same (State.arbiter_lawful h)
  · exact State.busWrite_lawful (State.arbiter_lawful h) _ _ _

/-! ### The step -/

theorem lawful_reset : Lawful State.reset := by
  have hrec : ∀ k, State.reset.record k = Record.reset := fun k => by simp [State.record, State.reset]
  refine ⟨fun i k hi => ?_, fun _ k => ?_, fun _ => rfl, nofun, nofun, nofun, List.nodup_nil⟩
  · rw [hrec] at hi; cases hi
  · rw [hrec]; rfl

/-- What a command answers, if a next state, is lawful. -/
def KeepsLaw (r : Result) : Prop := ∀ t, r = .next t → Lawful t

theorem keepsLaw_next {t : State} (h : Lawful t) : KeepsLaw (.next t) := fun u hu => by cases hu; exact h

/-- A command that takes effect under a condition alone. -/
theorem keepsLaw_ite {p : Prop} [Decidable p] {t : State} (h : Lawful s) (ht : Lawful t) :
    KeepsLaw (if p then .next t else .next s) := by
  split
  · exact keepsLaw_next ht
  · exact keepsLaw_next h

theorem execHardwareReset_lawful (s : State) : KeepsLaw (execHardwareReset s) :=
  keepsLaw_next (Moved.lawful (s := State.reset) (.of_same rfl rfl rfl rfl rfl) lawful_reset)

theorem execResetRelease_lawful (h : Lawful s) (straps : BitVec 6) : KeepsLaw (execResetRelease straps s) := by
  unfold execResetRelease
  split
  · next hoff => exact keepsLaw_next (lawful_of_port h rfl rfl rfl (.inr (by rw [hoff]; rfl)) nofun)
  · exact keepsLaw_next h

theorem execLoadRead_lawful (h : Lawful s) : KeepsLaw (execLoadRead s) := by
  unfold execLoadRead
  split
  · split
    · exact keepsLaw_next (State.serveLoad_lawful h _)
    · exact keepsLaw_next h
  · exact keepsLaw_next h

theorem execDrainComplete_lawful (h : Lawful s) : KeepsLaw (execDrainComplete s) := by
  unfold execDrainComplete
  split
  · next hd => exact keepsLaw_next (State.enterConfig_lawful h (h.loaded (by rw [hd.1]; rfl)))
  · exact keepsLaw_next h

theorem execEventWordWritten_lawful (h : Lawful s) : KeepsLaw (execEventWordWritten s) := by
  unfold execEventWordWritten
  split
  · exact keepsLaw_next (Moved.lawful .of_same h)
  · exact keepsLaw_next h

theorem execSlotArrivalEnd_lawful (h : Lawful s) (ct : Cycle) (j : Fin 8) : KeepsLaw (execSlotArrivalEnd ct j s) := by
  unfold execSlotArrivalEnd
  split
  · exact keepsLaw_ite h (Moved.lawful .of_same h)
  · exact keepsLaw_next h

theorem execSlotEndReport_lawful (h : Lawful s) (ct : Cycle) (j : Fin 8) : KeepsLaw (execSlotEndReport ct j s) := by
  unfold execSlotEndReport
  split
  · exact keepsLaw_ite h ((State.slotUnanswered_moved s _).lawful h)
  · exact keepsLaw_next h

/-- A capture taken leaves the law, and so does what its owner then does. -/
theorem takeCapture_lawful (h : Lawful s) (c : Capture) : Lawful (s.takeCapture c) := Moved.lawful .of_same h

theorem execHelloTake_lawful (h : Lawful s) : KeepsLaw (execHelloTake s) := by
  unfold execHelloTake
  split
  · exact keepsLaw_next (State.handleHello_lawful (takeCapture_lawful h _) _)
  · exact keepsLaw_next h

theorem execDiscoveryRoundComplete_lawful (h : Lawful s) : KeepsLaw (execDiscoveryRoundComplete s) := by
  unfold execDiscoveryRoundComplete
  split
  · exact keepsLaw_ite h (Moved.lawful .of_same h)
  · exact keepsLaw_next h
  · exact keepsLaw_next h

theorem execEchoTake_lawful (h : Lawful s) : KeepsLaw (execEchoTake s) := by
  unfold execEchoTake
  split
  · exact keepsLaw_ite h (Moved.lawful .of_same h)
  · exact keepsLaw_next h

theorem execAttemptJudge_lawful (h : Lawful s) : KeepsLaw (execAttemptJudge s) := by
  unfold execAttemptJudge
  split
  · exact keepsLaw_ite h (Moved.lawful .of_same h)
  · exact keepsLaw_next h

theorem execSettleReply_lawful (h : Lawful s) : KeepsLaw (execSettleReply s) := by
  unfold execSettleReply
  split
  · exact keepsLaw_ite h ((State.handleSettle_moved _ _).lawful (takeCapture_lawful h _))
  · exact keepsLaw_next h

theorem execBlockReply_lawful (h : Lawful s) : KeepsLaw (execBlockReply s) := by
  unfold execBlockReply
  split
  · exact keepsLaw_next ((State.handleBlockReply_moved _ _).lawful (takeCapture_lawful h _))
  · exact keepsLaw_next h

theorem execImageRead_lawful (h : Lawful s) (ch : ChanIx) : KeepsLaw (execImageRead ch s) := by
  unfold execImageRead
  split
  · split
    · exact keepsLaw_ite h (State.serveChannel_lawful h _ _)
    · exact keepsLaw_next h
  · exact keepsLaw_next h

theorem execRangingOutcome_lawful (h : Lawful s) : KeepsLaw (execRangingOutcome s) := by
  unfold execRangingOutcome
  split
  · next p rest _ =>
    have taken : Lawful { s with rgu := { s.rgu with reports := rest } } := Moved.lawful (s := s) (.of_same rfl rfl rfl rfl rfl) h
    dsimp only
    split
    · next hc =>
      have ha : (s.record p.index).state.Active := by
        simp only [State.rangingCurrent, Bool.and_eq_true, decide_eq_true_eq] at hc
        rw [hc.1]
        exact .inl rfl
      exact keepsLaw_next (State.applyRanging_lawful taken ha _)
    · exact keepsLaw_next taken
  · exact keepsLaw_next h

theorem execSettleOutcome_lawful (h : Lawful s) : KeepsLaw (execSettleOutcome s) := by
  unfold execSettleOutcome
  split
  · next i rest _ =>
    have taken : Lawful { s with rgu := { s.rgu with settleReports := rest } } := Moved.lawful (s := s) (.of_same rfl rfl rfl rfl rfl) h
    dsimp only
    split
    · next hc =>
      have ha : (s.record i).state.Active := by
        unfold State.settleCurrent at hc
        split at hc
        · next e => rw [e]; exact .inl rfl
        · cases hc
      exact keepsLaw_next (State.applySettle_lawful taken ha _ _)
    · exact keepsLaw_next taken
  · exact keepsLaw_next h

theorem execProfileOutcome_lawful (h : Lawful s) : KeepsLaw (execProfileOutcome s) := by
  unfold execProfileOutcome
  split
  · next p rest _ =>
    have taken : Lawful { s with pex := { s.pex with reports := rest } } := Moved.lawful (s := s) (.of_same rfl rfl rfl rfl rfl) h
    dsimp only
    split
    · next hc =>
      have ha : (s.record p.index).state.Active := by
        unfold State.pushCurrent at hc
        split at hc
        · next e => rw [e.1]; exact .inl rfl
        · cases hc
      exact keepsLaw_next (State.applyPush_lawful taken ha _ _)
    · exact keepsLaw_next taken
  · exact keepsLaw_next h

/-- Every command keeps the law. -/
theorem exec_lawful (h : Lawful s) (c : Instr) : KeepsLaw (exec c s) := by
  have access : ∀ a, KeepsLaw (.next (s.access a)) := fun a => keepsLaw_next (State.access_lawful h a)
  have fed : ∀ ps xs, KeepsLaw (.next (State.feed ps xs s)) := fun ps xs => keepsLaw_next ((State.feed_moved ps xs s).lawful h)
  cases c with
  | hardwareReset => exact execHardwareReset_lawful s
  | resetRelease straps => exact execResetRelease_lawful h straps
  | loadRead => exact execLoadRead_lawful h
  | intentAdmit | intentHold | intentVacant | setupWrite | portIntentConfig | portIntentRun | portIntentHalt | consumerIndexWrite
  | imageWrite | recordSnapshotRead | headerSnapshotRead | popRead | consecutiveAccess => exact access _
  | accessHold acc => exact keepsLaw_ite h (State.access_lawful h acc)
  | drainComplete => exact execDrainComplete_lawful h
  | cycle c => exact keepsLaw_next ((State.cycleStart_moved s c).lawful h)
  | roundDue => exact keepsLaw_ite h (Moved.lawful .of_same h)
  | quietTimeout => exact keepsLaw_next ((State.timeOutAsk_moved s).lawful h)
  | interruptHold => exact keepsLaw_ite h (Moved.lawful .of_same h)
  | fetch c => exact keepsLaw_next (State.takeFetch_lawful h c)
  | lineDown => exact keepsLaw_next (State.lineFalls_lawful h)
  | lineUp => exact keepsLaw_next (Moved.lawful (t := s.lineRises) .of_same h)
  | give cq => exact keepsLaw_next ((State.takeGive_moved s cq).lawful h)
  | deny => exact keepsLaw_next ((State.takeDeny_moved s).lawful h)
  | revoke => exact keepsLaw_next ((State.takeRevoke_moved s).lawful h)
  | armIntervalStart => exact keepsLaw_next (Moved.lawful (t := s.startInterval) .of_same h)
  | quietWindowEnd => exact keepsLaw_next (Moved.lawful (t := s.windowRunsOut) .of_same h)
  | slotArrivalEnd ct j => exact execSlotArrivalEnd_lawful h ct j
  | slotEndReport ct j => exact execSlotEndReport_lawful h ct j
  | noDelimiter | burstComplete | preambleRecognized | delimiterCompared | kindByte => exact fed _ _
  | helloTake => exact execHelloTake_lawful h
  | discoveryRoundComplete => exact execDiscoveryRoundComplete_lawful h
  | echoTake => exact execEchoTake_lawful h
  | attemptJudge => exact execAttemptJudge_lawful h
  | settleReply => exact execSettleReply_lawful h
  | blockReply => exact execBlockReply_lawful h
  | imageRead ch => exact execImageRead_lawful h ch
  | rangingOutcome => exact execRangingOutcome_lawful h
  | settleOutcome => exact execSettleOutcome_lawful h
  | profileOutcome => exact execProfileOutcome_lawful h
  | eventWriteStart => exact keepsLaw_next (Moved.lawful (t := s.startEvent) .of_same h)
  | eventWordWritten => exact execEventWordWritten_lawful h

end Sys2Proof.Machine

namespace Sys2Proof.Proofs

open Sys2Proof.Machine Sys2Proof.Safety

/-- Settles O57, from what each command does to the records and to the lists that move them. -/
theorem lawfulKept : Obligations.LawfulKept := by
  unfold Obligations.LawfulKept
  intro s t h ht
  unfold step at ht
  split at ht
  · cases ht
    exact Moved.lawful .of_same h
  · next c rest _ => exact exec_lawful (Moved.lawful (t := s.withPending rest) .of_same h) c t ht

end Sys2Proof.Proofs
end

section
set_option Elab.async false
/-! Reset, the end of an ask, and arbitration. -/

namespace Sys2Proof.Machine

open Sys2Proof.Safety

variable (s : State)

/-! ### Events beside the rest of the state -/

/-- What raising an event makes of a state that agrees with `s` on what the Event Writer reads. -/
theorem State.raise_eq_of {t : State} (e : Raise) (hevw : t.evw = s.evw) (hcounters : t.counters = s.counters)
    (hcycle : t.ltu.cycle = s.ltu.cycle) (hport : t.pct.port.overlay = s.pct.port.overlay) :
    t.raise e = { t with evw := (s.raise e).evw, counters := (s.raise e).counters } := by
  unfold State.raise State.numbered
  rw [hevw, hcounters, hcycle, hport]
  split
  · cases t; cases hevw; cases hcounters; rfl
  · split
    · cases t; cases hcounters; rfl
    · rfl

/-- Raising an event changes the Event Writer and the counters alone. -/
theorem State.raise_eq (e : Raise) : s.raise e = { s with evw := (s.raise e).evw, counters := (s.raise e).counters } :=
  s.raise_eq_of e rfl rfl rfl rfl

/-- A record that changes its activation state (R6). -/
theorem Record.moveTo_of_ne {r : Record} {st : ActState} (now : Cycle) (h : r.state ≠ st) :
    r.moveTo st now = { r with state := st, lastChange := now } := by
  unfold Record.moveTo
  rw [if_neg h]

/-! ### The head of the ranging queue -/

/-- An attempt abandoned whose record is RANGING (R16, R66). -/
theorem State.abandonAttempt_ranging {h : RecIx} {rest : List RecIx} (hq : s.rgu.queue = h :: rest)
    (hst : (s.record h).state = .ranging) :
    s.abandonAttempt = { s with
      rgu := { s.rgu with attempt := none }
      records := s.records.set h { s.record h with state := .assigned, lastChange := s.ltu.cycle } } := by
  have moved := Record.moveTo_of_ne (r := s.record h) (st := .assigned) s.ltu.cycle (by rw [hst]; decide)
  unfold State.abandonAttempt
  rw [← moved]
  split
  · next hn => cases hn.symm.trans hq
  · next hn =>
    cases hn.symm.trans hq
    rw [if_pos hst]
    rfl

/-- An attempt abandoned with no RANGING record at the head of the queue. -/
theorem State.abandonAttempt_idle (h : ∀ i rest, s.rgu.queue = i :: rest → (s.record i).state ≠ .ranging) :
    s.abandonAttempt = { s with rgu := { s.rgu with attempt := none } } := by
  unfold State.abandonAttempt
  dsimp only
  split
  · rfl
  · next hq => rw [if_neg (h _ _ hq)]

/-- The quiet resource is held for record `i` exactly by a window of a ranging attempt of `i` (R104). -/
theorem State.quietIsFor_iff (i : RecIx) :
    s.quietIsFor i = true ↔ ∃ w a, w.purpose = .ranging i a ∧
      (s.ltu.quiet = .asked w ∨ s.ltu.quiet = .given w ∨ s.ltu.quiet = .opened w) := by
  unfold State.quietIsFor
  rcases s.ltu.quiet with _ | w | w | w
  · simp
  all_goals
    dsimp only
    rcases hw : w.purpose with _ | ⟨k, a⟩ <;> simp [hw]

/-! ### Arbitration -/

/-- The head of the ranging queue presents demand (R53). -/
theorem State.rangingDemand_eq_some (i : RecIx) :
    s.rangingDemand = some i ↔ (∃ rest, s.rgu.queue = i :: rest) ∧ (s.record i).state = .assigned ∧ s.rgu.attempt = none := by
  unfold State.rangingDemand
  rcases s.rgu.queue with _ | ⟨k, rest⟩
  · simp
  · dsimp only
    split
    · next h =>
      constructor
      · rintro ⟨⟩; exact ⟨⟨rest, rfl⟩, h⟩
      · rintro ⟨⟨_, hk⟩, _⟩; cases hk; rfl
    · next h =>
      constructor
      · nofun
      · rintro ⟨⟨_, hk⟩, hi⟩; cases hk; exact absurd hi h

/-- No record presents ranging demand. -/
theorem State.rangingDemand_eq_none (h : ∀ i, ¬((∃ rest, s.rgu.queue = i :: rest) ∧ (s.record i).state = .assigned ∧
    s.rgu.attempt = none)) : s.rangingDemand = none := by
  rcases hd : s.rangingDemand with _ | i
  · rfl
  · exact absurd ((s.rangingDemand_eq_some i).1 hd) (h i)

/-- What arbitration does, by the demands present (R97). -/
theorem State.arbitrate_running (hp : s.pct.port = .running) (hl : s.ltu.lineUp = true) :
    (∀ i, s.rangingDemand = some i → s.discoveryDemand = false → s.arbitrate = s.grantRanging i) ∧
    (∀ i, s.rangingDemand = some i → s.discoveryDemand = true → s.dsu.deferral < s.header.discoveryDefer.toNat →
      s.arbitrate = s.deferDiscovery.grantRanging i) ∧
    (∀ i, s.rangingDemand = some i → s.discoveryDemand = true → s.header.discoveryDefer.toNat ≤ s.dsu.deferral →
      s.arbitrate = s.grantDiscovery) ∧
    (s.rangingDemand = none → s.discoveryDemand = true → s.arbitrate = s.grantDiscovery) ∧
    (s.rangingDemand = none → s.discoveryDemand = false → s.arbitrate = s) := by
  unfold State.arbitrate
  rw [if_pos ⟨hp, hl⟩]
  refine ⟨fun i hr hd => ?_, fun i hr hd hn => ?_, fun i hr hd hn => ?_, fun hr hd => ?_, fun hr hd => ?_⟩
  · simp [hr, hd]
  · simp [hr, hd, Nat.not_le.2 hn]
  · simp [hr, hd, hn]
  · simp [hr, hd]
  · simp [hr, hd]

/-- A normal advance that finds the quiet resource idle (R94, R97): the cycle is taken, the demand presented, the map moved on, and one
demand granted. -/
theorem State.cycleStart_idle {c : Cycle} (hk : s.ltu.known = true) (hl : s.ltu.lineUp = true) (hc : c = s.ltu.cycle + 1)
    (hq : s.ltu.quiet = .idle) :
    s.cycleStart c = ((s.startCycle c).presentDemand.advanceMap.arbitrate).followInterrupt := by
  unfold State.cycleStart
  dsimp only
  rw [if_neg (by simp [hk, hl]), if_pos hc]
  congr 1
  exact (by unfold State.advanceQuiet; rw [show (s.startCycle c).presentDemand.advanceMap.ltu.quiet = s.ltu.quiet from rfl, hq])

/-- An attempt started for an ASSIGNED record (R16, R53). -/
theorem State.grantRanging_assigned (i : RecIx) (h : (s.record i).state = .assigned) :
    let n := (s.record i).samples.toNat
    let length := s.header.targetLoop.toNat + n * 1024 + 256
    s.grantRanging i = State.ask
      { s with
        rgu := { s.rgu with
          ident := s.rgu.ident + 1
          attempt := some
            { index := i, ident := s.rgu.ident + 1, count := n, length := length, ref := none, stage := .asking
              places := List.replicate n { mark := none, doubled := false } } }
        records := s.records.set i { s.record i with state := .ranging, lastChange := s.ltu.cycle } }
      (.ranging i (s.rgu.ident + 1)) length := by
  intro n length
  rw [← Record.moveTo_of_ne s.ltu.cycle (by rw [h]; decide)]
  rfl

end Sys2Proof.Machine

namespace Sys2Proof.Proofs

open Sys2Proof.Machine Sys2Proof.Safety

/-- Settles O55. -/
theorem resetSound : Obligations.ResetSound := by
  refine ⟨⟨⟨List.Pairwise.nil, nofun⟩, ?_, ?_, ?_, ?_, ?_, ?_⟩, lawful_reset, ⟨?_, ?_, ?_, ?_, ?_⟩, ⟨List.Pairwise.nil, List.Pairwise.nil⟩⟩ <;> decide

/-- Settles O6. -/
theorem resetAndRelease : Obligations.ResetAndRelease := by
  intro s straps
  refine ⟨⟨_, rfl, fun i => ?_, rfl, rfl, rfl, rfl, rfl, rfl, rfl, rfl, rfl, rfl, rfl, rfl, rfl, rfl⟩, fun hoff => ?_, fun hoff => ?_⟩
  · simp [State.record, State.reset]
  · show execResetRelease straps s = _
    unfold execResetRelease
    rw [if_pos hoff]
    rfl
  · show execResetRelease straps s = _
    unfold execResetRelease
    rw [if_neg hoff]

/-- Settles O27. -/
theorem askEnded : Obligations.AskEnded := by
  intro s u
  refine ⟨fun e he => ?_, fun hr => ?_, fun i a h rest hq hst => u.abandonAttempt_ranging hq hst,
    fun i a h => u.abandonAttempt_idle h, s.quietIsFor_iff⟩
  · show u.abandonRound = _
    unfold State.abandonRound
    rw [show u.dsu = s.dsu from rfl, he]
  · show u.abandonRound = _
    unfold State.abandonRound
    rw [show u.dsu = s.dsu from rfl, hr]

/-- Settles O29. -/
theorem cycleArbitrates : Obligations.CycleArbitrates := by
  intro s c hk hl hc hq u0 kept u ready toDiscovery toRanging
  have hexec : exec (.cycle c) s = .next u.arbitrate.followInterrupt := congrArg _ (s.cycleStart_idle hk hl hc hq)
  have hgrant : ∀ i, ready i → ∀ d, State.grantRanging { u with dsu := { u.dsu with deferral := d } } i = toRanging i d :=
    fun i hi d => State.grantRanging_assigned _ i hi.2.1
  have hdem : u.discoveryDemand = u0.discoveryDemand := rfl
  rw [hexec]
  refine ⟨fun hp => ?_, fun hp => ?_⟩
  · unfold State.arbitrate
    rw [if_neg (fun h => hp h.1)]
  · obtain ⟨ranging, deferred, overdue, discovery, nothing⟩ := u.arbitrate_running hp hl
    refine ⟨fun i hi hd => ?_, fun i hi hd hn => ?_, fun i hi hd hn => ?_, fun hi hd => ?_, fun hi hd => ?_⟩
    · rw [ranging i ((u.rangingDemand_eq_some i).2 hi) (hdem.trans hd)]
      exact congrArg (fun t : State => Host.Outcome.next t.followInterrupt) (hgrant i hi s.dsu.deferral)
    · rw [deferred i ((u.rangingDemand_eq_some i).2 hi) (hdem.trans hd) hn]
      exact congrArg (fun t : State => Host.Outcome.next t.followInterrupt) (hgrant i hi (s.dsu.deferral + 1))
    · rw [overdue i ((u.rangingDemand_eq_some i).2 hi) (hdem.trans hd) hn]; rfl
    · rw [discovery (u.rangingDemand_eq_none hi) (hdem.trans hd)]; rfl
    · rw [nothing (u.rangingDemand_eq_none hi) (hdem.trans hd)]

end Sys2Proof.Proofs
end

section
set_option Elab.async false
/-! The line, and the fetches that take a RELEASE or a control message. -/

namespace Sys2Proof.Machine

open Sys2Proof.Safety

variable (s : State)

/-! ### What is timed against the cycle count -/

/-- A round abandoned (R43): an OPEN one resets the base cycle. -/
theorem State.abandonRound_dsu : s.abandonRound.dsu = { s.dsu with
    round := .idle, base := match s.dsu.round with | .opened _ => s.ltu.cycle | _ => s.dsu.base } := by
  unfold State.abandonRound
  rcases hr : s.dsu.round with _ | e | w
  · exact congrArg (fun r => { s.dsu with round := r }) hr
  · rfl
  · rfl

/-- What an attempt abandoned does to the records and to the Ranging Unit (R16, R66). -/
theorem State.abandonAttempt_spec :
    s.abandonAttempt.rgu = { s.rgu with attempt := none } ∧
    ∀ k, s.abandonAttempt.record k = s.record k ∨ ((s.record k).state = .ranging ∧
      s.abandonAttempt.record k = { s.record k with state := .assigned, lastChange := s.ltu.cycle }) := by
  by_cases h : ∃ i rest, s.rgu.queue = i :: rest ∧ (s.record i).state = .ranging
  · obtain ⟨i, rest, hq, hst⟩ := h
    rw [s.abandonAttempt_ranging hq hst]
    refine ⟨rfl, fun k => ?_⟩
    by_cases hk : k = i
    · subst hk
      exact .inr ⟨hst, (State.record_onRecord s k k (fun r => { r with state := .assigned, lastChange := s.ltu.cycle })).trans
        (if_pos rfl)⟩
    · exact .inl ((State.record_onRecord s i k (fun r => { r with state := .assigned, lastChange := s.ltu.cycle })).trans (if_neg hk))
  · rw [s.abandonAttempt_idle (fun i rest hq hst => h ⟨i, rest, hq, hst⟩)]
    exact ⟨rfl, fun k => .inl rfl⟩

/-- A record whose attempt is abandoned first returns by a port event as it would have. -/
theorem returned_assigned {r : Record} (now : Cycle) (h : r.state = .ranging) :
    returned { r with state := .assigned, lastChange := now } now = returned r now := by
  unfold returned
  rw [h]
  rfl

/-- What a slip and LINE-DOWN end alike (R95, R96). -/
theorem State.dropTimeline_spec :
    let t := s.dropTimeline
    t.ltu = { s.ltu with latestFetch := none, quiet := .idle, map := [], armed := none } ∧ t.brx = disarmed s.brx ∧
    t.links = { s.links with sched := s.links.sched ++ quietEnd s.ltu.quiet } ∧
    t.dsq = { s.dsq with window := t.dsq.window } ∧
    t.dsu = { s.dsu with
      round := .idle, base := match s.dsu.round with | .opened _ => s.ltu.cycle | _ => s.dsu.base } ∧
    t.rgu = { s.rgu with attempt := none } ∧
    (∀ k, t.record k = s.record k ∨ ((s.record k).state = .ranging ∧
      t.record k = { s.record k with state := .assigned, lastChange := s.ltu.cycle })) := by
  obtain ⟨q1, q2, q3, q4, -⟩ := s.endQuiet_spec
  obtain ⟨a1, a2⟩ := s.endQuiet.abandonRound.abandonAttempt_spec
  have hdsu := s.endQuiet.abandonRound_dsu
  have frame : s.endQuiet.dsu = s.dsu ∧ s.endQuiet.rgu = s.rgu ∧ s.endQuiet.records = s.records := by simp
  have cycle : s.endQuiet.ltu.cycle = s.ltu.cycle := by rw [q1]
  have records : ∀ k, s.endQuiet.abandonRound.record k = s.record k := fun k => State.record_congr s (by simp) k
  have ltu : s.dropTimeline.ltu = { s.endQuiet.ltu with map := [], armed := none, latestFetch := none } := by
    show ({ s.endQuiet.abandonRound.abandonAttempt.ltu with map := [], armed := none, latestFetch := none } : Ltu) = _
    simp
  have brx : s.dropTimeline.brx = disarmed s.endQuiet.brx := by
    show disarmed s.endQuiet.abandonRound.abandonAttempt.brx = _
    simp
  refine ⟨?_, ?_, ?_, ?_, ?_, ?_, ?_⟩
  · rw [ltu, q1]
  · rw [brx]; unfold disarmed; rw [q4]
  · show s.endQuiet.abandonRound.abandonAttempt.links = _
    simp [q2]
  · show s.endQuiet.abandonRound.abandonAttempt.dsq =
      { s.dsq with window := s.endQuiet.abandonRound.abandonAttempt.dsq.window }
    simp [q3]
  · show s.endQuiet.abandonRound.abandonAttempt.dsu = _
    simp only [State.abandonAttempt_frame, hdsu, frame.1, cycle]
  · show s.endQuiet.abandonRound.abandonAttempt.rgu = _
    rw [a1]
    simp
  · intro k
    have := a2 k
    simp only [records, State.abandonRound_frame, cycle] at this
    exact this

/-- LINE_DOWN with the line up (R24, R96): the LINE event, then the end of all activation work. -/
theorem State.lineFalls_spec (h : s.ltu.lineUp = true) :
    WorkEnded s s.lineFalls ∧
    s.lineFalls.ltu = { s.ltu with lineUp := false, latestFetch := none, quiet := .idle, map := [], armed := none } ∧
    s.lineFalls.brx = disarmed s.brx ∧ s.lineFalls.bpt = { s.bpt with chanRequests := s.lineFalls.bpt.chanRequests } ∧
    EventsRaised s s.lineFalls (lineEvent .down s.ltu.cycle :: returnEvents s) ∧
    s.lineFalls.header = s.header ∧ s.lineFalls.pct = s.pct ∧ s.lineFalls.sram = s.sram := by
  generalize hd0 : ({ s with ltu := { s.ltu with lineUp := false } } : State) = down
  generalize hu : down.raise (lineEvent .down s.ltu.cycle) = u
  have hfall : s.lineFalls = u.dropTimeline.portReturn := by
    unfold State.lineFalls
    rw [if_pos h, hd0]
    dsimp only
    rw [← hu, ← hd0]
    rfl
  have frame : u.records = s.records ∧ u.header = s.header ∧ u.dsu = s.dsu ∧ u.rgu = s.rgu ∧ u.pex = s.pex ∧
      u.ltu = { s.ltu with lineUp := false } ∧ u.brx = s.brx ∧ u.dsq = s.dsq ∧ u.pct = s.pct ∧ u.bpt = s.bpt ∧ u.links = s.links ∧
      u.sram = s.sram := by rw [← hu, ← hd0]; simp
  have raised : EventsRaised s u [lineEvent .down s.ltu.cycle] := by
    rw [← hu, ← hd0]
    exact State.raise_congr _ rfl rfl rfl rfl
  clear hu hd0
  obtain ⟨fr, fh, fdsu, frgu, fpex, fltu, fbrx, fdsq, fpct, fbpt, flinks, fsram⟩ := frame
  have frec : ∀ k, u.record k = s.record k := State.record_congr s fr
  obtain ⟨d1, d2, d3, d4, d5, d6, d7⟩ := u.dropTimeline_spec
  have dframe : u.dropTimeline.pex = u.pex ∧ u.dropTimeline.bpt = u.bpt ∧ u.dropTimeline.header = u.header ∧
      u.dropTimeline.pct = u.pct ∧ u.dropTimeline.sram = u.sram ∧ u.dropTimeline.evw = u.evw ∧
      u.dropTimeline.counters = u.counters := by simp
  generalize u.dropTimeline = d at *
  obtain ⟨dpex, dbpt, dh, dpct, dsram, devw, dcnt⟩ := dframe
  have dcycle : d.ltu.cycle = s.ltu.cycle := by rw [d1, fltu]
  have drec : ∀ k, returned (d.record k) s.ltu.cycle = returned (s.record k) s.ltu.cycle ∧
      (d.record k).state.inActivation = (s.record k).state.inActivation ∧ (d.record k).tag = (s.record k).tag := by
    intro k
    rcases d7 k with hk | ⟨hst, hk⟩
    · rw [hk, frec]; exact ⟨rfl, rfl, rfl⟩
    · rw [frec] at hst
      rw [hk, frec, fltu]
      exact ⟨returned_assigned _ hst, by rw [hst]; rfl, rfl⟩
  obtain ⟨w, ev, tl, tb⟩ := d.portReturn_spec
  have ret : returnEvents d = returnEvents s := by simp only [returnEvents, drec]
  have pframe : d.portReturn.header = d.header ∧ d.portReturn.pct = d.pct ∧ d.portReturn.sram = d.sram := by simp
  rw [← hfall] at w ev tl tb pframe
  generalize s.lineFalls = t at *
  have arm := tl.2.stays (by rw [d1]; nofun)
  refine ⟨⟨?_, w.quiet, ?_, ?_, ?_, ?_, ?_, ?_, ?_⟩, ?_, ?_, ?_, ?_, ?_, ?_, ?_⟩
  · intro k; rw [w.records k, dcycle]; exact (drec k).1
  · rw [w.link, d3, d1, flinks, fltu]; simp [quietEnd]
  · rw [w.dsq, d4, fdsq]
  · refine w.dsu.trans ?_
    rw [d5, fdsu, fltu] <;> rcases s.dsu.round <;> rfl
  · rw [w.rgu, d6, frgu]
  · rw [w.pex, dpex, fpex]
  · intro ch
    rw [w.reads ch]
    simp only [State.chanRequest, dbpt, fbpt]
  · rw [w.captures, d2, fbrx]; rfl
  · rw [tl.1, arm.1, d1, fltu]; rfl
  · rw [arm.2, d2, fbrx]
  · rw [tb, dbpt, fbpt]
  · have dropped : EventsRaised s d [lineEvent .down s.ltu.cycle] := ⟨devw.trans raised.1, dcnt.trans raised.2⟩
    have := events_trans dropped ev dcycle (dpct.trans fpct)
    rwa [ret] at this
  · rw [pframe.1, dh, fh]
  · rw [pframe.2.1, dpct, fpct]
  · rw [pframe.2.2, dsram, fsram]

end Sys2Proof.Machine

namespace Sys2Proof.Proofs

open Sys2Proof.Machine Sys2Proof.Safety

/-- Settles O31. -/
theorem lineUpDown : Obligations.LineUpDown := by
  intro s
  refine ⟨fun h => ?_, fun h => ?_, fun h => ?_, fun h => ⟨_, rfl, s.lineFalls_spec h⟩⟩
  · show execLineUp s = _
    unfold execLineUp State.lineRises
    rw [if_pos h]
  · show execLineUp s = _
    unfold execLineUp State.lineRises
    rw [if_neg (by simp [h])]
    rfl
  · show execLineDown s = _
    unfold execLineDown State.lineFalls
    rw [if_neg (by simp [h])]

end Sys2Proof.Proofs
end

section
set_option Elab.async false
/-! Fetches that take a RELEASE or a control message. -/

namespace Sys2Proof.Machine

open Sys2Proof.Safety

variable (s : State)

/-! ### Lowest indices -/

/-- The lowest FREE channel (R81). -/
theorem State.freeChan_eq_some (ch : ChanIx) :
    s.freeChan = some ch ↔ (s.chan ch).stage = .free ∧ ∀ m < ch, (s.chan m).stage ≠ .free := by
  unfold State.freeChan allChannels
  rw [← Fin.find?_eq_find?_finRange, Fin.find?_eq_some_iff]
  simp

/-- No channel is FREE. -/
theorem State.freeChan_eq_none : s.freeChan = none ↔ ∀ ch, (s.chan ch).stage ≠ .free := by
  unfold State.freeChan allChannels
  rw [← Fin.find?_eq_find?_finRange, Fin.find?_eq_none_iff]
  simp

/-! ### Records replaced with their event -/

/-- A record enters an activation state (R6): the record moved, and its RECORD event. -/
theorem State.enter_raise (i : RecIx) (st : ActState) (why : ChangeReason) :
    s.enter i st why = State.raise { s with records := s.records.set i ((s.record i).moveTo st s.ltu.cycle) }
      (recordEvent i st why (s.record i).tag) := by
  rw [State.enter_eq, s.raise_eq_of (t := { s with records := s.records.set i ((s.record i).moveTo st s.ltu.cycle) }) _ rfl rfl rfl rfl]

/-- The RECORD event of a record just replaced (R6). -/
theorem State.onRecord_raiseRecord (i : RecIx) (f : Record → Record) (why : ChangeReason) :
    (s.onRecord i f).raiseRecord i why =
      (s.onRecord i f).raise (recordEvent i (f (s.record i)).state why (f (s.record i)).tag) := by
  have h : (s.onRecord i f).record i = f (s.record i) := (State.record_onRecord s i i f).trans (if_pos rfl)
  unfold State.raiseRecord
  rw [h]
  rfl

/-- A record changed and then moved to another activation state with its event (R6). -/
theorem State.onRecord_enter (i : RecIx) (f : Record → Record) (st : ActState) (why : ChangeReason) :
    (s.onRecord i f).enter i st why =
      State.raise { s with records := s.records.set i ((f (s.record i)).moveTo st s.ltu.cycle) }
        (recordEvent i st why (f (s.record i)).tag) := by
  have h : (s.onRecord i f).record i = f (s.record i) := (State.record_onRecord s i i f).trans (if_pos rfl)
  rw [State.enter_raise, h]
  simp only [State.onRecord, State.setRecord, Vector.set_set]

/-- The same where the state does change, so that the cycle of last state change is the current one. -/
theorem State.onRecord_enter_of_ne (i : RecIx) (f : Record → Record) (st : ActState) (why : ChangeReason)
    (h : (f (s.record i)).state ≠ st) :
    (s.onRecord i f).enter i st why =
      State.raise { s with records := s.records.set i { f (s.record i) with state := st, lastChange := s.ltu.cycle } }
        (recordEvent i st why (f (s.record i)).tag) := by
  rw [State.onRecord_enter, Record.moveTo_of_ne _ h]

/-- Record `i` enters EMPTY (R10). -/
theorem State.enterEmpty_eq (i : RecIx) (why : ChangeReason) :
    s.enterEmpty i why = State.raise { s with records := s.records.set i (emptied (s.record i) s.ltu.cycle) }
      (recordEvent i .empty why (s.record i).tag) :=
  State.onRecord_raiseRecord s i _ why

/-! ### The answer beside the taking -/

/-- A change of parts that no event depends on is the same before and after one is raised. -/
theorem State.raise_beside {f : State → State} (hf : ∀ w c, f { s with evw := w, counters := c } = { f s with evw := w, counters := c })
    (hevw : (f s).evw = s.evw) (hcounters : (f s).counters = s.counters) (hcycle : (f s).ltu.cycle = s.ltu.cycle)
    (hport : (f s).pct.port.overlay = s.pct.port.overlay) (e : Raise) : f (s.raise e) = (f s).raise e := by
  rw [s.raise_eq_of e hevw hcounters hcycle hport]
  conv_lhs => rw [s.raise_eq e]
  exact hf _ _

theorem State.answerFetch_raise (a : FramerAnswer) (e : Raise) : (s.raise e).answerFetch a = (s.answerFetch a).raise e :=
  s.raise_beside (f := fun t => t.answerFetch a) (fun _ _ => rfl) rfl rfl rfl rfl e

/-- A valid FETCH (R129): the fetch is recorded, and what is chosen is answered and taken. -/
theorem State.takeFetch_valid {c : Cycle} (h : FetchTakes s c) :
    s.takeFetch c = ((s.recordFetch c).takeChoice c ((s.recordFetch c).choose c)).answerFetch
      ((s.recordFetch c).choiceAnswer ((s.recordFetch c).choose c)) := by
  obtain ⟨hk, hc, hn, -⟩ := h
  unfold State.takeFetch
  rw [if_pos (by simp [State.fetchValid, hk, hc, hn])]

/-- With no window message bound to the cycle, the lists are drawn on (R131). -/
theorem State.chooseAll_noWindow {c : Cycle} (h : NoWindowFor s c) : s.chooseAll c = s.chooseLists c := by
  unfold State.chooseAll
  split
  · next m hm => rw [if_neg (h m hm)]
  · rfl

/-- The urgent list is drawn on before every other list (R130, R131). -/
theorem State.choose_urgent {c : Cycle} {i : RecIx} {rest : List RecIx} (hl : s.ltu.lineUp = true) (hu : s.dsq.urgent = i :: rest)
    (hp : s.pct.port = .config ∨ s.pct.port = .draining ∨ (s.pct.port = .running ∧ NoWindowFor s c)) : s.choose c = .release i := by
  have urgent : s.chooseUrgent = .release i := by unfold State.chooseUrgent; rw [hu]
  have lists : s.chooseLists c = .release i := by unfold State.chooseLists; rw [hu]
  unfold State.choose
  rw [if_neg (by simp [hl])]
  obtain hp | hp | ⟨hp, hw⟩ := hp <;> rw [hp] <;> dsimp only
  · exact urgent
  · exact urgent
  · rw [s.chooseAll_noWindow hw, lists]

/-- With the urgent list empty, the control list is drawn on next (R131). -/
theorem State.choose_controlHead {c : Cycle} {e : ControlEntry} {rest : List ControlEntry} (hl : s.ltu.lineUp = true)
    (hp : s.pct.port = .running) (hw : NoWindowFor s c) (hu : s.dsq.urgent = []) (hc : s.dsq.control = e :: rest) :
    s.choose c = .control e := by
  unfold State.choose
  rw [if_neg (by simp [hl]), hp]
  dsimp only
  rw [s.chooseAll_noWindow hw]
  unfold State.chooseLists
  rw [hu, hc]

/-! ### A RELEASE taken -/

/-- The record leaves RELEASING for its destination (R13). -/
theorem State.releaseTaken_spec {i : RecIx} (hst : (s.record i).state = .releasing) :
    let r := s.record i
    let done := fun (st : ActState) (r' : Record) =>
      s.releaseTaken i = State.raise { s with dsq := { s.dsq with urgent := s.dsq.urgent.drop 1 }, records := s.records.set i r' }
        (recordEvent i st .releaseTaken r.tag)
    (r.dest = .empty → done .empty (emptied r s.ltu.cycle)) ∧
    (r.dest = .held → done .held { r.released with state := .held, lastChange := s.ltu.cycle }) ∧
    (r.dest = .failed → done .failed { r.released with state := .failed, lastChange := s.ltu.cycle }) ∧
    (r.dest = .awaiting → done .awaiting (admitted r s.ltu.cycle)) := by
  intro r done
  refine ⟨fun h => ?_, fun h => ?_, fun h => ?_, fun h => ?_⟩ <;> simp only [done, State.releaseTaken, show (s.record i).dest = _ from h]
  · exact State.enterEmpty_eq _ i _
  · exact State.onRecord_enter_of_ne _ i _ _ _ (fun hn => absurd (hst.symm.trans hn) (by decide))
  · exact State.onRecord_enter_of_ne _ i _ _ _ (fun hn => absurd (hst.symm.trans hn) (by decide))
  · exact State.onRecord_enter_of_ne _ i _ _ _ (fun hn => absurd (hst.symm.trans hn) (by decide))

/-! ### Control messages taken -/

/-- ASSIGN taken (R15). -/
theorem State.assignTaken_eq (i : RecIx) :
    s.assignTaken i = State.raise
      { s with
        records := s.records.set i { s.record i with assignTaken := true, line := i.val + 1 }
        rgu := { s.rgu with queue := s.rgu.queue ++ [i] } } (recordEvent i (s.record i).state .assignTaken (s.record i).tag) :=
  State.onRecord_raiseRecord (s.joinRanging i) i (fun r => { r with assignTaken := true, line := i.val + 1 }) .assignTaken

/-- A record enters SETTLING (R18, R67): a fresh settle state, its CONFIRM-ASK queued, and its RECORD event. -/
theorem State.enterSettling_eq (i : RecIx) (why : ChangeReason) :
    s.enterSettling i why = State.raise
      { s with
        records := s.records.set i ({ s.record i with trimSent := false, trimClamped := false }.moveTo .settling s.ltu.cycle)
        rgu := { s.rgu with
          settles := s.rgu.settles.set i (some { found := 0, missed := 0, sum := 0, stage := .queued, report := none }) }
        dsq := { s.dsq with reply := s.dsq.reply ++ [{ index := i, kind := .confirmAsk }] } }
      (recordEvent i .settling why (s.record i).tag) := by
  refine (congrArg (fun t : State => (t.setSettle i _).appendReply i .confirmAsk) (s.onRecord_enter i _ .settling why)).trans ?_
  exact State.raise_beside _ (f := fun t => (t.setSettle i _).appendReply i .confirmAsk) (fun _ _ => rfl) rfl rfl rfl rfl _

/-- What EQUALIZE taken does (R18, R81), by the profile, the wait queue and the channels. -/
theorem State.equalizeTaken_spec (i : RecIx) :
    let r := s.record i
    (r.profileIx = 255 ∨ r.profileDelivered = true → s.equalizeTaken i = s.enterSettling i .equalizeTaken) ∧
    (r.profileIx ≠ 255 → r.profileDelivered = false → (s.pex.waiting ≠ [] ∨ ∀ ch, (s.chan ch).stage ≠ .free) →
      s.equalizeTaken i = State.raise { s with pex := { s.pex with waiting := s.pex.waiting ++ [i] } }
        (recordEvent i r.state .equalizeTaken r.tag)) ∧
    (∀ ch, r.profileIx ≠ 255 → r.profileDelivered = false → s.pex.waiting = [] → s.freeChan = some ch →
      s.equalizeTaken i = (s.enter i .profiling .equalizeTaken).grantChannel ch i) := by
  unfold State.equalizeTaken Record.needsProfile
  simp only [Bool.and_eq_true, decide_eq_true_eq, Bool.not_eq_true']
  refine ⟨fun h => ?_, fun h1 h2 h3 => ?_, fun ch h1 h2 h3 h4 => ?_⟩
  · rw [if_neg]
    rintro ⟨a, b⟩
    rcases h with h | h
    · exact a h
    · rw [h] at b; cases b
  · rw [if_pos ⟨h1, h2⟩]
    split
    · next hw hf =>
      rcases h3 with h3 | h3
      · exact absurd hw h3
      · rw [s.freeChan_eq_none.2 h3] at hf; cases hf
    · rfl
  · rw [if_pos ⟨h1, h2⟩, h3, h4]

/-- Channel `ch` given to record `k` as seen from a state with the same records, channels, requests and cycle number. -/
theorem scanBegun_congr {c t t' : State} {ch : ChanIx} {k : RecIx} {left : Option ReadRequest} (h : ScanBegun c t ch k left)
    (h1 : c.records = s.records) (h2 : c.pex = s.pex) (h3 : c.bpt = s.bpt) (h4 : c.ltu.cycle = s.ltu.cycle)
    (t1 : t'.records = t.records) (t2 : t'.pex = t.pex) (t3 : t'.bpt = t.bpt) : ScanBegun s t' ch k left := by
  have hrec : ∀ k, c.record k = s.record k := State.record_congr s h1
  have himg : imageOf c k = imageOf s k := by simp only [imageOf, State.dirEntry, hrec, h2]
  obtain ⟨e1, e2, e3⟩ := h
  simp only [hrec, himg, h4] at e1
  simp only [hrec, himg, h2] at e2
  simp only [himg, h3] at e3
  refine ⟨(State.record_congr t t1 k).trans e1, ?_, t3.trans e3⟩
  rw [t2]
  exact e2

end Sys2Proof.Machine

namespace Sys2Proof.Proofs

open Sys2Proof.Machine Sys2Proof.Safety

/-- Settles O38. -/
theorem fetchRelease : Obligations.FetchRelease := by
  intro s c i rest ht hu hp hst r m u left done
  have hex : exec (.fetch c) s = .next (((s.recordFetch c).releaseTaken i).answerFetch (.message m)) :=
    congrArg _ ((s.takeFetch_valid ht).trans
      (by rw [(s.recordFetch c).choose_urgent (i := i) (rest := rest) ht.2.2.2 hu hp]; rfl))
  obtain ⟨empty, held, failed, awaiting⟩ := State.releaseTaken_spec (s.recordFetch c) (i := i) hst
  have answered : ∀ (r' : Record) (e : Raise),
      State.answerFetch (State.raise { s.recordFetch c with
        dsq := { s.dsq with urgent := s.dsq.urgent.drop 1 }, records := s.records.set i r' } e) (.message m) =
      State.raise { u with records := s.records.set i r' } e := by
    intro r' e
    rw [State.answerFetch_raise, hu]
    rfl
  refine ⟨fun h => ?_, fun h => ?_, fun h => ?_, fun h => ?_⟩
  · exact hex.trans (congrArg _ ((congrArg (fun t => State.answerFetch t _) (empty h)).trans (answered _ _)))
  · exact hex.trans (congrArg _ ((congrArg (fun t => State.answerFetch t _) (held h)).trans (answered _ _)))
  · exact hex.trans (congrArg _ ((congrArg (fun t => State.answerFetch t _) (failed h)).trans (answered _ _)))
  · exact hex.trans (congrArg _ ((congrArg (fun t => State.answerFetch t _) (awaiting h)).trans (answered _ _)))

/-- Settles O39. -/
theorem fetchControl : Obligations.FetchControl := by
  intro s c i k rest ht hp hw hu hc r line timing u moved fresh
  generalize hv : ({ s.recordFetch c with dsq := { s.dsq with control := rest } } : State) = v
  have hex : exec (.fetch c) s = .next (((s.recordFetch c).controlTaken ⟨i, k⟩).answerFetch
      (.message (s.controlBytes ⟨i, k⟩))) :=
    congrArg _ ((s.takeFetch_valid ht).trans
      (by rw [(s.recordFetch c).choose_controlHead (e := ⟨i, k⟩) (rest := rest) ht.2.2.2 hp hw hu hc]; rfl))
  have hdrop : ({ s.recordFetch c with dsq := { s.dsq with control := s.dsq.control.drop 1 } } : State) = v := by
    rw [hc, ← hv]; rfl
  refine ⟨?_, ?_, ?_, ?_, ?_, ?_⟩
  · rintro rfl
    refine hex.trans (congrArg _ ?_)
    show State.answerFetch (State.assignTaken { s.recordFetch c with dsq := { s.dsq with control := s.dsq.control.drop 1 } } i) _ = _
    rw [hdrop, State.assignTaken_eq, State.answerFetch_raise, ← hv]
    rfl
  · rintro rfl
    refine hex.trans (congrArg _ ?_)
    show State.answerFetch (State.enter { s.recordFetch c with dsq := { s.dsq with control := s.dsq.control.drop 1 } } i _ _) _ = _
    rw [hdrop, State.enter_raise, State.answerFetch_raise, ← hv]
    rfl
  · rintro rfl
    refine hex.trans (congrArg _ ?_)
    show State.answerFetch (State.restartSettle { s.recordFetch c with dsq := { s.dsq with control := s.dsq.control.drop 1 } } i) _ = _
    rw [hdrop, ← hv]
    rfl
  · rintro rfl hprof
    have settling : ((s.recordFetch c).controlTaken ⟨i, .equalize⟩).answerFetch (.message (s.controlBytes ⟨i, .equalize⟩)) =
        (v.enterSettling i .equalizeTaken).answerFetch (.message (s.controlBytes ⟨i, .equalize⟩)) := by
      show State.answerFetch (State.equalizeTaken { s.recordFetch c with dsq := { s.dsq with control := s.dsq.control.drop 1 } } i) _ = _
      rw [hdrop, (v.equalizeTaken_spec i).1 (by rw [← hv]; exact hprof)]
    refine ⟨_, hex, ?_⟩
    rw [settling, State.enterSettling_eq, State.answerFetch_raise, ← hv]
    exact ⟨State.raise_eq _ _, State.raise_congr _ rfl rfl rfl rfl⟩
  · rintro rfl h1 h2 h3
    refine hex.trans (congrArg _ ?_)
    show State.answerFetch (State.equalizeTaken { s.recordFetch c with dsq := { s.dsq with control := s.dsq.control.drop 1 } } i) _ = _
    rw [hdrop, (v.equalizeTaken_spec i).2.1 (by rw [← hv]; exact h1) (by rw [← hv]; exact h2) (by rw [← hv]; exact h3),
      State.answerFetch_raise, ← hv]
    rfl
  · rintro ch rfl h1 h2 h3 h4 h5
    have hix : r.profileIx ≠ 255 := fun h => by rw [h] at h1; exact absurd h1 (by decide)
    have hfree : v.freeChan = some ch := (v.freeChan_eq_some ch).2 (by rw [← hv]; exact ⟨h4, h5⟩)
    obtain ⟨p1, p2, p3, p4, p5⟩ := v.profile_spec ch i .equalizeTaken
    refine ⟨_, hex, ?_⟩
    have ht : ((s.recordFetch c).controlTaken ⟨i, .equalize⟩) = (v.enter i .profiling .equalizeTaken).grantChannel ch i := by
      show State.equalizeTaken { s.recordFetch c with dsq := { s.dsq with control := s.dsq.control.drop 1 } } i = _
      rw [hdrop]
      exact (v.equalizeTaken_spec i).2.2 ch (by rw [← hv]; exact hix) (by rw [← hv]; exact h2) (by rw [← hv]; exact h3) hfree
    rw [ht]
    generalize (v.enter i .profiling .equalizeTaken).grantChannel ch i = t at *
    subst hv
    have begun : ScanBegun s (t.answerFetch (.message (s.controlBytes ⟨i, .equalize⟩))) ch i (s.chanRequest ch) :=
      scanBegun_congr s p1 rfl rfl rfl rfl rfl rfl rfl
    refine ⟨begun, p2.trans h3, ?_, fun m hm => p3 m hm, ?_, eventsRaised_congr p4 rfl rfl rfl rfl⟩
    · have : (t.chan ch).dir = profileDir r.profileIx := by
        unfold State.chan
        rw [p1.pex]
        exact congrArg Channel.dir (Vector.getElem_set_self _)
      show (t.chan ch).dir.val = _
      rw [this]
      exact Nat.mod_eq_of_lt h1
    · rw [p5]
      rfl

end Sys2Proof.Proofs
end

section
set_option Elab.async false
/-! What a HELLO matches: a live record, a stopped record, or a stranger. -/

namespace Sys2Proof.Machine

open Sys2Proof.Safety

variable (s : State)

/-! ### Records changed twice -/

theorem State.onRecord_onRecord (i : RecIx) (f g : Record → Record) : (s.onRecord i f).onRecord i g = s.onRecord i (fun r => g (f r)) := by
  have h : (s.onRecord i f).record i = f (s.record i) := (State.record_onRecord s i i f).trans (if_pos rfl)
  show (s.onRecord i f).setRecord i (g ((s.onRecord i f).record i)) = _
  rw [h]
  simp only [State.onRecord, State.setRecord, Vector.set_set]

theorem State.appendControl_raise (i : RecIx) (k : ControlKind) (e : Raise) :
    (s.raise e).appendControl i k = (s.appendControl i k).raise e :=
  s.raise_beside (f := fun t => t.appendControl i k) (fun _ _ => rfl) rfl rfl rfl rfl e

/-! ### The record a HELLO matches -/

/-- The lowest live holder of a serial (R9, R37). -/
theorem State.liveHolder_eq_some (x : Serial) (i : RecIx) :
    s.liveHolder x = some i ↔ ((s.record i).state.live = true ∧ (s.record i).serial = x) ∧
      ∀ k < i, ¬((s.record k).state.live = true ∧ (s.record k).serial = x) := by
  unfold State.liveHolder allRecords
  rw [← Fin.find?_eq_find?_finRange, Fin.find?_eq_some_iff]
  simp

/-- The lowest HELD or FAILED holder of a serial (R23). -/
theorem State.stoppedHolder_eq_some (x : Serial) (i : RecIx) :
    s.stoppedHolder x = some i ↔ (((s.record i).state = .held ∨ (s.record i).state = .failed) ∧ (s.record i).serial = x) ∧
      ∀ k < i, ¬(((s.record k).state = .held ∨ (s.record k).state = .failed) ∧ (s.record k).serial = x) := by
  unfold State.stoppedHolder allRecords
  rw [← Fin.find?_eq_find?_finRange, Fin.find?_eq_some_iff]
  simp

/-- No HELD or FAILED record holds the serial. -/
theorem State.stoppedHolder_eq_none (x : Serial) :
    s.stoppedHolder x = none ↔ ∀ k, ¬(((s.record k).state = .held ∨ (s.record k).state = .failed) ∧ (s.record k).serial = x) := by
  unfold State.stoppedHolder allRecords
  rw [← Fin.find?_eq_find?_finRange, Fin.find?_eq_none_iff]
  simp

/-! ### A reappearance -/

/-- What abandonment leaves stands though record `i`, the control list and the events change after it. -/
theorem abandoned_of_later {w t : State} {i : RecIx} (h : Abandoned s w i) (hr : ∀ k, k ≠ i → t.record k = w.record k)
    (ht : t = { w with
      records := t.records, evw := t.evw, counters := t.counters, dsq := { w.dsq with control := t.dsq.control } }) :
    Abandoned s t i := by
  have hreply : t.dsq.reply = w.dsq.reply := by rw [ht]
  have hwindow : t.dsq.window = w.dsq.window := by rw [ht]
  obtain ⟨rgu, ltu, links, brx, pex, bpt⟩ : t.rgu = w.rgu ∧ t.ltu = w.ltu ∧ t.links = w.links ∧ t.brx = w.brx ∧
      t.pex = w.pex ∧ t.bpt = w.bpt := by rw [ht]; and_intros <;> rfl
  obtain ⟨header, dsu, pct, sram, pending⟩ : t.header = w.header ∧ t.dsu = w.dsu ∧ t.pct = w.pct ∧ t.sram = w.sram ∧
      t.pending = w.pending := by rw [ht]; and_intros <;> rfl
  clear ht
  constructor
  · exact hreply.trans h.reply
  · exact fun hg => hwindow.trans (h.windowGone hg)
  · exact fun h1 h2 => hwindow.trans (h.windowKept h1 h2)
  · exact rgu.trans h.rgu
  · rw [ltu, links]; exact h.quiet
  · rw [ltu, links]; exact h.quietKept
  · rw [ltu]; exact h.bookings
  · exact armDropped_congr h.arm rfl rfl (by rw [ltu]) brx (fun _ => Iff.rfl)
  · intro hn
    obtain ⟨a, b, d⟩ := h.noChannel hn
    exact ⟨pex.trans a, bpt.trans b, fun k hk => (hr k hk).trans (d k hk)⟩
  · intro ch hn hl
    obtain ⟨a, b, d⟩ := h.freed ch hn hl
    exact ⟨pex.trans a, bpt.trans b, fun k hk => (hr k hk).trans (d k hk)⟩
  · intro ch k ws hn hl
    obtain ⟨⟨a1, a2, a3⟩, b, d⟩ := h.passedOn ch k ws hn hl
    have hk : k ≠ i := by
      have : k ∈ waitingWithout s i := by rw [hl]; simp
      simp [waitingWithout] at this
      exact this.2
    exact ⟨⟨(hr k hk).trans a1, by rw [pex]; exact a2, bpt.trans a3⟩, (by rw [pex]; exact b),
      fun m hm hm' => (hr m hm).trans (d m hm hm')⟩
  · obtain ⟨k1, k2, k3, k4, k5⟩ := h.kept
    exact ⟨header.trans k1, dsu.trans k2, pct.trans k3, sram.trans k4, pending.trans k5⟩

/-- The record that receives a channel is known without the fields a sighting changes. -/
theorem passEvents_congr {t : State} {i : RecIx} (hp : t.pex = s.pex) (htag : ∀ k, (t.record k).tag = (s.record k).tag) :
    passEvents t i = passEvents s i := by
  simp only [passEvents, waitingWithout, State.channelOf_congr s (by rw [hp] : t.pex.chans = s.pex.chans), hp, htag]

/-- A record reappears (R22): its work is abandoned, REAPPEAR is raised, and it is ASSIGNED anew with its ASSIGN queued. -/
theorem State.reappear_spec (i : RecIx) (conv : Conv) (resp : Nat) :
    let t := s.reappear i conv resp
    let r := s.record i
    Abandoned s t i ∧ t.record i = (r.reappeared conv resp).moveTo .assigned s.ltu.cycle ∧
    t.dsq.control = s.dsq.control.filter (fun e => decide (e.index ≠ i)) ++ [{ index := i, kind := .assign }] ∧
    t.dsq.urgent = s.dsq.urgent ∧
    EventsRaised s t (passEvents s i ++ [{ kind := .reappear, index := BitVec.ofNat 8 i.val, detail0 := actCode r.state
                                           detail1 := 0, value := r.tag }, recordEvent i .assigned .reappear r.tag]) := by
  obtain ⟨h1, h2, h3, h4, h5⟩ := s.abandonWork_spec i
  have cycle : (s.abandonWork i).ltu.cycle = s.ltu.cycle := by rw [h1.bookings]
  intro t r
  generalize hx : ({ kind := .reappear, index := BitVec.ofNat 8 i.val, detail0 := actCode r.state, detail1 := 0
                     value := r.tag } : Raise) = again
  have ht : t = ((((s.abandonWork i).raise again).onRecord i (fun r => r.reappeared conv resp)).enter i .assigned .reappear).appendControl
      i .assign := by rw [← hx]; rfl
  clear_value t
  generalize s.abandonWork i = w at *
  have hrec : (w.raise again).record i = r := (State.record_raise w again i).trans h2
  rw [State.onRecord_enter, hrec] at ht
  have frame : (w.raise again).records = w.records ∧ (w.raise again).ltu = w.ltu := by simp
  refine ⟨abandoned_of_later s h1 (fun k hk => ?_) ?_, ?_, ?_, ?_, ?_⟩
  · rw [ht]
    show (State.raise _ _).record k = _
    rw [State.record_raise]
    exact ((State.record_onRecord _ i k (fun _ => _)).trans (if_neg hk)).trans (State.record_raise w again k)
  · rw [ht, State.raise_eq, w.raise_eq]
    rfl
  · rw [ht]
    show (State.raise _ _).record i = _
    rw [State.record_raise]
    refine ((State.record_onRecord _ i i (fun _ => _)).trans (if_pos rfl)).trans ?_
    rw [frame.2, cycle]
  · rw [ht]
    simp [State.appendControl, h3]
  · rw [ht]
    simp [State.appendControl, h4]
  · have e1 : EventsRaised w (w.raise again) [again] := ⟨rfl, rfl⟩
    have e2 : EventsRaised (w.raise again) t [recordEvent i .assigned .reappear r.tag] := by
      rw [ht]
      exact State.raise_congr _ rfl rfl rfl rfl
    have e3 := events_trans e1 e2 (by rw [frame.2]) (by simp)
    exact events_trans h5 e3 cycle h1.kept.2.2.1

/-- In service, or in activation with its ASSIGN taken, a record that is heard reappears (R22). -/
theorem State.helloLive_again {i : RecIx} (conv : Conv) (resp : Nat) (h : (s.record i).state = .inService ∨
    ((s.record i).state.inActivation = true ∧ ((s.record i).state = .assigned → (s.record i).assignTaken = true))) :
    s.helloLive i conv resp = (s.onRecord i (fun r => r.sighted s.ltu.cycle)).reappear i conv resp := by
  unfold State.helloLive
  dsimp only
  obtain hst | ⟨hst, taken⟩ := h
  · rw [hst]
  · cases hs : (s.record i).state with
    | assigned => exact if_pos (taken hs)
    | ranging | equalized | profiling | settling | committing | inService => rfl
    | empty | awaiting | releasing | held | failed => rw [hs] at hst; cases hst

end Sys2Proof.Machine

namespace Sys2Proof.Proofs

open Sys2Proof.Machine Sys2Proof.Safety

/-- Settles O45. -/
theorem helloMatched : Obligations.HelloMatched := by
  intro s x conv resp i hlive hser hlow r up seen u
  have hmatch : s.matchHello x conv resp = s.helloLive i conv resp := by
    unfold State.matchHello
    rw [(s.liveHolder_eq_some x i).2 ⟨⟨hlive, hser⟩, hlow⟩]
  have hu : s.onRecord i (fun r => r.sighted s.ltu.cycle) = u := rfl
  have hui : u.record i = seen := (State.record_onRecord s i i (fun r => r.sighted s.ltu.cycle)).trans (if_pos rfl)
  refine ⟨fun hst => ?_, fun hst => ?_, fun hst => ?_⟩
  · rw [hmatch]
    unfold State.helloLive
    rw [show (s.record i).state = .awaiting from hst]
    dsimp only
    rw [State.onRecord_onRecord, State.onRecord_enter_of_ne _ i _ _ _ (fun hn => absurd (hst.symm.trans hn) (by decide)),
      State.appendControl_raise]
    rfl
  · rw [hmatch]
    unfold State.helloLive
    rcases hst with hst | ⟨hst, ha⟩
    · rw [show (s.record i).state = .releasing from hst]; rfl
    · rw [show (s.record i).state = .assigned from hst, show (s.record i).assignTaken = false from ha]; rfl
  · have again : s.matchHello x conv resp = u.reappear i conv resp := hmatch.trans (s.helloLive_again conv resp hst)
    intro t e
    obtain ⟨h1, h2, h3, h4, h5⟩ := u.reappear_spec i conv resp
    rw [← again] at h1 h2 h3 h4 h5
    have htag : ∀ k, (u.record k).tag = (s.record k).tag := by
      intro k
      by_cases hk : k = i
      · subst hk; rw [hui]
      · exact congrArg Record.tag ((State.record_onRecord s i k (fun r => r.sighted s.ltu.cycle)).trans (if_neg hk))
    rw [hui] at h2 h5
    rw [passEvents_congr s (t := u) rfl htag] at h5
    exact ⟨h1, h2, h3, h4, eventsRaised_congr h5 rfl rfl rfl rfl⟩

end Sys2Proof.Proofs
end

section
set_option Elab.async false
/-! A HELLO that no live record holds. -/

namespace Sys2Proof.Machine

open Sys2Proof.Safety

variable (s : State)

/-! ### The filters -/

/-- A maker matches a filter exactly where it agrees with the value on every bit of the mask (R40). -/
theorem masked_eq_iff (maker value mask : Word) :
    maker &&& mask = value &&& mask ↔ ∀ b < 32, mask.getLsbD b = true → maker.getLsbD b = value.getLsbD b := by
  constructor
  · intro h b _ hm
    have := congrArg (fun w => BitVec.getLsbD w b) h
    simpa [hm] using this
  · intro h
    refine BitVec.eq_of_getLsbD_eq fun b hb => ?_
    cases hm : mask.getLsbD b with
    | true => simp [hm, h b hb hm]
    | false => simp [hm]

theorem makerMatches_iff (on : Byte) (value mask maker : Word) :
    makerMatches on value mask maker = true ↔
      on ≠ 0 ∧ ∀ b < 32, mask.getLsbD b = true → maker.getLsbD b = value.getLsbD b := by
  simp only [makerMatches, isOn, Bool.and_eq_true, decide_eq_true_eq, masked_eq_iff]

/-- The maker test (R40). -/
theorem Header.makerPasses_iff (h : Header) (maker : Word) :
    h.makerPasses maker = true ↔ (h.filterAOn = 0 ∧ h.filterBOn = 0) ∨
      (h.filterAOn ≠ 0 ∧ ∀ b < 32, h.filterAMask.getLsbD b = true → maker.getLsbD b = h.filterAValue.getLsbD b) ∨
      (h.filterBOn ≠ 0 ∧ ∀ b < 32, h.filterBMask.getLsbD b = true → maker.getLsbD b = h.filterBValue.getLsbD b) := by
  have off : ∀ b : Byte, (!isOn b) = true ↔ b = 0 := fun b => by simp [isOn]
  simp only [Header.makerPasses, Bool.or_eq_true, Bool.and_eq_true, makerMatches_iff, off, or_assoc]

/-- The range test (R40). -/
theorem Header.rangePasses_iff (h : Header) (unit : Word) :
    h.rangePasses unit = true ↔
      (h.rangeMode = 1 → h.rangeLower.toNat ≤ unit.toNat ∧ unit.toNat ≤ h.rangeUpper.toNat) ∧
      (h.rangeMode = 2 → unit.toNat < h.rangeLower.toNat ∨ h.rangeUpper.toNat < unit.toNat) := by
  unfold Header.rangePasses
  split
  · next h1 =>
    rw [h1]
    simp only [Bool.and_eq_true, decide_eq_true_eq, forall_const, iff_self_and]
    exact fun _ h => absurd h (by decide)
  · next h1 =>
    split
    · next h2 => simp [h2]
    · next h2 => exact ⟨fun _ => ⟨fun h => absurd h h1, fun h => absurd h h2⟩, fun _ => rfl⟩

/-! ### The park and the list -/

theorem State.parkSerial_eq (x : Serial) : s.parkSerial x = parked s x := rfl

/-- A stranger's sighting, by the filters and the list (R38, R44). -/
theorem State.listStranger_spec (x : Serial) (conv : Conv) (resp : Nat) :
    let passes := s.header.openDiscovery ≠ 0 ∧ s.header.filtersPass x = true
    (¬passes → s.listStranger x conv resp = s.count .strangersFiltered) ∧
    (passes → (∃ e ∈ s.dsu.strangers, e.serial = x) → s.listStranger x conv resp =
      s.setStrangers (s.dsu.strangers.map (fun e => if e.serial = x then e.seenAgain conv resp s.ltu.cycle else e))) ∧
    (passes → (∀ e ∈ s.dsu.strangers, e.serial ≠ x) → s.dsu.strangers.length < 32 → s.listStranger x conv resp =
      (s.setStrangers (s.dsu.strangers ++
        [{ serial := x, conv := conv, resp := resp, first := s.ltu.cycle, last := s.ltu.cycle, count := 1 }])).raise
        { kind := .stranger, index := 255, detail0 := BitVec.ofNat 8 (s.dsu.strangers.length + 1), detail1 := 0
          value := x.extractLsb' 0 32 }) ∧
    (passes → (∀ e ∈ s.dsu.strangers, e.serial ≠ x) → 32 ≤ s.dsu.strangers.length →
      s.listStranger x conv resp = s.count .strangersDropped) := by
  intro passes
  have gate : (isOn s.header.openDiscovery && s.header.filtersPass x) = true ↔ passes := by
    simp only [passes, isOn, Bool.and_eq_true, decide_eq_true_eq]
  have listed : s.dsu.strangers.any (fun e => decide (e.serial = x)) = true ↔ ∃ e ∈ s.dsu.strangers, e.serial = x := by
    simp
  unfold State.listStranger
  refine ⟨fun hp => ?_, fun hp hl => ?_, fun hp hn hroom => ?_, fun hp hn hfull => ?_⟩
  · rw [if_neg (fun h => hp (gate.1 h))]
  · rw [if_pos (gate.2 hp), if_pos (listed.2 hl)]
  · rw [if_pos (gate.2 hp), if_neg (fun h => (listed.1 h).elim fun e he => hn e he.1 he.2), if_pos (show _ < Config.strangerPlaces from hroom)]
    simp [State.setStrangers, noIndex, serialLow]
  · rw [if_pos (gate.2 hp), if_neg (fun h => (listed.1 h).elim fun e he => hn e he.1 he.2), if_neg (show ¬_ < Config.strangerPlaces from Nat.not_lt.2 hfull)]

end Sys2Proof.Machine

namespace Sys2Proof.Proofs

open Sys2Proof.Machine Sys2Proof.Safety

/-- Settles O46. -/
theorem strangerHeard : Obligations.StrangerHeard := by
  intro s x conv resp hnone up stopped maker unit agrees h passes
  have hlive : s.liveHolder x = none := State.liveHolder_none.2 hnone
  have pass : passes ↔ s.header.openDiscovery ≠ 0 ∧ s.header.filtersPass x = true := by
    simp only [Header.filtersPass, Bool.and_eq_true, Header.makerPasses_iff, Header.rangePasses_iff]
    exact Iff.rfl
  refine ⟨?_, fun hno => ?_⟩
  · intro i hi hlow noted
    unfold State.matchHello
    rw [hlive, (s.stoppedHolder_eq_some x i).2 ⟨hi, hlow⟩]
    rfl
  · have hmatch : s.matchHello x conv resp = parked (s.listStranger x conv resp) x := by
      unfold State.matchHello
      rw [hlive, (s.stoppedHolder_eq_none x).2 hno]
      rfl
    obtain ⟨filtered, again, listed, dropped⟩ := s.listStranger_spec x conv resp
    rw [hmatch, pass]
    exact ⟨fun hp => by rw [filtered hp]; rfl, fun hp he => by rw [again hp he]; rfl, fun hp hn hr => by rw [listed hp hn hr]; rfl,
      fun hp hn hf => by rw [dropped hp hn hf]; rfl⟩

end Sys2Proof.Proofs
end

section
set_option Elab.async false
/-! The outcomes of ranging, settling and profile delivery as the Record Table applies them. -/

namespace Sys2Proof.Machine

open Sys2Proof.Safety

variable (s : State)

/-! ### Counted attempts -/

/-- A counted attempt that has failed (R17, R20): ASSIGNED at the back of the ranging queue below RangeLimit, failed with reason RANGE at it
(log 37). -/
theorem State.countAttempt_spec (i : RecIx) (why : ChangeReason) (h : (s.record i).state ≠ .assigned) :
    let r := s.record i
    (r.rangeUsed + 1 < s.header.rangeLimit.toNat → s.countAttempt i why = State.raise
      { s with
        rgu := { s.rgu with
          queue := s.rgu.queue.filter (fun k => decide (k ≠ i)) ++ [i], settles := s.rgu.settles.set i none }
        records := s.records.set i { r with rangeUsed := r.rangeUsed + 1, state := .assigned, lastChange := s.ltu.cycle } }
      (recordEvent i .assigned why r.tag)) ∧
    (s.header.rangeLimit.toNat ≤ r.rangeUsed + 1 → s.countAttempt i why =
      State.fail { s with records := s.records.set i { r with rangeUsed := s.header.rangeLimit.toNat } } i .range) := by
  intro r
  refine ⟨fun hlt => ?_, fun hle => ?_⟩ <;> unfold State.countAttempt <;> dsimp only
  · rw [if_pos hlt]
    refine (State.onRecord_enter_of_ne (((s.leaveRanging i).setSettle i none).joinRanging i) i
      (fun r => { r with rangeUsed := min (r.rangeUsed + 1) s.header.rangeLimit.toNat }) .assigned why h).trans ?_
    rw [show min (((((s.leaveRanging i).setSettle i none).joinRanging i).record i).rangeUsed + 1) s.header.rangeLimit.toNat =
      r.rangeUsed + 1 from Nat.min_eq_left hlt.le]
    rfl
  · rw [if_neg (Nat.not_lt.2 hle)]
    unfold State.onRecord
    dsimp only
    rw [Nat.min_eq_right hle]
    rfl

/-- A failure reported for a record at work (R11). -/
theorem State.fail_spec (i : RecIx) (f : FailReason) (h : (s.record i).state ≠ .releasing) :
    Released s (s.fail i f) i .failed .failure (some f) :=
  s.release_spec i .failed .failure (some f) h

/-- The same where a field of the record has been written first. -/
theorem State.fail_set_spec (i : RecIx) (r : Record) (f : FailReason) (h : r.state ≠ .releasing) :
    let u : State := { s with records := s.records.set i r }
    Released u (u.fail i f) i .failed .failure (some f) :=
  State.fail_spec _ i f (by
    rw [show ({ s with records := s.records.set i r } : State).record i = r from
      (State.record_onRecord s i i (fun _ => r)).trans (if_pos rfl)]
    exact h)

/-! ### Which outcome is current -/

/-- A settle outcome is current while the settle state of a SETTLING record holds it (R25, log 33). -/
theorem State.settleCurrent_eq_some {i : RecIx} {x : Settle} {o : SettleOutcome} (hst : (s.record i).state = .settling)
    (hx : s.settle i = some x) (ho : x.report = some o) : s.settleCurrent i = some (x, o) := by
  unfold State.settleCurrent
  rw [if_pos hst, hx]
  simp [ho]

theorem State.settleCurrent_eq_none {i : RecIx}
    (h : (s.record i).state ≠ .settling ∨ ∀ x o, s.settle i = some x → x.report ≠ some o) : s.settleCurrent i = none := by
  unfold State.settleCurrent
  split
  · next hst =>
    split
    · next x hx =>
      rcases ho : x.report with _ | o
      · rfl
      · exact absurd ho (h.resolve_left (fun hn => hn hst) x o hx)
    · rfl
  · rfl

/-- A push outcome is current while its channel holds the ended push of a PROFILING record (R25). -/
theorem State.pushCurrent_eq_some {p : PushReport} {o : PushOutcome} (h : (s.record p.index).state = .profiling ∧
    (s.chan p.chan).index = p.index) (ho : (s.chan p.chan).stage = .reported o) : s.pushCurrent p = some o := by
  unfold State.pushCurrent
  rw [if_pos h, ho]

theorem State.pushCurrent_eq_none {p : PushReport} (h : ¬((s.record p.index).state = .profiling ∧
    (s.chan p.chan).index = p.index) ∨ ∀ o, (s.chan p.chan).stage ≠ .reported o) : s.pushCurrent p = none := by
  unfold State.pushCurrent
  split
  · next hc =>
    split
    · next o ho => exact absurd ho (h.resolve_left (fun hn => hn hc) o)
    all_goals rfl
  · rfl

/-! ### A push completed -/

/-- A channel freed beside an event. -/
theorem State.freeChannel_raise (ch : ChanIx) (e : Raise) : (s.raise e).freeChannel ch = (s.freeChannel ch).raise e :=
  s.raise_beside (f := fun t => t.freeChannel ch) (fun _ _ => by simp only [State.freeChannel_eq]; rfl) (by simp) (by simp) (by simp)
    (by simp) e

/-- A record's entry into SETTLING and the freeing of a channel are no matter to each other. -/
theorem State.freeChannel_enterSettling (ch : ChanIx) (i : RecIx) (why : ChangeReason) :
    (s.freeChannel ch).enterSettling i why = (s.enterSettling i why).freeChannel ch := by
  rw [State.enterSettling_eq, State.enterSettling_eq, State.freeChannel_raise]
  simp only [State.freeChannel_eq]
  rfl

/-- Record `i` with its profile delivered, in SETTLING at cycle `now` (R18, R19). -/
def profileSettled (r : Record) (now : Cycle) : Record :=
  { r with profileDelivered := true, trimSent := false, trimClamped := false, state := .settling, lastChange := now }

/-- The completion of a push for its record alone (R19, R67): SETTLING with a fresh settle state and its CONFIRM-ASK queued. -/
theorem State.profileDone_eq (i : RecIx) (hst : (s.record i).state = .profiling) :
    (s.onRecord i (fun r => { r with profileDelivered := true })).enterSettling i .profileDone = State.raise
      { s with
        records := s.records.set i (profileSettled (s.record i) s.ltu.cycle)
        rgu := { s.rgu with
          settles := s.rgu.settles.set i (some { found := 0, missed := 0, sum := 0, stage := .queued, report := none }) }
        dsq := { s.dsq with reply := s.dsq.reply ++ [{ index := i, kind := .confirmAsk }] } }
      (recordEvent i .settling .profileDone (s.record i).tag) := by
  have delivered : (s.onRecord i (fun r => { r with profileDelivered := true })).record i =
      { s.record i with profileDelivered := true } := (State.record_onRecord s i i _).trans (if_pos rfl)
  have moved : Record.moveTo { s.record i with profileDelivered := true, trimSent := false, trimClamped := false } .settling
      s.ltu.cycle = profileSettled (s.record i) s.ltu.cycle :=
    Record.moveTo_of_ne _ (fun hn => absurd (hst.symm.trans hn) (by decide))
  rw [State.enterSettling_eq, delivered, ← moved]
  simp only [State.onRecord, State.setRecord, Vector.set_set]

/-- A push completed: the record settles, its channel is freed, and goes to the record that waits first (R19, R81). -/
theorem State.applyPush_complete (i : RecIx) (ch : ChanIx) :
    s.applyPush i ch .complete =
      (((s.onRecord i (fun r => { r with profileDelivered := true })).enterSettling i .profileDone).freeChannel ch).grantWaiting ch :=
  congrArg (fun t : State => t.grantWaiting ch) (State.freeChannel_enterSettling _ ch i .profileDone)

end Sys2Proof.Machine

namespace Sys2Proof.Proofs

open Sys2Proof.Machine Sys2Proof.Safety

/-- Settles O50. -/
theorem rangingOutcome : Obligations.RangingOutcome := by
  refine ⟨fun s h => ?_, ?_⟩
  · show execRangingOutcome s = _
    unfold execRangingOutcome
    rw [h]
  · intro s p rest hp i r u left
    have hexec : exec .rangingOutcome s = if s.rangingCurrent p then .next (u.applyRanging i p.outcome) else .next u := by
      show execRangingOutcome s = _
      unfold execRangingOutcome
      rw [hp]
    have current : s.rangingCurrent p = true ↔ r.state = .ranging ∧ p.ident = s.rgu.ident := by
      simp [State.rangingCurrent, r, i]
    refine ⟨fun h => ?_, fun hst hid => ?_⟩
    · rw [hexec, if_neg]
      intro hc
      obtain ⟨a, b⟩ := current.1 hc
      exact h.elim (fun h => h a) (fun h => h b)
    · have hcur : exec .rangingOutcome s = .next (u.applyRanging i p.outcome) := by rw [hexec, if_pos (current.2 ⟨hst, hid⟩)]
      have hne : ∀ st, st ≠ .ranging → r.state ≠ st := fun st h e => h (e.symm.trans hst)
      rw [hcur]
      refine ⟨fun l coarse fine ho => ?_, fun why ho => ⟨fun hlt => ?_, fun hle => ?_⟩, fun ho => ?_⟩ <;> rw [ho]
      · refine congrArg _ ((congrArg (fun t => State.appendControl t i .equalize) (State.onRecord_enter_of_ne (u.leaveRanging i) i _ .equalized
          .ranged (hne .equalized (by decide)))).trans ?_)
        rw [State.appendControl_raise]
        rfl
      · exact congrArg _ ((u.countAttempt_spec i .attemptFailed (hne _ (by decide))).1 hlt)
      · refine ⟨_, rfl, ?_⟩
        show Released _ (u.countAttempt i .attemptFailed) _ _ _ _
        rw [(u.countAttempt_spec i .attemptFailed (hne _ (by decide))).2 hle]
        exact u.fail_set_spec i _ .range (hne _ (by decide))
      · exact ⟨_, rfl, u.fail_spec i .reach (hne _ (by decide))⟩

/-- Settles O52. -/
theorem settleOutcome : Obligations.SettleOutcome := by
  refine ⟨fun s h => ?_, ?_⟩
  · show execSettleOutcome s = _
    unfold execSettleOutcome
    rw [h]
  · intro s i rest hp r u
    refine ⟨fun h => ?_, fun x o hst hx ho => ?_⟩
    · show execSettleOutcome s = _
      unfold execSettleOutcome
      rw [hp]
      dsimp only
      rw [s.settleCurrent_eq_none h]
    · have hcur : exec .settleOutcome s = .next (u.applySettle i x o) := by
        show execSettleOutcome s = _
        unfold execSettleOutcome
        rw [hp]
        dsimp only
        rw [s.settleCurrent_eq_some hst hx ho]
      have hne : ∀ st, st ≠ .settling → r.state ≠ st := fun st h e => h (e.symm.trans hst)
      rw [hcur]
      refine ⟨?_, ?_, ?_, ?_⟩
      · rintro rfl
        exact ⟨_, rfl, u.fail_spec i .sum (hne _ (by decide))⟩
      · rintro avg coarse fine clamped rfl
        rfl
      · rintro avg rfl
        refine congrArg _ ((congrArg (fun t => State.appendControl t i .commit) (State.onRecord_enter_of_ne (u.setSettle i none) i
          (fun r => { r with lastDeviation := avg }) .committing .settled (hne .committing (by decide)))).trans ?_)
        rw [State.appendControl_raise]
        rfl
      · rintro avg rfl dev
        have hv : ∀ t : State, t = u.onRecord i (fun r => { r with lastDeviation := dev }) → t.record i = { r with lastDeviation := dev } :=
          fun t ht => ht ▸ (State.record_onRecord u i i _).trans (if_pos rfl)
        obtain ⟨v, hveq⟩ : ∃ v, v = u.onRecord i (fun r => { r with lastDeviation := dev }) := ⟨_, rfl⟩
        have happ : u.applySettle i x (.reRange avg) = v.countAttempt i .reRange := by rw [hveq]; rfl
        obtain ⟨below, atLimit⟩ := v.countAttempt_spec i .reRange (by rw [hv v hveq]; exact hne _ (by decide))
        rw [hv v hveq] at below atLimit
        rw [happ]
        refine ⟨fun hlt => ?_, fun hle => ⟨_, rfl, ?_⟩⟩
        · rw [below (by rw [hveq]; exact hlt), hveq]
          simp only [State.onRecord, State.setRecord, Vector.set_set]
          rfl
        · rw [atLimit (by rw [hveq]; exact hle), hveq]
          simp only [State.onRecord, State.setRecord, Vector.set_set]
          exact u.fail_set_spec i _ .range (hne _ (by decide))

/-- Settles O54. -/
theorem profileOutcome : Obligations.ProfileOutcome := by
  refine ⟨fun s h => ?_, ?_⟩
  · show execProfileOutcome s = _
    unfold execProfileOutcome
    rw [h]
  · intro s p rest hp i r u current settled opens
    have applied : ∀ o, current → (s.chan p.chan).stage = .reported o → exec .profileOutcome s = .next (u.applyPush i p.chan o) := by
      intro o hc ho
      show execProfileOutcome s = _
      unfold execProfileOutcome
      rw [hp]
      dsimp only
      rw [s.pushCurrent_eq_some hc ho]
    have atWork : current → (u.record i).state ≠ .releasing := fun hc hn => absurd (hc.1.symm.trans hn) (by decide)
    refine ⟨fun h => ?_, fun hc ho => ⟨fun hw => ?_, fun k ws hw hki => ?_⟩, fun hc ho => ⟨_, applied _ hc ho, u.fail_spec i .profile (atWork hc)⟩,
      fun hc ho => ⟨_, applied _ hc ho, u.fail_spec i .image (atWork hc)⟩⟩
    · show execProfileOutcome s = _
      unfold execProfileOutcome
      rw [hp]
      dsimp only
      rw [s.pushCurrent_eq_none h]
    · rw [applied _ hc ho, State.applyPush_complete, u.profileDone_eq i hc.1, State.freeChannel_raise,
        State.grantWaiting_none _ _ (by simpa [State.freeChannel_eq] using hw), State.freeChannel_eq]
      rfl
    · refine ⟨_, applied _ hc ho, ?_⟩
      rw [State.applyPush_complete, u.profileDone_eq i hc.1]
      generalize hv : State.raise _ _ = v
      have frame : v.header = s.header ∧ v.dsu = s.dsu ∧ v.rgu = { s.rgu with settles := opens } ∧ v.pex = u.pex ∧ v.ltu = s.ltu ∧
          v.brx = s.brx ∧ v.dsq = { s.dsq with reply := s.dsq.reply ++ [{ index := i, kind := .confirmAsk }] } ∧ v.pct = s.pct ∧
          v.bpt = s.bpt ∧ v.links = s.links ∧ v.sram = s.sram ∧ v.pending = s.pending := by
        rw [← hv]
        simp [u, opens]
      have vrec : ∀ m, v.record m = if m = i then settled else s.record m := fun m => by
        rw [← hv, State.record_raise]
        exact State.record_onRecord u i m (fun _ => settled)
      have vev : EventsRaised s v [recordEvent i .settling .profileDone r.tag] := by
        rw [← hv]
        exact State.raise_congr _ rfl rfl rfl rfl
      clear hv
      obtain ⟨fh, fdsu, frgu, fpex, fltu, fbrx, fdsq, fpct, fbpt, flinks, fsram, fpending⟩ := frame
      obtain ⟨g1, g2, g3, g4, g5⟩ := v.passChannel_spec p.chan k ws (by rw [fpex]; exact hw)
      have tframe : ((v.freeChannel p.chan).grantWaiting p.chan).header = v.header ∧
          ((v.freeChannel p.chan).grantWaiting p.chan).dsu = v.dsu ∧ ((v.freeChannel p.chan).grantWaiting p.chan).rgu = v.rgu ∧
          ((v.freeChannel p.chan).grantWaiting p.chan).ltu = v.ltu ∧ ((v.freeChannel p.chan).grantWaiting p.chan).brx = v.brx ∧
          ((v.freeChannel p.chan).grantWaiting p.chan).pct = v.pct ∧ ((v.freeChannel p.chan).grantWaiting p.chan).links = v.links ∧
          ((v.freeChannel p.chan).grantWaiting p.chan).sram = v.sram ∧
          ((v.freeChannel p.chan).grantWaiting p.chan).pending = v.pending := by simp
      generalize (v.freeChannel p.chan).grantWaiting p.chan = t at *
      obtain ⟨th, tdsu, trgu, tltu, tbrx, tpct, tlinks, tsram, tpending⟩ := tframe
      rw [vrec, if_neg hki] at g4
      refine ⟨granted_congr g1 (by rw [vrec, if_neg hki]; rfl) fpex fbpt (by rw [fltu]) rfl rfl rfl, g2, ?_, fun m hm hmk => ?_, ?_, ?_⟩
      · rw [g3 i (Ne.symm hki), vrec, if_pos rfl]
      · rw [g3 m hmk, vrec, if_neg hm]
      · calc t = { t with
              header := s.header, dsu := s.dsu, rgu := { s.rgu with settles := opens }, ltu := s.ltu, brx := s.brx
              dsq := { s.dsq with reply := s.dsq.reply ++ [{ index := i, kind := .confirmAsk }] }, pct := s.pct, links := s.links
              sram := s.sram, pending := s.pending } := by
                rw [← fh, ← fdsu, ← frgu, ← fltu, ← fbrx, ← fdsq, ← fpct, ← flinks, ← fsram, ← fpending, ← th, ← tdsu, ← trgu, ← tltu,
                  ← tbrx, ← g5, ← tpct, ← tlinks, ← tsram, ← tpending]
          _ = _ := rfl
      · exact events_trans vev g4 (by rw [fltu]) fpct

end Sys2Proof.Proofs
end

section
set_option Elab.async false
/-! A processor write to a window word, no hold being due: what passes to SRAM, which snapshots end, and where the word is offered. -/

namespace Sys2Proof.Machine

open Sys2Proof.Safety

variable (s : State)

/-! ### The window on the bus -/

/-- A window word's bus address lies in the window and names that word (R139). -/
theorem State.windowWord_busAddr (w : WinWord) : s.windowWord (s.busAddr w) = some w := by
  unfold State.windowWord State.busAddr
  rw [BitVec.extractLsb'_append_eq_left, BitVec.extractLsb'_append_eq_right, if_pos rfl]

/-- A write to a window word with no hold due (R138, R142, R149). -/
theorem State.accessWord_eq (w : WinWord) (data : Word) (be : Enables) (h : s.holdDue = false) :
    s.accessWord w data be = (written s (s.busAddr w) data be).windowWrite w data be := by
  have harb : s.arbiter = passed s := by
    unfold State.arbiter
    rw [h]
    rfl
  have hwin : (passed s).windowWord (s.busAddr w) = some w := s.windowWord_busAddr w
  show s.arbiter.busWrite (s.busAddr w) data be = _
  unfold State.busWrite
  rw [harb, hwin]
  rfl

/-- In OFF, with no load under way, the part takes no write (R143). -/
theorem State.windowWrite_off (w : WinWord) (data : Word) (be : Enables) (hp : s.pct.port = .off) (hl : s.pct.load = none) :
    s.windowWrite w data be = s := by
  unfold State.windowWrite State.loadHasRead
  rw [hp, hl]
  rfl

/-- In LOADING the copy takes a word that the load has read (R3, R143). -/
theorem State.windowWrite_loading (w : WinWord) (data : Word) (be : Enables) {n k : Nat} (hp : s.pct.port = .loading)
    (hl : s.pct.load = some n) (hk : loadStep w.toNat = some k) :
    s.windowWrite w data be = if k < n then s.storeSetup w.toNat data be else s := by
  unfold State.windowWrite State.loadHasRead
  rw [hp, hl, hk]
  simp only [PortState.overlay, decide_eq_true_eq, Bool.false_eq_true, if_false]

/-- In LOADING a word the load does not read is not taken (R143). -/
theorem State.windowWrite_unloaded (w : WinWord) (data : Word) (be : Enables) (hp : s.pct.port = .loading)
    (hk : loadStep w.toNat = none) : s.windowWrite w data be = s := by
  unfold State.windowWrite State.loadHasRead
  rw [hp, hk]
  rcases s.pct.load <;> rfl

/-- In the overlay states the write ends snapshots and is offered (R142). -/
theorem State.windowWrite_overlay (w : WinWord) (data : Word) (be : Enables) (ho : s.pct.port.overlay = true) :
    s.windowWrite w data be = (s.endSnapshots w).offerWrite w data be := by
  unfold State.windowWrite
  rw [if_pos ho]

/-! ### The port intent -/

@[simp] theorem byteOf_withLane0 (b : Byte) (high : BitVec 24) : byteOf (withLane0 b high) 0 = b :=
  BitVec.extractLsb'_append_eq_right

@[simp] theorem enableLane0_lane0 (he : BitVec 3) : (enableLane0 he).getLsbD 0 = true := BitVec.getLsbD_append

/-- Lane 0 enabled is lane 0 of the lanes enabled. -/
theorem and_one_of_lane0 {be : Enables} (h : be.getLsbD 0 = true) : be &&& 1 = 1 := by
  revert h
  revert be
  decide

/-- A port intent written reaches the header's copy (R161). -/
theorem Header.store_portIntent (h : Header) (data : Word) {be : Enables} (hb : be.getLsbD 0 = true) :
    h.store 0 data be = { h with portIntent := byteOf data 0 } := by
  simp only [Header.store, storeLane, hb, if_true, id]

/-- A write of a header word ends the header snapshot alone (R146). -/
theorem State.endSnapshots_headerWord (w : WinWord) (data : Word) (be : Enables) (hw : w.toNat < 128) :
    (written s (s.busAddr w) data be).endSnapshots w = headerWritten s w data be := by
  have hr : isRecordWord w = false := by
    unfold isRecordWord
    rw [decide_eq_false (by omega)]
    rfl
  unfold State.endSnapshots
  rw [hr, decide_eq_true hw]
  simp only [Bool.not_true, Bool.and_false, Bool.false_and, Bool.not_false, Bool.and_true]
  rfl

/-- The port intent as a write leaves it before it is acted on (R161). -/
def portIntentStored (s : State) (v : Byte) (high : BitVec 24) (he : BitVec 3) : State :=
  { headerWritten s 0 (withLane0 v high) (enableLane0 he) with header := { s.header with portIntent := v } }

/-- A port intent written in an overlay state is stored and acted on (R161). -/
theorem State.portIntent_overlay (v : Byte) (high : BitVec 24) (he : BitVec 3) (h : s.holdDue = false)
    (ho : s.pct.port.overlay = true) :
    s.accessWord 0 (withLane0 v high) (enableLane0 he) = (portIntentStored s v high he).actPortIntent := by
  have hne : enableLane0 he ≠ 0 := fun hz => by
    have := enableLane0_lane0 he
    rw [hz] at this
    cases this
  have hand : enableLane0 he &&& headerLanes 0 = 1 := and_one_of_lane0 (enableLane0_lane0 he)
  rw [s.accessWord_eq _ _ _ h, State.windowWrite_overlay (written s _ _ _) 0 _ _ ho, s.endSnapshots_headerWord 0 _ _ (by decide)]
  unfold State.offerWrite
  dsimp only
  rw [if_neg hne, if_pos (by decide), show (0 : WinWord).toNat = 0 from rfl, hand, if_neg (by decide)]
  show State.actPortIntent { headerWritten s 0 (withLane0 v high) (enableLane0 he) with
    header := s.header.store 0 (withLane0 v high) 1 } = _
  rw [s.header.store_portIntent _ (by decide), byteOf_withLane0]
  rfl

/-- A port intent written in OFF reaches SRAM alone (R143). -/
theorem State.portIntent_off (v : Byte) (high : BitVec 24) (he : BitVec 3) (h : s.holdDue = false) (hp : s.pct.port = .off)
    (hl : s.pct.load = none) :
    s.accessWord 0 (withLane0 v high) (enableLane0 he) = written s (s.busAddr 0) (withLane0 v high) (enableLane0 he) := by
  rw [s.accessWord_eq _ _ _ h]
  exact State.windowWrite_off _ _ _ _ hp hl

/-- A port intent written in LOADING is taken by the copy once the load has read its word, and not acted on (R143). -/
theorem State.portIntent_loading (v : Byte) (high : BitVec 24) (he : BitVec 3) {n : Nat} (h : s.holdDue = false)
    (hp : s.pct.port = .loading) (hl : s.pct.load = some n) :
    let bare := written s (s.busAddr 0) (withLane0 v high) (enableLane0 he)
    s.accessWord 0 (withLane0 v high) (enableLane0 he) =
      if 0 < n then { bare with header := { s.header with portIntent := v } } else bare := by
  intro bare
  have hstore : bare.storeSetup 0 (withLane0 v high) (enableLane0 he) = { bare with header := { s.header with portIntent := v } } := by
    show ({ bare with header := s.header.store 0 (withLane0 v high) (enableLane0 he) } : State) = _
    rw [s.header.store_portIntent _ (enableLane0_lane0 he), byteOf_withLane0]
  rw [s.accessWord_eq _ _ _ h, State.windowWrite_loading (written s _ _ _) 0 _ _ hp hl rfl]
  exact congrArg (fun t => if 0 < n then t else bare) hstore

/-! ### What acting on a port intent does -/

/-- Entry into CONFIG (R109, R163). -/
theorem State.enterConfig_eq : s.enterConfig = State.raise
    { s with pct := { s.pct with port := .config }, ltu := { s.ltu with map := [] } } (portEvent .config s.pct.refusal) := rfl

/-- What raising one event after another leaves depends only on what the Event Writer reads. -/
theorem State.foldl_raise_same (es : List Raise) : ∀ {u v : State}, u.evw = v.evw → u.counters = v.counters →
    u.ltu.cycle = v.ltu.cycle → u.pct.port.overlay = v.pct.port.overlay →
    (es.foldl State.raise u).evw = (es.foldl State.raise v).evw ∧ (es.foldl State.raise u).counters = (es.foldl State.raise v).counters := by
  induction es with
  | nil => exact fun h1 h2 _ _ => ⟨h1, h2⟩
  | cons e es ih =>
    intro u v h1 h2 h3 h4
    have h := v.raise_eq_of (t := u) e h1 h2 h3 h4
    exact ih (by rw [h]) (by rw [h]) (by simp [h3]) (by simp [h4])

/-- Events raised after events raised, the overlay state standing. -/
theorem events_append {s t u : State} {es fs : List Raise} (h1 : EventsRaised s t es) (h2 : EventsRaised t u fs)
    (h3 : t.ltu.cycle = s.ltu.cycle) (h4 : t.pct.port.overlay = s.pct.port.overlay) : EventsRaised s u (es ++ fs) := by
  have hcycle : (es.foldl State.raise s).ltu = s.ltu := foldl_keeps _ State.ltu (fun t a => by simp) es s
  have hpct : (es.foldl State.raise s).pct = s.pct := foldl_keeps _ State.pct (fun t a => by simp) es s
  obtain ⟨a, b⟩ := State.foldl_raise_same fs (u := t) (v := es.foldl State.raise s) h1.1 h1.2 (by rw [h3, hcycle]) (by rw [h4, hpct])
  unfold EventsRaised
  rw [List.foldl_append]
  exact ⟨h2.1.trans a, h2.2.trans b⟩

/-- Work ended is no matter of the event writer, the counters, the port, the header, SRAM, nor of what the memory side counts and holds. -/
theorem workEnded_congr {c t : State} (w : WorkEnded c t) (hc : c = { s with
    header := c.header, counters := c.counters, evw := c.evw, pct := c.pct, sram := c.sram
    bpt := { c.bpt with chanRequests := s.bpt.chanRequests } }) : WorkEnded s t := by
  rw [hc] at w
  exact ⟨w.records, w.quiet, w.link, w.dsq, w.dsu, w.rgu, w.pex, w.reads, w.captures⟩

theorem timelineEnded_congr {c t : State} {m : List Slot} (h : TimelineEnded c t m) (hltu : c.ltu = s.ltu) (hbrx : c.brx = s.brx) :
    TimelineEnded s t m :=
  ⟨by rw [← hltu]; exact h.1, armDropped_congr h.2 (by rw [hltu]) hbrx.symm rfl rfl (fun _ => by rw [hltu])⟩

/-- All activation work ends as the port enters a state (R24, R163): its PORT event, then those of the records that return. -/
theorem State.enterPort_portReturn {p : PortState} (ho : s.pct.port.overlay = true) (hp : p.overlay = true) :
    let t := (s.enterPort p).portReturn
    WorkEnded s t ∧ t.header = s.header ∧ t.sram = s.sram ∧ t.pct = { s.pct with port := p } ∧
    TimelineEnded s t (s.ltu.map.map (fun e => { e with use := .void })) ∧
    t.bpt = { s.bpt with chanRequests := t.bpt.chanRequests } ∧
    EventsRaised s t (portEvent p s.pct.refusal :: returnEvents s) := by
  have entered : s.enterPort p = { s with
      pct := { s.pct with port := p }, evw := (s.raise (portEvent p s.pct.refusal)).evw
      counters := (s.raise (portEvent p s.pct.refusal)).counters } :=
    s.raise_eq_of (t := { s with pct := { s.pct with port := p } }) _ rfl rfl rfl (hp.trans ho.symm)
  obtain ⟨w, ev, tl, tb⟩ := (s.enterPort p).portReturn_spec
  have frame : (s.enterPort p).portReturn.header = (s.enterPort p).header ∧ (s.enterPort p).portReturn.pct = (s.enterPort p).pct ∧
      (s.enterPort p).portReturn.sram = (s.enterPort p).sram := by simp
  have ret : returnEvents (s.enterPort p) = returnEvents s := by rw [entered]; rfl
  have first : EventsRaised s (s.enterPort p) [portEvent p s.pct.refusal] := by rw [entered]; exact ⟨rfl, rfl⟩
  generalize (s.enterPort p).portReturn = t at *
  generalize s.enterPort p = c at *
  have hbpt : c.bpt = s.bpt := by rw [entered]
  have hltu : c.ltu = s.ltu := by rw [entered]
  have hpct : c.pct = { s.pct with port := p } := by rw [entered]
  refine ⟨workEnded_congr s w (by rw [entered]), frame.1.trans (by rw [entered]), frame.2.2.trans (by rw [entered]),
    frame.2.1.trans hpct, ?_, by rw [tb, hbpt], ?_⟩
  · have := timelineEnded_congr s tl hltu (by rw [entered])
    rwa [hltu] at this
  · have := events_append first ev (by rw [hltu]) (by rw [hpct]; exact hp.trans ho.symm)
    rwa [ret] at this

/-- DRAINING starts (R163): the work ends, and with the urgent list empty the port passes on to CONFIG at once. -/
theorem State.startDraining_spec (ho : s.pct.port.overlay = true) :
    let t := s.startDraining
    WorkEnded s t ∧ t.header = s.header ∧ t.sram = s.sram ∧
    t.pct = { s.pct with port := if s.dsq.urgent = [] then .config else .draining } ∧
    TimelineEnded s t (if s.dsq.urgent = [] then [] else s.ltu.map.map (fun e => { e with use := .void })) ∧
    t.bpt = { s.bpt with chanRequests := t.bpt.chanRequests } ∧
    EventsRaised s t (portEvent .draining s.pct.refusal :: returnEvents s
      ++ (if s.dsq.urgent = [] then [portEvent .config s.pct.refusal] else [])) := by
  obtain ⟨w, hh, hs, hp, tl, tb, ev⟩ := s.enterPort_portReturn (p := .draining) ho rfl
  have hd : ((s.enterPort .draining).portReturn).drained = true ↔ s.dsq.urgent = [] := by
    simp [State.drained, w.dsq, w.quiet]
  intro t
  have ht : t = if ((s.enterPort .draining).portReturn).drained = true then
      ((s.enterPort .draining).portReturn).enterConfig else (s.enterPort .draining).portReturn := rfl
  clear_value t
  generalize (s.enterPort .draining).portReturn = u at *
  by_cases hu : s.dsq.urgent = []
  · rw [if_pos (hd.2 hu), State.enterConfig_eq,
      u.raise_eq_of (t := { u with pct := { u.pct with port := .config }, ltu := { u.ltu with map := [] } }) _ rfl rfl rfl
        (by rw [hp]; rfl), hp] at ht
    simp only [if_pos hu]
    subst ht
    refine ⟨⟨w.records, w.quiet, w.link, w.dsq, w.dsu, w.rgu, w.pex, w.reads, w.captures⟩, hh, hs, rfl, ⟨?_, ?_⟩, tb, ?_⟩
    · show ({ u.ltu with map := [] } : Ltu) = _
      rw [tl.1]
    · exact armDropped_congr tl.2 rfl rfl rfl rfl (fun _ => Iff.rfl)
    · exact events_append ev ⟨rfl, rfl⟩ (by rw [tl.1]) (by rw [hp]; exact ho.symm)
  · rw [if_neg (fun h => hu (hd.1 h))] at ht
    simp only [if_neg hu, List.append_nil]
    subst ht
    exact ⟨w, hh, hs, hp, tl, tb, ev⟩

end Sys2Proof.Machine
end

section
set_option Elab.async false
/-! Writes to the setup words of a record, and the port intent as the port acts on it. -/

namespace Sys2Proof.Machine

open Sys2Proof.Safety

variable (s : State)

/-! ### Words of a record -/

theorem setupWordOf_toNat (i : RecIx) {k : Nat} (hk : k < 16) : (setupWordOf i k).toNat = 256 + 16 * i.val + k := by
  unfold setupWordOf
  rw [BitVec.toNat_ofNat]
  exact Nat.mod_eq_of_lt (by omega)

/-- The record whose word it is (R1). -/
theorem recordOfWord_setupWordOf (i : RecIx) {k : Nat} (hk : k < 16) : recordOfWord (setupWordOf i k) = i := by
  unfold recordOfWord recordOf
  refine Fin.ext ?_
  simp only [setupWordOf_toNat i hk]
  omega

theorem isRecordWord_setupWordOf (i : RecIx) {k : Nat} (hk : k < 16) : isRecordWord (setupWordOf i k) = true := by
  unfold isRecordWord
  rw [setupWordOf_toNat i hk]
  simp
  omega

/-- The step of the load that reads a setup word of a record (R160). -/
theorem loadStep_setupWordOf (i : RecIx) {k : Nat} (hk : k < 4) : loadStep (setupWordOf i k).toNat = some (79 + 4 * i.val + k) := by
  unfold loadStep
  rw [setupWordOf_toNat i (by omega), if_neg (by omega), if_neg (by omega), if_neg (by omega), if_neg (by omega),
    if_pos (by omega)]
  exact congrArg some (by omega)

/-- The load reads no live word (R160). -/
theorem loadStep_liveWord (i : RecIx) {k : Nat} (h4 : 4 ≤ k) (hk : k < 16) : loadStep (setupWordOf i k).toNat = none := by
  unfold loadStep
  rw [setupWordOf_toNat i hk, if_neg (by omega), if_neg (by omega), if_neg (by omega), if_neg (by omega), if_neg (by omega)]

/-- A write of a record's word ends the snapshot of that record alone (R145). -/
theorem State.endSnapshots_recordWord (i : RecIx) {k : Nat} (hk : k < 16) (data : Word) (be : Enables) :
    (written s (s.busAddr (setupWordOf i k)) data be).endSnapshots (setupWordOf i k) = recordWritten s i k data be := by
  have hn : ¬(setupWordOf i k).toNat < 128 := by rw [setupWordOf_toNat i hk]; omega
  have hi : decide (i = s.bpt.snapIndex) = decide (s.bpt.snapIndex = i) := decide_eq_decide.2 eq_comm
  unfold State.endSnapshots recordWritten
  rw [isRecordWord_setupWordOf i hk, recordOfWord_setupWordOf i hk, decide_eq_false hn]
  simp only [Bool.true_and, Bool.not_false, Bool.and_true]
  show ({ written s _ data be with bpt := { (passed s).bpt with snapHeld := s.bpt.snapHeld && !decide (i = s.bpt.snapIndex) } } : State) = _
  rw [hi]

/-- A write that enables a byte of a setup word is offered to the record (R142). -/
theorem State.offerWrite_record (i : RecIx) {k : Nat} (hk : k < 4) (data : Word) {be : Enables} (hb : be ≠ 0) :
    s.offerWrite (setupWordOf i k) data be = s.writeRecord i k data be := by
  unfold State.offerWrite
  dsimp only
  rw [if_neg hb, recordOfWord_setupWordOf i (by omega), setupWordOf_toNat i (by omega), if_neg (by omega), if_neg (by omega),
    if_neg (by omega), if_neg (by omega), if_pos (by omega), if_pos (by omega), show (256 + 16 * i.val + k) % 16 = k by omega]

/-- A write of a live word, or one that enables no byte, stores nothing (R142, log 28). -/
theorem State.offerWrite_nothing (i : RecIx) {k : Nat} (hk : k < 16) (data : Word) {be : Enables} (h : 4 ≤ k ∨ be = 0) :
    s.offerWrite (setupWordOf i k) data be = s := by
  unfold State.offerWrite
  dsimp only
  split
  · rfl
  · next hb =>
    have h4 : 4 ≤ k := h.resolve_right hb
    rw [setupWordOf_toNat i hk, if_neg (by omega), if_neg (by omega), if_neg (by omega), if_neg (by omega), if_pos (by omega),
      if_neg (by omega)]

/-- A word of a record written in an overlay state (R142, R145). -/
theorem State.recordWrite_overlay (i : RecIx) {k : Nat} (hk : k < 16) (data : Word) (be : Enables) (h : s.holdDue = false)
    (ho : s.pct.port.overlay = true) :
    s.accessWord (setupWordOf i k) data be = (recordWritten s i k data be).offerWrite (setupWordOf i k) data be := by
  rw [s.accessWord_eq _ _ _ h, State.windowWrite_overlay (written s _ _ _) _ _ _ ho, s.endSnapshots_recordWord i hk]

/-- A word of a record written in OFF reaches SRAM alone (R143). -/
theorem State.recordWrite_off (i : RecIx) (k : Nat) (data : Word) (be : Enables) (h : s.holdDue = false) (hp : s.pct.port = .off)
    (hl : s.pct.load = none) :
    s.accessWord (setupWordOf i k) data be = written s (s.busAddr (setupWordOf i k)) data be := by
  rw [s.accessWord_eq _ _ _ h]
  exact State.windowWrite_off _ _ _ _ hp hl

/-- A live word written in LOADING reaches SRAM alone (R143). -/
theorem State.recordWrite_unloaded (i : RecIx) {k : Nat} (h4 : 4 ≤ k) (hk : k < 16) (data : Word) (be : Enables) (h : s.holdDue = false)
    (hp : s.pct.port = .loading) :
    s.accessWord (setupWordOf i k) data be = written s (s.busAddr (setupWordOf i k)) data be := by
  rw [s.accessWord_eq _ _ _ h]
  exact State.windowWrite_unloaded _ _ _ _ hp (loadStep_liveWord i h4 hk)

/-- A setup word written in LOADING is taken by the copy once the load has read it (R143). -/
theorem State.recordWrite_loading (i : RecIx) {k : Nat} (hk : k < 4) (data : Word) (be : Enables) {n : Nat} (h : s.holdDue = false)
    (hp : s.pct.port = .loading) (hl : s.pct.load = some n) :
    let bare := written s (s.busAddr (setupWordOf i k)) data be
    s.accessWord (setupWordOf i k) data be =
      if 79 + 4 * i.val + k < n then { bare with records := s.records.set i ((s.record i).store k data be) } else bare := by
  intro bare
  have hrec : recordOf ((256 + 16 * i.val + k - 256) / 16) = i := by
    have := recordOfWord_setupWordOf i (k := k) (by omega)
    rwa [recordOfWord, setupWordOf_toNat i (by omega)] at this
  have hstore : bare.storeSetup (setupWordOf i k).toNat data be =
      { bare with records := s.records.set i ((s.record i).store k data be) } := by
    unfold State.storeSetup
    rw [setupWordOf_toNat i (by omega), if_neg (by omega), if_neg (by omega), hrec, show (256 + 16 * i.val + k) % 16 = k by omega]
    rfl
  rw [s.accessWord_eq _ _ _ h, State.windowWrite_loading (written s _ _ _) _ _ _ hp hl (loadStep_setupWordOf i hk)]
  exact congrArg (fun t => if 79 + 4 * i.val + k < n then t else bare) hstore

/-! ### An intent written -/

/-- The states in which a record's setup fields may be written (R3). -/
theorem ActState.writable_iff (st : ActState) : st.writable = true ↔ st = .empty ∨ st = .held ∨ st = .failed := by
  cases st <;> simp [ActState.writable]

/-- A DISCARD in an overlay state (R152, R164). -/
theorem State.discard_overlay (x : Byte) (why : DiscardReason) (o : Nat) (ho : s.pct.port.overlay = true) :
    s.discard x why o = (s.count .discards).raise (discardEvent x why o) := by
  unfold State.discard
  rw [if_neg (by simp [ho])]
  rfl

/-- A write of word 0 that enables the intent (R3, R7): the word is taken as it stands at the write, then the intent is acted on in RUNNING
alone. -/
theorem State.writeRecord_intent (i : RecIx) (data : Word) {be : Enables} (hb : be.getLsbD 0 = true) (ho : s.pct.port.overlay = true) :
    (recordWritten s i 0 data be).writeRecord i 0 data be =
      if s.pct.port = .running then (intentStored s i data be).actIntent i else intentStored s i data be := by
  generalize hkept : (if (s.record i).state = .empty ∨ (s.record i).state = .held ∨ (s.record i).state = .failed then be else be &&& 1) = kept
  have hopen : (if ((recordWritten s i 0 data be).record i).state.writable then be else be &&& if (0 : Nat) = 0 then 0b0001 else 0) = kept := by
    rw [← hkept]
    refine if_congr (ActState.writable_iff _) rfl rfl
  have stored : (if kept = be then (recordWritten s i 0 data be).onRecord i (fun r => r.store 0 data kept)
      else ((recordWritten s i 0 data be).onRecord i (fun r => r.store 0 data kept)).discard (indexByte i) .state (recordOffset i + 4 * 0)) =
      intentStored s i data be := by
    unfold intentStored
    dsimp only
    rw [hkept, State.discard_overlay ((recordWritten s i 0 data be).onRecord i _) _ _ _ ho]
    rfl
  unfold State.writeRecord
  dsimp only
  rw [hopen, stored]
  refine if_congr ?_ rfl rfl
  exact ⟨fun h => h.2.2, fun h => ⟨rfl, hb, h⟩⟩

theorem ne_zero_of_lane0 {be : Enables} (hb : be.getLsbD 0 = true) : be ≠ 0 := fun h => by rw [h] at hb; cases hb

/-- A write that enables a record's intent, in an overlay state (R3, R7). -/
theorem State.intentWrite_overlay (i : RecIx) (data : Word) {be : Enables} (hb : be.getLsbD 0 = true) (h : s.holdDue = false)
    (ho : s.pct.port.overlay = true) :
    s.accessWord (intentWord i) data be =
      if s.pct.port = .running then (intentStored s i data be).actIntent i else intentStored s i data be := by
  rw [← s.writeRecord_intent i data hb ho]
  exact (s.recordWrite_overlay i (k := 0) (by decide) data be h ho).trans
    (State.offerWrite_record _ i (by decide) data (ne_zero_of_lane0 hb))

/-! ### Port intents acted on -/

/-- A CONFIG intent, by the port state (R161). -/
theorem State.actConfig_cases :
    (s.pct.port = .config ∨ s.pct.port = .draining → s.actConfig = s) ∧ (s.pct.port = .halted → s.actConfig = s.enterConfig) ∧
    (s.pct.port = .running → s.actConfig = s.startDraining) := by
  unfold State.actConfig
  refine ⟨fun h => ?_, fun h => by rw [h], fun h => by rw [h]⟩
  obtain h | h := h <;> rw [h]

/-- A RUN intent, by the port state (R161). -/
theorem State.actRun_cases :
    (s.pct.port = .config → s.actRun = s.validateRun) ∧ (s.pct.port = .draining → s.actRun = s.runFromDraining) ∧
    (s.pct.port = .running ∨ s.pct.port = .halted → s.actRun = s) := by
  unfold State.actRun
  refine ⟨fun h => by rw [h], fun h => by rw [h], fun h => ?_⟩
  obtain h | h := h <;> rw [h]

/-- A HALT intent, by the port state (R161). -/
theorem State.actHalt_cases :
    (s.pct.port = .config ∨ s.pct.port = .running ∨ s.pct.port = .draining → s.actHalt = s.halt) ∧
    (s.pct.port = .halted → s.actHalt = s) := by
  unfold State.actHalt
  refine ⟨fun h => ?_, fun h => by rw [h]⟩
  obtain h | h | h := h <;> rw [h]

/-- Entry into HALTED (R163). -/
theorem State.halt_spec (ho : s.pct.port.overlay = true) :
    let t := s.halt
    WorkEnded s t ∧ t.header = s.header ∧ t.sram = s.sram ∧ t.pct = { s.pct with port := .halted } ∧
    TimelineEnded s t (s.ltu.map.map (fun e => { e with use := .void })) ∧
    t.bpt = { s.bpt with chanRequests := t.bpt.chanRequests } ∧
    EventsRaised s t (portEvent .halted s.pct.refusal :: returnEvents s) := by
  unfold State.halt
  exact s.enterPort_portReturn (p := .halted) ho rfl

/-! ### RUN -/

/-- A byte clamped between two bytes (R49). -/
theorem clampByte_between (lo hi b : Byte) :
    clampByte lo.toNat hi.toNat b = if b.toNat < lo.toNat then lo else if hi.toNat < b.toNat then hi else b := by
  simp only [clampByte, BitVec.ofNat_toNat, BitVec.setWidth_eq]

/-- A RUN intent acted on in CONFIG (R162). -/
theorem State.validateRun_eq (hp : s.pct.port = .config) : s.validateRun = runActed s := by
  have target : s.targetOk = false ↔ ¬(16384 ≤ s.header.targetLoop.toNat ∧ s.header.targetLoop.toNat ≤ 524287) := by
    rw [← Bool.not_eq_true]
    simp only [State.targetOk, Bool.and_eq_true, decide_eq_true_eq]
    exact Iff.rfl
  have span : s.spanOk = false ↔ ¬(512 ≤ s.header.slotLen.toNat ∧ s.header.slotLen.toNat ≤ 4096 ∧ 1 ≤ s.header.slotCount.toNat ∧
      s.header.slotCount.toNat ≤ 8 ∧ s.header.spanStart.toNat + s.header.slotCount.toNat * s.header.slotLen.toNat ≤ 160000) := by
    rw [← Bool.not_eq_true]
    simp only [State.spanOk, Bool.and_eq_true, decide_eq_true_eq, and_assoc]
    exact Iff.rfl
  have refused : ∀ r, s.refuseRun r = State.raise { s with pct := { s.pct with refusal := r } } (portEvent .config r) := by
    intro r
    rw [← hp]
    rfl
  have entered : s.runFromConfig = allRecords.foldl State.actIntent
      ((State.raise { s with pct := { s.pct with port := .running, refusal := .clear } } (portEvent .running .clear)).zeroCounters.prepareDiscovery) :=
    rfl
  have frame := State.raise_frame { s with pct := { s.pct with port := .running, refusal := .clear } } (portEvent .running .clear)
  unfold State.validateRun runActed
  dsimp only
  rw [refused, refused, entered]
  refine if_congr target rfl (if_congr span rfl (congrArg (allRecords.foldl State.actIntent) ?_))
  obtain ⟨-, header, dsu, -, -, ltu, -⟩ := frame
  generalize State.raise _ _ = v at *
  unfold State.prepareDiscovery State.restartDiscovery State.zeroCounters Header.orderSpread
  dsimp only
  rw [header, dsu, ltu, clampByte_between]

/-- RUN from DRAINING (R162). -/
theorem State.runFromDraining_eq :
    let v := State.raise { s with pct := { s.pct with port := .running } } (portEvent .running s.pct.refusal)
    s.runFromDraining = allRecords.foldl State.actIntent
      { v with dsu := { s.dsu with base := s.ltu.cycle, deferral := 0, round := .idle, demand := false } } := by
  intro v
  have frame := State.raise_frame { s with pct := { s.pct with port := .running } } (portEvent .running s.pct.refusal)
  obtain ⟨-, -, dsu, -, -, ltu, -⟩ := frame
  have entered : s.runFromDraining = allRecords.foldl State.actIntent v.restartDiscovery := rfl
  rw [entered]
  unfold State.restartDiscovery
  rw [show v.dsu = s.dsu from dsu, show v.ltu = s.ltu from ltu]

end Sys2Proof.Machine

namespace Sys2Proof.Proofs

open Sys2Proof.Machine Sys2Proof.Safety

/-- Settles O8. -/
theorem portIntentConfig : Obligations.PortIntentConfig := by
  refine ⟨?_, fun s => ⟨?_, ?_⟩⟩
  · intro s high he hold u bare
    have acted : s.pct.port.overlay = true → exec (.portIntentConfig high he) s = .next u.actConfig :=
      fun ho => congrArg _ (s.portIntent_overlay 1 high he hold ho)
    refine ⟨fun hp hl => congrArg _ (s.portIntent_off 1 high he hold hp hl),
      fun n hp hl => congrArg _ (s.portIntent_loading 1 high he hold hp hl), fun hp => ?_, fun hp => ?_, fun hp => ?_⟩
    · exact (acted (by obtain hp | hp := hp <;> rw [hp] <;> rfl)).trans (congrArg _ (u.actConfig_cases.1 hp))
    · exact (acted (by rw [hp]; rfl)).trans (congrArg _ ((u.actConfig_cases.2.1 hp).trans u.enterConfig_eq))
    · have ho : s.pct.port.overlay = true := by rw [hp]; rfl
      refine ⟨u.startDraining, (acted ho).trans (congrArg _ (u.actConfig_cases.2.2 hp)), ?_⟩
      obtain ⟨w, hh, hs, hpct, tl, tb, ev⟩ := u.startDraining_spec ho
      exact ⟨workEnded_congr s w rfl, hh, hs, hpct, timelineEnded_congr s tl rfl rfl, tb, eventsRaised_congr ev rfl rfl rfl rfl⟩
  · intro hp hu hq
    show execDrainComplete s = _
    unfold execDrainComplete
    rw [if_pos ⟨hp, by simp [State.drained, hu, hq]⟩]
    exact congrArg _ s.enterConfig_eq
  · intro h
    show execDrainComplete s = _
    unfold execDrainComplete
    rw [if_neg]
    rintro ⟨hp, hd⟩
    simp only [State.drained, Bool.and_eq_true, decide_eq_true_eq] at hd
    exact h.elim (fun h => h hp) (fun h => h.elim (fun h => h hd.1) (fun h => h hd.2))

/-- Settles O9. -/
theorem portIntentRun : Obligations.PortIntentRun := by
  intro s high he hold u bare
  have acted : s.pct.port.overlay = true → exec (.portIntentRun high he) s = .next u.actRun :=
    fun ho => congrArg _ (s.portIntent_overlay 2 high he hold ho)
  refine ⟨fun hp hl => congrArg _ (s.portIntent_off 2 high he hold hp hl),
    fun n hp hl => congrArg _ (s.portIntent_loading 2 high he hold hp hl), fun hp => ?_, fun hp => ?_, fun hp => ?_, fun i n hp => ?_⟩
  · rw [acted (by rw [hp]; rfl), ← u.validateRun_eq hp, u.actRun_cases.1 hp]
  · exact (acted (by rw [hp]; rfl)).trans (congrArg _ ((u.actRun_cases.2.1 hp).trans u.runFromDraining_eq))
  · exact (acted (by obtain hp | hp := hp <;> rw [hp] <;> rfl)).trans (congrArg _ (u.actRun_cases.2.2 hp))
  · have write : s.accessWord (intentWord i) (withLane0 n high) (enableLane0 he) =
        (intentStored s i (withLane0 n high) (enableLane0 he)).actIntent i :=
      (s.intentWrite_overlay i _ (enableLane0_lane0 he) hold (by rw [hp]; rfl)).trans (if_pos hp)
    refine ⟨?_, ?_, ?_, fun _ => congrArg _ write⟩ <;> rintro rfl <;> exact congrArg _ write

/-- Settles O10. -/
theorem portIntentHalt : Obligations.PortIntentHalt := by
  intro s value high he hold h1 h2 u bare
  have acted : s.pct.port.overlay = true → exec (.portIntentHalt value high he) s = .next u.actHalt := by
    intro ho
    refine congrArg _ ((s.portIntent_overlay value high he hold ho).trans ?_)
    show u.actPortIntent = _
    unfold State.actPortIntent
    rw [if_neg h1, if_neg h2]
  refine ⟨fun hp hl => congrArg _ (s.portIntent_off value high he hold hp hl),
    fun n hp hl => congrArg _ (s.portIntent_loading value high he hold hp hl), fun hp => ?_, fun hp => ?_⟩
  · exact (acted (by rw [hp]; rfl)).trans (congrArg _ (u.actHalt_cases.2 hp))
  · have ho : s.pct.port.overlay = true := by obtain hp | hp | hp := hp <;> rw [hp] <;> rfl
    refine ⟨u.halt, (acted ho).trans (congrArg _ (u.actHalt_cases.1 hp)), ?_⟩
    obtain ⟨w, hh, hs, hpct, tl, tb, ev⟩ := u.halt_spec ho
    exact ⟨workEnded_congr s w rfl, hh, hs, hpct, timelineEnded_congr s tl rfl rfl, tb, eventsRaised_congr ev rfl rfl rfl rfl⟩

end Sys2Proof.Proofs
end

section
set_option Elab.async false
/-! The intents of a record as written and acted on, and the other setup fields of a record as written. -/

namespace Sys2Proof.Machine

open Sys2Proof.Safety

variable (s : State)

/-! ### The intent as stored -/

/-- What a write of word 0 leaves of the state, its intent not yet acted on. -/
theorem intentStored_frame (i : RecIx) (data : Word) (be : Enables) :
    let v := intentStored s i data be
    v.header = s.header ∧ v.dsu = s.dsu ∧ v.ltu = s.ltu ∧ v.pct = s.pct := by
  unfold intentStored
  dsimp only
  generalize (if (s.record i).state = .empty ∨ (s.record i).state = .held ∨ (s.record i).state = .failed then be else be &&& 1) = kept
  split
  · exact ⟨rfl, rfl, rfl, rfl⟩
  · simp only [State.raise_frame]
    exact ⟨rfl, rfl, rfl, rfl⟩

/-- The intent itself is stored in every state (R3). -/
theorem intentStored_intent (i : RecIx) (data : Word) {be : Enables} (hb : be.getLsbD 0 = true) :
    ((intentStored s i data be).record i).intent = byteOf data 0 := by
  have lane : ∀ kept : Enables, kept = be ∨ kept = be &&& 1 → ((s.record i).store 0 data kept).intent = byteOf data 0 := by
    rintro kept (rfl | rfl)
    · simp only [Record.store, storeLane, hb, if_true, id]
    · rw [and_one_of_lane0 hb]
      rfl
  have stored : ∀ kept : Enables, ({ recordWritten s i 0 data be with
      records := s.records.set i ((s.record i).store 0 data kept) } : State).record i = (s.record i).store 0 data kept :=
    fun kept => (State.record_onRecord s i i (fun _ => (s.record i).store 0 data kept)).trans (if_pos rfl)
  unfold intentStored
  dsimp only
  generalize hkept : (if (s.record i).state = .empty ∨ (s.record i).state = .held ∨ (s.record i).state = .failed then be else be &&& 1) = kept
  have hk : kept = be ∨ kept = be &&& 1 := by
    rw [← hkept]
    split
    · exact .inl rfl
    · exact .inr rfl
  split
  · rw [stored]; exact lane kept hk
  · rw [State.record_raise]
    exact (congrArg Record.intent (stored kept)).trans (lane kept hk)

/-- The stored intent acted on, by its value (R7). -/
theorem State.actIntent_cases (i : RecIx) :
    ((s.record i).intent = 0 → s.actIntent i = s.actVacant i) ∧ ((s.record i).intent = 1 → s.actIntent i = s.actAdmit i) ∧
    ((s.record i).intent = 2 → s.actIntent i = s.actHold i) ∧
    (3 ≤ ((s.record i).intent).toNat → s.actIntent i = (s.discard (indexByte i) .badIntent (recordOffset i)).actHold i) := by
  unfold State.actIntent
  refine ⟨fun h => by rw [if_pos h], fun h => ?_, fun h => ?_, fun h => ?_⟩
  · rw [if_neg (by rw [h]; decide), if_pos h]
  · rw [if_neg (by rw [h]; decide), if_neg (by rw [h]; decide), if_pos h]
  · have ne : ∀ b : Byte, b.toNat < 3 → (s.record i).intent ≠ b := fun b hb e => by rw [e] at h; omega
    rw [if_neg (ne 0 (by decide)), if_neg (ne 1 (by decide)), if_neg (ne 2 (by decide))]

/-! ### The intents, by the activation state -/

/-- An ADMIT, by the activation state (R8). -/
theorem State.actAdmit_cases (i : RecIx) :
    let st := (s.record i).state
    (st = .empty ∨ st = .held ∨ st = .failed → s.actAdmit i = s.admission i) ∧
    (st = .releasing → s.actAdmit i = s.redirect i .awaiting) ∧
    (st.inActivation = true ∨ st = .awaiting ∨ st = .inService → s.actAdmit i = s) := by
  unfold State.actAdmit
  cases (s.record i).state <;> simp [ActState.inActivation]

/-- A HOLD, by the activation state (R8). -/
theorem State.actHold_cases (i : RecIx) :
    let st := (s.record i).state
    (st = .empty ∨ st = .awaiting ∨ st = .failed → s.actHold i = s.enter i .held .intent) ∧
    (st = .held → s.actHold i = s) ∧ (st = .releasing → s.actHold i = s.redirect i .held) ∧
    (st.inActivation = true ∨ st = .inService → s.actHold i = s.release i .held .intent none) := by
  unfold State.actHold
  cases (s.record i).state <;> simp [ActState.inActivation]

/-- A VACANT, by the activation state (R8). -/
theorem State.actVacant_cases (i : RecIx) :
    let st := (s.record i).state
    (st = .awaiting ∨ st = .held ∨ st = .failed → s.actVacant i = s.enterEmpty i .intent) ∧
    (st = .empty → s.actVacant i = s) ∧ (st = .releasing → s.actVacant i = s.redirect i .empty) ∧
    (st.inActivation = true ∨ st = .inService → s.actVacant i = s.release i .empty .intent none) := by
  unfold State.actVacant
  cases (s.record i).state <;> simp [ActState.inActivation]

/-- A record at work is not RELEASING. -/
theorem ActState.not_releasing_of_work {st : ActState} (h : st.inActivation = true ∨ st = .inService) : st ≠ .releasing := by
  rintro rfl
  simp [ActState.inActivation] at h

/-- An admission refused (R9): the event names the lowest live holder of the serial. -/
theorem State.admission_refused (i k : RecIx) (hk : (s.record k).state.live = true ∧ (s.record k).serial = (s.record i).serial)
    (hlow : ∀ m < k, ¬((s.record m).state.live = true ∧ (s.record m).serial = (s.record i).serial)) :
    s.admission i = s.raise { kind := .admitRefused, index := BitVec.ofNat 8 i.val, detail0 := BitVec.ofNat 8 k.val, detail1 := 0
                              value := (s.record i).tag } := by
  unfold State.admission
  rw [(s.liveHolder_eq_some _ k).2 ⟨hk, hlow⟩]
  rfl

/-- An admission (R9, R39, R45): AWAITING with its activation fields cleared, off the stranger list, and an unpark queued or dropped. -/
theorem State.admission_admitted (i : RecIx) (hst : (s.record i).state ≠ .awaiting)
    (hno : ∀ k, ¬((s.record k).state.live = true ∧ (s.record k).serial = (s.record i).serial)) :
    let r := s.record i
    let w := State.raise { s with records := s.records.set i (admitted r s.ltu.cycle) } (recordEvent i .awaiting .intent r.tag)
    s.admission i = { w with
      dsu := { s.dsu with
        strangers := s.dsu.strangers.filter (fun e => decide (e.serial ≠ r.serial))
        parks := if s.header.parkRounds ≠ 0 ∧ s.dsu.parks.length < 16 then s.dsu.parks ++ [{ serial := r.serial, rounds := 0 }]
          else s.dsu.parks }
      counters := if s.header.parkRounds ≠ 0 ∧ 16 ≤ s.dsu.parks.length then w.counters.inc .parkDrops else w.counters } := by
  intro r w
  have hw : (s.onRecord i Record.clearActivation).enter i .awaiting .intent = w := s.onRecord_enter_of_ne i _ .awaiting .intent hst
  have hdsu : w.dsu = s.dsu := by simp [w]
  unfold State.admission
  rw [State.liveHolder_none.2 (fun k hl he => hno k ⟨hl, he⟩)]
  dsimp only
  rw [hw]
  clear_value w
  by_cases hp : s.header.parkRounds = 0
  · rw [if_pos hp]
    simp only [hp, ne_eq, not_true_eq_false, false_and, if_false]
    unfold State.unlist
    rw [hdsu]
  · rw [if_neg hp]
    unfold State.queuePark State.unlist State.count
    dsimp only
    rw [hdsu]
    by_cases hroom : s.dsu.parks.length < 16
    · simp only [hp, hroom, ne_eq, not_false_eq_true, true_and, if_true, Nat.not_le.2 hroom, if_false, Config.parkPlaces]
      rfl
    · simp only [hp, hroom, ne_eq, not_false_eq_true, true_and, if_true, Nat.not_lt.1 hroom, if_false, Config.parkPlaces]
      rfl

/-! ### The other setup fields -/

theorem and_one_of_no_lane0 {be : Enables} (h : be.getLsbD 0 = false) : be &&& 1 = 0#4 := by
  revert h
  revert be
  decide

theorem PortState.overlay_of_ne {p : PortState} (h : p ≠ .off ∧ p ≠ .loading) : p.overlay = true := by
  cases p <;> simp_all [PortState.overlay]

/-- Storing nothing changes nothing. -/
theorem State.onRecord_store_none (i : RecIx) (k : Nat) (data : Word) : s.onRecord i (fun r => r.store k data 0#4) = s := by
  simp only [State.onRecord, State.setRecord, Record.store_none]
  have : s.records.set i (s.record i) = s.records := Vector.set_getElem_self _
  rw [this]

/-- A write of setup fields other than the intent is stored in EMPTY, HELD and FAILED and discarded in the other states (R3). -/
theorem State.writeRecord_fields (i : RecIx) (k : Nat) (data : Word) {be : Enables} (hb : be ≠ 0) (hk : k = 0 → be.getLsbD 0 = false)
    (ho : s.pct.port.overlay = true) :
    ((s.record i).state = .empty ∨ (s.record i).state = .held ∨ (s.record i).state = .failed →
      s.writeRecord i k data be = s.onRecord i (fun r => r.store k data be)) ∧
    (¬((s.record i).state = .empty ∨ (s.record i).state = .held ∨ (s.record i).state = .failed) →
      s.writeRecord i k data be =
        (s.count .discards).raise (discardEvent (BitVec.ofNat 8 i.val) .state (1024 + 64 * i.val + 4 * k))) := by
  have quiet : ¬(k = 0 ∧ be.getLsbD 0 = true ∧ s.pct.port = .running) := fun h => by rw [hk h.1] at h; exact absurd h.2.1 (by decide)
  have none_kept : (be &&& if k = 0 then 0b0001 else 0) = (0#4 : Enables) := by
    by_cases h : k = 0
    · rw [if_pos h]
      exact and_one_of_no_lane0 (hk h)
    · rw [if_neg h]
      exact BitVec.and_zero
  unfold State.writeRecord
  dsimp only
  refine ⟨fun h => ?_, fun h => ?_⟩
  · rw [if_pos ((ActState.writable_iff _).2 h), if_pos rfl, if_neg quiet]
  · rw [if_neg (fun hw => h ((ActState.writable_iff _).1 hw)), if_neg quiet, none_kept, if_neg (fun e => hb e.symm),
      State.onRecord_store_none, s.discard_overlay _ _ _ ho]
    rfl

@[simp] theorem byteOf_word4_zero (b0 b1 b2 b3 : Byte) : byteOf (word4 b0 b1 b2 b3) 0 = b0 := BitVec.extractLsb'_append_eq_right

@[simp] theorem byteOf_word4_one (b0 b1 b2 b3 : Byte) : byteOf (word4 b0 b1 b2 b3) 1 = b1 :=
  (BitVec.extractLsb'_append_eq_of_le (by decide)).trans BitVec.extractLsb'_append_eq_right

@[simp] theorem byteOf_word4_two (b0 b1 b2 b3 : Byte) : byteOf (word4 b0 b1 b2 b3) 2 = b2 :=
  (BitVec.extractLsb'_append_eq_of_le (by decide)).trans
    ((BitVec.extractLsb'_append_eq_of_le (by decide)).trans BitVec.extractLsb'_append_eq_right)

@[simp] theorem byteOf_word4_three (b0 b1 b2 b3 : Byte) : byteOf (word4 b0 b1 b2 b3) 3 = b3 :=
  (BitVec.extractLsb'_append_eq_of_le (by decide)).trans
    ((BitVec.extractLsb'_append_eq_of_le (by decide)).trans BitVec.extractLsb'_append_eq_left)

/-- The word written is its lane 0 and its lanes above. -/
theorem withLane0_byteOf (data : Word) : withLane0 (byteOf data 0) (data.extractLsb' 8 24) = data := by
  have := extract_append_extract data 0 24 8
  simpa [withLane0, byteOf] using this

theorem enableLane0_extract {be : Enables} (h : be.getLsbD 0 = true) : enableLane0 (be.extractLsb' 1 3) = be := by
  revert h
  revert be
  decide

end Sys2Proof.Machine
end

section
set_option Elab.async false
/-! The intents of a record and its setup writes: the statements settled. -/

namespace Sys2Proof.Machine

open Sys2Proof.Safety

variable (s : State)

/-- A discovered, held or failed record's word as it reads after a write of one word (R2): the other words stand, a serial or tag word is
merged, and the profile index, N and K are put right. -/
structure FieldsStored (r r' : Record) (k : Fin 4) (data : Word) (be : Enables) : Prop where
  fields : r' = { r with
    profileIx := r'.profileIx, samples := r'.samples, settleCount := r'.settleCount, serial := r'.serial, tag := r'.tag }
  others : ∀ m : Fin 4, m ≠ k → r'.setupWord m.val = r.setupWord m.val
  merged : k ≠ 0 → r'.setupWord k.val = merge (r.setupWord k.val) data be
  lanes : k = 0 → r'.profileIx = storeLane r.profileIx data be 1 storeProfile ∧ r'.samples = storeLane r.samples data be 2 storeSamples ∧
    r'.settleCount = storeLane r.settleCount data be 3 storeSettleCount

/-- A setup word stored, the intent's lane not enabled (R2). -/
theorem fieldsStored_store (r : Record) (k : Fin 4) (data : Word) {be : Enables} (hb : k = 0 → be.getLsbD 0 = false) :
    FieldsStored r (r.store k.val data be) k data be := by
  fin_cases k
  · have hi : storeLane r.intent data be 0 id = r.intent := by unfold storeLane; rw [hb rfl]; rfl
    refine ⟨?_, ?_, fun h => absurd rfl h, fun _ => ⟨rfl, rfl, rfl⟩⟩
    · show ({ r with intent := storeLane r.intent data be 0 id, profileIx := _, samples := _, settleCount := _ } : Record) = _
      rw [hi]
      rfl
    · intro m hm
      fin_cases m
      · exact absurd rfl hm
      all_goals rfl
  · refine ⟨rfl, ?_, fun _ => BitVec.extractLsb'_append_eq_right, nofun⟩
    intro m hm
    fin_cases m
    · rfl
    · exact absurd rfl hm
    · exact BitVec.extractLsb'_append_eq_left
    · rfl
  · refine ⟨rfl, ?_, fun _ => BitVec.extractLsb'_append_eq_left, nofun⟩
    intro m hm
    fin_cases m
    · rfl
    · exact BitVec.extractLsb'_append_eq_right
    · exact absurd rfl hm
    · rfl
  · refine ⟨rfl, ?_, fun _ => rfl, nofun⟩
    intro m hm
    fin_cases m
    · rfl
    · rfl
    · rfl
    · exact absurd rfl hm

/-- The profile index as stored (R2). -/
theorem storeProfile_eq (b : Byte) : storeProfile b = if 16 ≤ b.toNat then 255 else b := by
  unfold storeProfile
  by_cases h : b.toNat ≤ 15
  · rw [if_pos h, if_neg (by omega)]
  · rw [if_neg h, if_pos (by omega)]

/-- The settle count as stored (R2). -/
theorem storeSettleCount_eq (b : Byte) : storeSettleCount b = if b.toNat ≤ 2 then 2 else if 8 < b.toNat then 8 else b := by
  unfold storeSettleCount clampByte
  by_cases h : b.toNat = 2
  · have hb : b = 2 := BitVec.eq_of_toNat_eq h
    rw [if_neg (by omega), if_neg (by omega), if_pos (by omega), hb]
  · by_cases h2 : b.toNat < 2
    · rw [if_pos h2, if_pos (by omega)]
      rfl
    · rw [if_neg h2, if_neg (show ¬b.toNat ≤ 2 by omega)]
      rfl

end Sys2Proof.Machine

namespace Sys2Proof.Proofs

open Sys2Proof.Machine Sys2Proof.Safety

/-- Settles O16. -/
theorem intentAdmit : Obligations.IntentAdmit := by
  intro s i high he hold hp v r holds
  have hexec : exec (.intentAdmit i high he) s = .next (v.actAdmit i) := by
    refine congrArg _ ((s.intentWrite_overlay i _ (enableLane0_lane0 he) hold (by rw [hp]; rfl)).trans ((if_pos hp).trans ?_))
    exact (v.actIntent_cases i).2.1 ((intentStored_intent s i _ (enableLane0_lane0 he)).trans (byteOf_withLane0 1 high))
  obtain ⟨header, dsu, ltu, -⟩ := intentStored_frame s i (withLane0 1 high) (enableLane0 he)
  obtain ⟨admits, redirect, ignore⟩ := v.actAdmit_cases i
  refine ⟨fun hst => ⟨fun k hk hlow => ?_, fun hno => ?_⟩, fun hst => ?_, fun hst => ?_⟩
  · rw [hexec, admits hst, v.admission_refused i k hk hlow]
  · have hne : r.state ≠ .awaiting := by
      rintro e
      obtain h | h | h := hst <;> cases h.symm.trans e
    rw [hexec, admits hst, v.admission_admitted i hne hno]
    show Host.Outcome.next _ = _
    rw [show v.dsu = s.dsu from dsu, show v.header = s.header from header, show v.ltu = s.ltu from ltu]
  · rw [hexec, redirect hst]
    rfl
  · rw [hexec, ignore hst]

/-- Settles O17. -/
theorem intentHold : Obligations.IntentHold := by
  intro s i high he hold hp v r
  have hexec : exec (.intentHold i high he) s = .next (v.actHold i) := by
    refine congrArg _ ((s.intentWrite_overlay i _ (enableLane0_lane0 he) hold (by rw [hp]; rfl)).trans ((if_pos hp).trans ?_))
    exact (v.actIntent_cases i).2.2.1 ((intentStored_intent s i _ (enableLane0_lane0 he)).trans (byteOf_withLane0 2 high))
  obtain ⟨-, -, ltu, -⟩ := intentStored_frame s i (withLane0 2 high) (enableLane0 he)
  obtain ⟨hold, ignore, redirect, release⟩ := v.actHold_cases i
  refine ⟨fun hst => ?_, fun hst => ?_, fun hst => ?_, fun hst => ?_⟩
  · have hne : r.state ≠ .held := by
      rintro e
      obtain h | h | h := hst <;> cases h.symm.trans e
    rw [hexec, hold hst, v.enter_raise, Record.moveTo_of_ne _ hne, show v.ltu = s.ltu from ltu]
  · rw [hexec, ignore hst]
  · rw [hexec, redirect hst]
    rfl
  · exact ⟨_, hexec.trans (congrArg _ (release hst)), v.release_spec i _ _ _ (ActState.not_releasing_of_work hst)⟩

/-- Settles O18. -/
theorem intentVacant : Obligations.IntentVacant := by
  intro s i high he hold hp v r
  have hexec : exec (.intentVacant i high he) s = .next (v.actVacant i) := by
    refine congrArg _ ((s.intentWrite_overlay i _ (enableLane0_lane0 he) hold (by rw [hp]; rfl)).trans ((if_pos hp).trans ?_))
    exact (v.actIntent_cases i).1 ((intentStored_intent s i _ (enableLane0_lane0 he)).trans (byteOf_withLane0 0 high))
  obtain ⟨-, -, ltu, -⟩ := intentStored_frame s i (withLane0 0 high) (enableLane0 he)
  obtain ⟨empty, ignore, redirect, release⟩ := v.actVacant_cases i
  refine ⟨fun hst => ?_, fun hst => ?_, fun hst => ?_, fun hst => ?_⟩
  · rw [hexec, empty hst, v.enterEmpty_eq, show v.ltu = s.ltu from ltu]
  · rw [hexec, ignore hst]
  · rw [hexec, redirect hst]
    rfl
  · exact ⟨_, hexec.trans (congrArg _ (release hst)), v.release_spec i _ _ _ (ActState.not_releasing_of_work hst)⟩

/-- Settles O19. -/
theorem intentKept : Obligations.IntentKept := by
  intro s i data be hold hb c
  have hexec : exec c s = .next (s.accessWord (intentWord i) data be) := by
    have lanes : ∀ b : Byte, byteOf data 0 = b → Host.Outcome.next (s.accessWord (intentWord i) (withLane0 b (data.extractLsb' 8 24))
        (enableLane0 (be.extractLsb' 1 3))) = (.next (s.accessWord (intentWord i) data be) : Result) := by
      rintro b rfl
      rw [withLane0_byteOf, enableLane0_extract hb]
    simp only [c]
    split
    · next h => exact lanes 0 h
    · split
      · next h => exact lanes 1 h
      · split
        · next h => exact lanes 2 h
        · rfl
  refine ⟨fun hp h3 => ?_, fun hp => ?_, fun hp hl => ?_, fun n hp hl => ?_⟩
  · refine congrArg _ ((s.intentWrite_overlay i data hb hold (by rw [hp]; rfl)).trans ((if_pos hp).trans ?_))
    rw [((intentStored s i data be).actIntent_cases i).2.2.2 (by rw [intentStored_intent s i data hb]; exact h3),
      State.discard_overlay]
    · rfl
    · rw [(intentStored_frame s i data be).2.2.2, hp]
      rfl
  · rw [hexec, s.intentWrite_overlay i data hb hold (by obtain hp | hp | hp := hp <;> rw [hp] <;> rfl), if_neg]
    obtain hp | hp | hp := hp <;> rw [hp] <;> decide
  · exact hexec.trans (congrArg _ (s.recordWrite_off i 0 data be hold hp hl))
  · exact hexec.trans (congrArg _ (s.recordWrite_loading i (k := 0) (by decide) data be hold hp hl))

/-- Settles O20. -/
theorem setupWriteRecord : Obligations.SetupWriteRecord := by
  intro s i data be hold r writes bare overlay fixed stores
  have stored : ∀ k : Fin 4, (k = 0 → be.getLsbD 0 = false) → stores k (r.store k.val data be) := by
    intro k hk
    obtain ⟨fields, others, merged, lanes⟩ := fieldsStored_store r k data hk
    refine ⟨fields, others, merged, fun h0 => ?_⟩
    obtain ⟨h1, h2, h3⟩ := lanes h0
    have lane : ∀ m, fixed m = if be.getLsbD m then byteOf data m else byteOf (r.setupWord 0) m := fun _ => rfl
    have old : byteOf (r.setupWord 0) 1 = r.profileIx ∧ byteOf (r.setupWord 0) 2 = r.samples ∧ byteOf (r.setupWord 0) 3 = r.settleCount :=
      ⟨byteOf_word4_one .., byteOf_word4_two .., byteOf_word4_three ..⟩
    rw [h1, h2, h3, lane, lane, lane, old.1, old.2.1, old.2.2]
    unfold storeLane
    refine ⟨?_, ?_, ?_⟩
    · by_cases hb : be.getLsbD 1 = true <;> simp only [hb, if_true, if_false, true_and, false_and, storeProfile_eq, Bool.false_eq_true]
    · by_cases hb : be.getLsbD 2 = true <;> simp only [hb, if_true, if_false, storeSamples, Bool.false_eq_true]
    · by_cases hb : be.getLsbD 3 = true <;> simp only [hb, if_true, if_false, storeSettleCount_eq, Bool.false_eq_true]
  refine ⟨fun k hne hk => ⟨fun ho hst => ?_, fun ho hst => ?_, fun n hp hl => ⟨fun hn => ?_, fun hn => ?_⟩⟩, fun k hk h ho => ?_,
    fun k hk h => ?_⟩
  · refine ⟨_, stored k hk, ?_⟩
    have ho' := PortState.overlay_of_ne ho
    have hk0 : k.val = 0 → be.getLsbD 0 = false := fun h => hk (Fin.ext h)
    refine congrArg _ ((s.recordWrite_overlay i (by omega) data be hold ho').trans ?_)
    exact (State.offerWrite_record _ i k.isLt data hne).trans
      ((State.writeRecord_fields (recordWritten s i k.val data be) i k.val data hne hk0 ho').1 hst)
  · have ho' := PortState.overlay_of_ne ho
    have hk0 : k.val = 0 → be.getLsbD 0 = false := fun h => hk (Fin.ext h)
    refine congrArg _ ((s.recordWrite_overlay i (by omega) data be hold ho').trans ?_)
    exact (State.offerWrite_record _ i k.isLt data hne).trans
      ((State.writeRecord_fields (recordWritten s i k.val data be) i k.val data hne hk0 ho').2 hst)
  · exact congrArg _ ((s.recordWrite_loading i k.isLt data be hold hp hl).trans (if_neg (by omega)))
  · exact ⟨_, stored k hk, congrArg _ ((s.recordWrite_loading i k.isLt data be hold hp hl).trans (if_pos hn))⟩
  · refine congrArg _ ((s.recordWrite_overlay i hk data be hold (PortState.overlay_of_ne ho)).trans ?_)
    exact State.offerWrite_nothing _ i hk data h
  · obtain ⟨hp, hl⟩ | ⟨h4, hp⟩ := h
    · exact congrArg _ (s.recordWrite_off i k data be hold hp hl)
    · exact congrArg _ (s.recordWrite_unloaded i h4 hk data be hold hp)

end Sys2Proof.Proofs
end

section
set_option Elab.async false
/-! The start-up load. -/

namespace Sys2Proof.Machine

open Sys2Proof.Safety

variable (s : State)

/-! ### The words of the load -/

/-- The header word that step `n` of the load reads (R160, log 10). -/
theorem loadWord_header {k : Nat} (h64 : k < 64) (h33 : k ≠ 33) :
    loadWord (if k < 33 then k else k - 1) = BitVec.ofNat 14 k ∧ (loadWord (if k < 33 then k else k - 1)).toNat = k := by
  have hw : loadWord (if k < 33 then k else k - 1) = BitVec.ofNat 14 k := by
    unfold loadWord
    by_cases h : k < 33
    · rw [if_pos h, if_pos h]
    · rw [if_neg h, if_neg (by omega), if_pos (by omega), show k - 1 + 1 = k by omega]
  refine ⟨hw, ?_⟩
  rw [hw, BitVec.toNat_ofNat]
  exact Nat.mod_eq_of_lt (by omega)

/-- The directory word that step `n` of the load reads (R160, log 10). -/
theorem loadWord_directory (p : DirIx) : (loadWord (63 + p.val)).toNat = 128 + 2 * p.val := by
  unfold loadWord
  rw [if_neg (by omega), if_neg (by omega), if_pos (by omega), BitVec.toNat_ofNat, show 63 + p.val - 63 = p.val by omega]
  exact Nat.mod_eq_of_lt (by omega)

/-- The record word that step `n` of the load reads (R160, log 10). -/
theorem loadWord_record (i : RecIx) (k : Fin 4) : (loadWord (79 + 4 * i.val + k.val)).toNat = 256 + 16 * i.val + k.val := by
  unfold loadWord
  rw [if_neg (by omega), if_neg (by omega), if_neg (by omega), if_pos (by omega), BitVec.toNat_ofNat,
    show (79 + 4 * i.val + k.val - 79) / 4 = i.val by omega, show (79 + 4 * i.val + k.val - 79) % 4 = k.val by omega]
  exact Nat.mod_eq_of_lt (by omega)

/-- A half written whole is as written (R166). -/
theorem storeHalf_whole (old : BitVec 16) (data : Word) :
    storeHalf old data 0b1111 0 id = data.extractLsb' 0 16 ∧ storeHalf old data 0b1111 2 id = data.extractLsb' 16 16 :=
  ⟨extract_append_extract data 0 8 8, extract_append_extract data 16 8 8⟩

theorem DirEntry.store_whole (e : DirEntry) (data : Word) :
    e.store data 0b1111 = { e with offset := data.extractLsb' 0 16, length := data.extractLsb' 16 16 } := by
  unfold DirEntry.store
  rw [(storeHalf_whole e.offset data).1, (storeHalf_whole e.length data).2]

/-! ### A word of the load served -/

/-- With no request above it, the load's read is served (R148, R160). -/
theorem State.loadRead_served {n : Nat} {w : WinWord} (h : LoadWaits s n w) :
    exec .loadRead s = .next (if n + 1 < 592 then (s.servedOne.storeSetup (loadWord n).toNat (s.sramWord w) 0b1111).placeLoad (n + 1)
      else (s.servedOne.storeSetup (loadWord n).toNat (s.sramWord w) 0b1111).completeLoad) := by
  obtain ⟨hp, he, hc, hl, hr⟩ := h
  have hf : s.firstChannelWaiting = none := by
    unfold State.firstChannelWaiting
    simp [hc]
  show execLoadRead s = _
  unfold execLoadRead
  rw [if_pos ⟨hp, he, hf⟩, hr]
  dsimp only
  refine congrArg _ ?_
  show s.servedOne.loadServed (s.sramWord w) = _
  unfold State.loadServed
  rw [show s.servedOne.pct.load = some n from hl]
  rfl

/-- A header word of the load but the two that do more than store it (R17, R156). -/
theorem State.storeSetup_header {k : Nat} (h64 : k < 64) (h33 : k ≠ 33) (h4 : k ≠ 4) (data : Word) (be : Enables) :
    s.storeSetup k data be = { s with header := s.header.store k data be } := by
  unfold State.storeSetup State.storeHeader
  rw [if_pos h64, if_neg h33]
  dsimp only
  rw [if_neg (fun h => h4 h.1)]

/-- A directory setup half of the load (R76). -/
theorem State.storeSetup_directory (p : DirIx) (data : Word) (be : Enables) :
    s.storeSetup (128 + 2 * p.val) data be = s.setDir p ((s.dirEntry p).store data be) := by
  have hp : dirOf ((128 + 2 * p.val - 128) / 2) = p := by
    refine Fin.ext ?_
    show (128 + 2 * p.val - 128) / 2 % 16 = p.val
    omega
  unfold State.storeSetup
  rw [if_neg (by omega), if_pos (by omega), hp]

/-- A record setup word of the load (R2). -/
theorem State.storeSetup_record (i : RecIx) (k : Fin 4) (data : Word) (be : Enables) :
    s.storeSetup (256 + 16 * i.val + k.val) data be = s.onRecord i (fun r => r.store k.val data be) := by
  have hi : recordOf ((256 + 16 * i.val + k.val - 256) / 16) = i := by
    refine Fin.ext ?_
    show (256 + 16 * i.val + k.val - 256) / 16 % 128 = i.val
    omega
  unfold State.storeSetup
  rw [if_neg (by omega), if_neg (by omega), hi, show (256 + 16 * i.val + k.val) % 16 = k.val by omega]

/-- A lowered RangeLimit lowers every record's attempts used (R17). -/
theorem State.record_lowerRangeUsed (i : RecIx) :
    s.lowerRangeUsed.record i = { s.record i with rangeUsed := min (s.record i).rangeUsed s.header.rangeLimit.toNat } := by
  simp [State.lowerRangeUsed, State.record]

/-- The port in CONFIG as the load ends, before the stored port intent is acted on (R160). -/
def loadEnded (s : State) (c : Byte) : State :=
  State.raise
    { s with
      pct := { s.pct with port := .config, load := none }
      evw := { s.evw with consumer := c, producer := c, written := [] }
      ltu := { s.ltu with map := [] }
      bpt := { s.bpt with consecutive := 0, loadRequest := none } }
    (portEvent .config s.pct.refusal)

/-- The last word of the load (R160). -/
theorem State.loadRead_last (h : LoadWaits s 591 33) :
    exec .loadRead s = .next (loadEnded s (byteOf (s.sramWord 33) 0)).actPortIntent.followInterrupt := by
  rw [s.loadRead_served h, if_neg (by decide)]
  rfl

end Sys2Proof.Machine

namespace Sys2Proof.Proofs

open Sys2Proof.Machine Sys2Proof.Safety

/-- Settles O7. -/
theorem loadRead : Obligations.LoadRead := by
  refine ⟨?_, ?_⟩
  · intro s n placed
    refine ⟨fun k h64 h33 h4 hn h => ?_, fun hn h => ?_, fun p hn h => ?_, fun i k hn h => ?_⟩
    · rw [s.loadRead_served h, if_pos (by split at hn <;> omega)]
      subst hn
      rw [(loadWord_header h64 h33).2, State.storeSetup_header _ h64 h33 h4]
      rfl
    · refine ⟨_, s.loadRead_served h, ?_⟩
      subst hn
      rw [if_pos (by decide)]
      exact ⟨rfl, fun i => State.record_lowerRangeUsed
        { s.servedOne with header := s.header.store 4 (s.sramWord 4) 0b1111 } i⟩
    · rw [s.loadRead_served h, if_pos (by omega)]
      subst hn
      rw [loadWord_directory, State.storeSetup_directory, DirEntry.store_whole]
      rfl
    · rw [s.loadRead_served h, if_pos (by omega)]
      subst hn
      rw [loadWord_record, State.storeSetup_record]
      rfl
  · intro s h c u
    have hheader : u.header = s.header := by simp [u]
    have hpct : u.pct = { s.pct with port := .config, load := none } := by simp [u]
    have hport : u.pct.port = .config := by rw [hpct]
    have hexec : exec .loadRead s = .next u.actPortIntent.followInterrupt := s.loadRead_last h
    have hsram : u.sram = s.sram := by simp [u]
    have hmap : u.ltu.map = [] := by simp [u]
    have hrec : ∀ i, u.record i = s.record i := State.record_congr s (by simp [u])
    have hret : returnEvents u = returnEvents s := by simp only [returnEvents, hrec]
    clear_value u
    have acted : (u.header.portIntent = 1 → u.actPortIntent = u.actConfig) ∧ (u.header.portIntent = 2 → u.actPortIntent = u.actRun) ∧
        (u.header.portIntent ≠ 1 → u.header.portIntent ≠ 2 → u.actPortIntent = u.actHalt) := by
      unfold State.actPortIntent
      exact ⟨fun h => if_pos h, fun h => by rw [if_neg (by rw [h]; decide), if_pos h], fun h1 h2 => by rw [if_neg h1, if_neg h2]⟩
    rw [hheader] at acted
    obtain ⟨config, run, halt⟩ := acted
    refine ⟨fun hi => ?_, fun hi => ?_, fun h1 h2 => ?_⟩
    · rw [hexec, config hi, u.actConfig_cases.1 (.inl hport)]
    · rw [hexec, run hi, u.actRun_cases.1 hport, u.validateRun_eq hport]
    · obtain ⟨w, hh, hs, hp, tl, tb, ev⟩ := u.halt_spec (by rw [hport]; rfl)
      have halted : u.actPortIntent = u.halt := (halt h1 h2).trans (u.actHalt_cases.1 (.inl hport))
      refine ⟨u.halt, hexec.trans (congrArg (fun t : State => Host.Outcome.next t.followInterrupt) halted), w, hh.trans hheader,
        hs.trans hsram, hp, ?_, tb, ?_⟩
      · rw [hmap, List.map_nil] at tl
        exact tl
      · rwa [hpct, hret] at ev

end Sys2Proof.Proofs
end

section
set_option Elab.async false
/-! Reads of held words, and the layouts of chapter 11. -/

namespace Sys2Proof.Machine

open Sys2Proof.Safety

variable (s : State)

/-! ### Words of halves and bytes -/

/-- A word whose upper two lanes are a half: the half as one (11.2). -/
theorem word4_of_high_half (a b : Byte) (x : BitVec 16) : word4 a b (x.extractLsb' 0 8) (x.extractLsb' 8 8) = word2 (b ++ a) x := by
  have hx := extract_append_extract x 0 8 8
  simp only [Nat.zero_add, Nat.reduceAdd, BitVec.extractLsb'_eq_self] at hx
  unfold word4 word2
  rw [hx]
  exact BitVec.append_assoc

/-- A word whose lower two lanes are a half: the half as one (11.2). -/
theorem word4_of_low_half (x : BitVec 16) (c d : Byte) : word4 (x.extractLsb' 0 8) (x.extractLsb' 8 8) c d = word2 x (d ++ c) := by
  have hx := extract_append_extract x 0 8 8
  simp only [Nat.zero_add, Nat.reduceAdd, BitVec.extractLsb'_eq_self] at hx
  unfold word4 word2
  conv_rhs => rw [← hx]
  exact BitVec.append_assoc

/-! ### The layouts as lists of words -/

/-- The header setup words that hold fields (11.2). -/
def headerSetupList (h : Header) (consumer : Byte) : List (Nat × Word) :=
  [(0, word4 h.portIntent 0 0 0), (1, h.targetLoop), (2, h.spanStart), (3, word2 h.slotLen (h.replyLead ++ h.slotCount)),
   (4, word4 h.quietWait h.rangeLimit h.spreadLimit h.tol), (5, word4 h.blockRetries 0 0 0),
   (16, word2 h.discoveryPeriod (h.parkRounds ++ h.discoveryDefer)),
   (17, word4 h.spreadMin h.spreadInit h.spreadMax h.openDiscovery), (18, word4 h.filterAOn h.filterBOn h.rangeMode 0),
   (19, h.filterAValue), (20, h.filterAMask), (21, h.filterBValue), (22, h.filterBMask), (23, h.rangeLower), (24, h.rangeUpper),
   (32, word2 (h.threshold ++ h.irqEnable) h.holdCycles), (33, word4 consumer 0 0 0)]

theorem Header.word_eq (h : Header) (consumer : Byte) {n : Nat} (hn : n < 64) :
    h.word consumer n = ((headerSetupList h consumer).lookup n).getD 0 := by
  unfold headerSetupList
  rw [← word4_of_low_half, ← word4_of_low_half, ← word4_of_high_half]
  interval_cases n <;> rfl

/-- The words of the pop buffer above word 0 (11.6). -/
def popList (x : Stranger) : List (Nat × Word) :=
  [(1, x.serial.extractLsb' 0 32), (2, x.serial.extractLsb' 32 32), (3, word2 (BitVec.ofNat 16 x.resp) (BitVec.ofNat 16 0)), (4, x.first),
   (5, x.last)]

theorem PopBuffer.word_eq (p : PopBuffer) {k : Nat} (h0 : 0 < k) (h8 : k < 8) :
    p.word k = ((popList p.entry).lookup k).getD 0 := by
  interval_cases k <;> rfl

/-- The header live words that hold fields (11.3). -/
def headerLiveList (s : State) : List (Nat × Word) :=
  let q := s.counters
  let pair := fun a b : Nat => word2 (BitVec.ofNat 16 a) (BitVec.ofNat 16 b)
  let byte := fun a : Nat => BitVec.ofNat 8 a
  [(0, word4 (portCode s.pct.port) (if s.ltu.lineUp then 1 else 0) (refusalCode s.pct.refusal) (byte s.dsu.exponent)),
   (1, s.ltu.cycle), (2, word2 (byte s.dsu.strangers.length ++ s.evw.producer) (BitVec.ofNat 16 q.discoveryRounds)),
   (3, pair q.windowsClean q.windowsGarbled), (4, pair q.windowsSilent q.validHellos), (5, pair q.garbledBursts q.captureOverruns),
   (6, pair q.strayBursts q.wrongSender), (7, pair q.strangersDropped q.strangersFiltered), (8, pair q.parkDrops q.staleReplies),
   (9, pair q.rangingOk q.rangingFailed), (10, pair q.quietAsks q.quietDenies), (11, pair q.quietTimeouts q.quietLateGives),
   (12, pair q.quietRevokes q.quietLateRevokes), (13, pair q.quietStrays q.discards), (14, pair q.eventsLost q.stretched)]

theorem headerLiveWord_eq {k : Nat} (hk : k < 64) : headerLiveWord s k = ((headerLiveList s).lookup k).getD 0 := by
  interval_cases k <;> rfl

/-- The live words of a record that hold fields (11.4). -/
def recordLiveList (r : Record) : List (Nat × Word) :=
  let pair := fun a b : Nat => word2 (BitVec.ofNat 16 a) (BitVec.ofNat 16 b)
  let byte := fun a : Nat => BitVec.ofNat 8 a
  [(0, word4 (actCode r.state) (failCode r.reason) (destCode r.dest) (byte r.line)),
   (1, word4 (convCode r.conv) r.flags (byte r.rangeUsed) (byte r.restarts)),
   (2, word2 (BitVec.setWidth 16 (byte r.sightings)) (BitVec.ofNat 16 r.resp)), (3, BitVec.ofNat 32 r.loop),
   (4, byte r.eqFine ++ BitVec.ofNat 24 r.eqCoarse), (5, BitVec.ofInt 32 r.lastDeviation), (6, pair r.blocksTotal r.blocksAcked),
   (7, pair r.retriesTotal 0), (8, r.lastChange), (9, r.lastHello)]

theorem Record.liveWord_eq (r : Record) {k : Nat} (hk : k < 12) : r.liveWord k = ((recordLiveList r).lookup k).getD 0 := by
  have widened : ∀ b : Byte, b.setWidth 16 = (0 : BitVec 8) ++ b := fun b =>
    BitVec.eq_of_toNat_eq (((BitVec.toNat_setWidth ..).trans (Nat.mod_eq_of_lt (by omega))).trans
      ((BitVec.toNat_append (0 : BitVec 8) b).trans (by simp)).symm)
  unfold recordLiveList
  dsimp only
  rw [widened]
  interval_cases k <;> rfl

/-- The flag bits in their order (11.4). -/
theorem Record.flags_lane (r : Record) {b : Nat} (hb : b < 8) : r.flags.getLsbD b =
    [r.eqValid, r.trimSent, r.trimClamped, r.profileDelivered, r.seenWhileHeld, r.assignTaken].getD b false := by
  have bits : ∀ (a b c d e f : Bool) (k : Fin 8),
      ((0 : BitVec 2) ++ BitVec.ofBool f ++ BitVec.ofBool e ++ BitVec.ofBool d ++ BitVec.ofBool c ++ BitVec.ofBool b
        ++ BitVec.ofBool a : BitVec 8).getLsbD k.val = [a, b, c, d, e, f].getD k.val false := by decide
  exact bits _ _ _ _ _ _ ⟨b, hb⟩

/-! ### Reads -/

/-- A read of a window word in an overlay state, no hold being due (R138, R141, R149). -/
theorem State.readWord_overlay (w : WinWord) (h : s.holdDue = false) (ho : s.pct.port.overlay = true) :
    exec (.consecutiveAccess (.read (s.busAddr w))) s = .next ((passed s).overlayRead w) := by
  have harb : s.arbiter = passed s := by
    unfold State.arbiter
    rw [h]
    rfl
  have hwin : (passed s).windowWord (s.busAddr w) = some w := s.windowWord_busAddr w
  have hread : s.access (.read (s.busAddr w)) = (passed s).overlayRead w := by
    show s.arbiter.busRead (s.busAddr w) = _
    unfold State.busRead
    rw [harb, hwin]
    exact if_pos ho
  exact congrArg Host.Outcome.next hread

/-- What a read answers, by the region of its word (R141, R145, R146). -/
theorem State.overlayRead_cases (w : WinWord) :
    let n := w.toNat
    (n < 64 → s.overlayRead w = s.answerRead (s.header.word s.evw.consumer n)) ∧
    (64 < n → n < 128 → s.bpt.headerHeld = false → s.overlayRead w = s.answerRead (headerLiveWord s (n - 64))) ∧
    (∀ p : DirIx, n = 128 + 2 * p.val → s.overlayRead w = s.answerRead (s.dirEntry p).setupWord) ∧
    (∀ p : DirIx, n = 129 + 2 * p.val → s.overlayRead w = s.answerRead (s.dirEntry p).liveWord) ∧
    (160 < n → n < 168 → s.overlayRead w = s.answerRead (s.dsu.pop.word (n - 160))) ∧
    (∀ (i : RecIx) (k : Nat), 0 < k → k < 4 → n = 256 + 16 * i.val + k → s.overlayRead w = s.answerRead ((s.record i).setupWord k)) ∧
    (∀ (i : RecIx) (k : Nat), k < 12 → n = 260 + 16 * i.val + k → ¬(s.bpt.snapHeld = true ∧ s.bpt.snapIndex = i) →
      s.overlayRead w = s.answerRead ((s.record i).liveWord k)) := by
  have hdir : ∀ p : DirIx, ∀ n, n = 128 + 2 * p.val ∨ n = 129 + 2 * p.val → dirOf ((n - 128) / 2) = p := by
    intro p n hn
    refine Fin.ext ?_
    show (n - 128) / 2 % 16 = p.val
    omega
  have hrec : ∀ (i : RecIx) (k : Nat), k < 16 → w.toNat = 256 + 16 * i.val + k → recordOfWord w = i := by
    intro i k hk hn
    refine Fin.ext ?_
    show (w.toNat - 256) / 16 % 128 = i.val
    omega
  intro n
  unfold State.overlayRead
  dsimp only
  refine ⟨fun h => if_pos h, fun h1 h2 h3 => ?_, fun p hp => ?_, fun p hp => ?_, fun h1 h2 => ?_, fun i k h0 h4 hn => ?_,
    fun i k hk hn hs => ?_⟩
  · rw [if_neg (by omega), if_pos (by omega), if_neg (by omega)]
    unfold State.headerLiveAnswer
    rw [h3]
    rfl
  · rw [if_neg (by omega), if_neg (by omega), if_pos (by omega), if_pos (by omega), hdir p _ (.inl hp)]
  · rw [if_neg (by omega), if_neg (by omega), if_pos (by omega), if_neg (by omega), hdir p _ (.inr hp)]
  · rw [if_neg (by omega), if_neg (by omega), if_neg (by omega), if_pos (by omega), if_neg (by omega)]
  · rw [if_neg (by omega), if_neg (by omega), if_neg (by omega), if_neg (by omega), if_neg (by omega), if_pos (by omega),
      if_neg (by omega), if_pos (by omega), hrec i k (by omega) hn, show w.toNat % 16 = k by omega]
  · rw [if_neg (by omega), if_neg (by omega), if_neg (by omega), if_neg (by omega), if_neg (by omega), if_pos (by omega),
      if_neg (by omega), if_neg (by omega), hrec i (k + 4) (by omega) (by omega), show w.toNat % 16 - 4 = k by omega]
    unfold State.recordLiveAnswer
    rw [if_neg hs]

/-! ### Counters -/

/-- The header counters in the order of their identities. -/
def counterIds : List CounterId :=
  [.discoveryRounds, .windowsClean, .windowsGarbled, .windowsSilent, .validHellos, .garbledBursts, .captureOverruns, .strayBursts,
    .wrongSender, .strangersDropped, .strangersFiltered, .parkDrops, .staleReplies, .rangingOk, .rangingFailed, .quietAsks, .quietDenies,
    .quietTimeouts, .quietLateGives, .quietRevokes, .quietLateRevokes, .quietStrays, .discards, .eventsLost, .stretched]

/-- The header counters, in that order. -/
def Counters.values (c : Counters) : List Nat :=
  [c.discoveryRounds, c.windowsClean, c.windowsGarbled, c.windowsSilent, c.validHellos, c.garbledBursts, c.captureOverruns, c.strayBursts,
    c.wrongSender, c.strangersDropped, c.strangersFiltered, c.parkDrops, c.staleReplies, c.rangingOk, c.rangingFailed, c.quietAsks,
    c.quietDenies, c.quietTimeouts, c.quietLateGives, c.quietRevokes, c.quietLateRevokes, c.quietStrays, c.discards, c.eventsLost,
    c.stretched]

/-- A counter raised rises by 1 and stops at 65,535, and no other changes (R164). -/
theorem Counters.values_inc (c : Counters) (k : CounterId) :
    k ∈ counterIds ∧ (c.inc k).values =
      (counterIds.zip c.values).map (fun (m, v) => if m = k then (if v < 65535 then v + 1 else v) else v) := by
  constructor
  · cases k <;> decide
  · cases k <;> rfl

end Sys2Proof.Machine

namespace Sys2Proof.Proofs

open Sys2Proof.Machine Sys2Proof.Safety

/-- Settles O60. -/
theorem heldWordReads : Obligations.HeldWordReads := by
  intro s w h n q x pair byte listed setup live pop liveOf answers
  have read : s.holdDue = false → s.pct.port ≠ .off → s.pct.port ≠ .loading → ∀ v, (passed s).overlayRead w = (passed s).answerRead v →
      answers v := fun hold h1 h2 v hv => (s.readWord_overlay w hold (PortState.overlay_of_ne ⟨h1, h2⟩)).trans (congrArg _ hv)
  refine ⟨fun hold h1 h2 => ?_, fun k hk => headerLiveWord_eq s hk, fun r => ⟨fun k hk => r.liveWord_eq hk, fun b hb => r.flags_lane hb⟩,
    fun c k => c.values_inc k, rfl, rfl, rfl, rfl, rfl, rfl⟩
  obtain ⟨header, headerLive, dirSetup, dirLive, popped, setups, lives⟩ := (passed s).overlayRead_cases w
  refine ⟨fun hn => ?_, fun ha hb hh => ?_, fun p hp => ?_, fun p hp => ?_, fun ha hb => ?_, fun i => ?_⟩
  · exact read hold h1 h2 _ ((header hn).trans (congrArg _ (s.header.word_eq s.evw.consumer hn)))
  · exact read hold h1 h2 _ ((headerLive ha hb hh).trans (congrArg _ (headerLiveWord_eq (passed s) (by omega))))
  · exact read hold h1 h2 _ (dirSetup p hp)
  · exact read hold h1 h2 _ (dirLive p hp)
  · exact read hold h1 h2 _ ((popped ha hb).trans (congrArg _ (PopBuffer.word_eq s.dsu.pop (by omega) (by omega))))
  · intro r
    refine ⟨fun hn => ?_, fun hn => ?_, fun hn => ?_, fun k hk hn hs => ?_⟩
    · exact read hold h1 h2 _ (setups i 1 (by decide) (by decide) (by omega))
    · exact read hold h1 h2 _ (setups i 2 (by decide) (by decide) (by omega))
    · exact read hold h1 h2 _ (setups i 3 (by decide) (by decide) (by omega))
    · exact read hold h1 h2 _ ((lives i k hk hn hs).trans (congrArg _ (r.liveWord_eq hk)))

end Sys2Proof.Proofs
end

section
set_option Elab.async false
/-! The expander of a channel (R77, R83): bytes of the image between two offsets, the moves of a filling buffer, and a whole word expanded. -/

namespace Sys2Proof.Machine

open Sys2Proof.Safety

variable (s : State)

/-! ### The bytes between two offsets -/

/-- The bytes of a memory `M` from offset `a` up to offset `b`. -/
def spanBytes (M : Nat → Byte) (a b : Nat) : List Byte := (List.range' a (b - a)).map M

theorem spanBytes_of_le {M : Nat → Byte} {a b : Nat} (h : b ≤ a) : spanBytes M a b = [] := by
  rw [spanBytes, Nat.sub_eq_zero_of_le h, List.range'_zero, List.map_nil]

theorem spanBytes_of_lt {M : Nat → Byte} {a b : Nat} (h : a < b) : spanBytes M a b = M a :: spanBytes M (a + 1) b := by
  rw [spanBytes, show b - a = (b - (a + 1)) + 1 by omega, List.range'_succ, List.map_cons, spanBytes]

theorem spanBytes_length (M : Nat → Byte) (a b : Nat) : (spanBytes M a b).length = b - a := by
  rw [spanBytes, List.length_map, List.length_range']

theorem spanBytes_drop (M : Nat → Byte) (a b n : Nat) : (spanBytes M a b).drop n = spanBytes M (a + n) b := by
  rw [spanBytes, spanBytes, ← List.map_drop, List.drop_range', Nat.mul_one, Nat.sub_add_eq]

/-- The byte of SRAM at an offset of the window (R139). -/
def State.windowByte (x : Nat) : Byte := Memory.read s.sram (65536 * s.bpt.base.toNat + x)

/-- The image of an entry is a span of the window. -/
theorem imageBytes_eq (e : DirEntry) : imageBytes s e = spanBytes s.windowByte e.offset.toNat e.past := by
  rw [DirEntry.past, spanBytes, Nat.add_sub_cancel_left, imageBytes, List.range'_eq_map_range, List.map_map]
  exact List.map_congr_left fun k _ => by simp only [Function.comp_apply, State.windowByte, Nat.add_assoc]

/-- So is what is left of it from an offset on. -/
theorem imageFrom_eq {e : DirEntry} {pos : Nat} (h : e.offset.toNat ≤ pos) : imageFrom s e pos = spanBytes s.windowByte pos e.past := by
  rw [imageFrom, imageBytes_eq, spanBytes_drop, Nat.add_sub_cancel' h]

/-- The bytes of a served word from an offset on are the span up to the word's end (R148). -/
theorem bytesFrom_sramWord {pos : Nat} (h : pos < 65536) :
    bytesFrom (s.sramWord (wordOfOffset pos)) pos = spanBytes s.windowByte pos (4 * (pos / 4 + 1)) := by
  have ha : (s.busAddr (wordOfOffset pos)).toNat = 16384 * s.bpt.base.toNat + pos / 4 := by
    show (s.bpt.base ++ BitVec.ofNat 14 (pos / 4)).toNat = _
    have hlt : pos / 4 < 2 ^ 14 := by omega
    rw [BitVec.toNat_append, BitVec.toNat_ofNat, Nat.mod_eq_of_lt hlt, ← Nat.shiftLeft_add_eq_or_of_lt hlt, Nat.shiftLeft_eq]
    omega
  have lane : ∀ k, Memory.read s.sram (Memory.laneAddr (s.busAddr (wordOfOffset pos)) k) = s.windowByte (4 * (pos / 4) + k) := by
    intro k
    rw [Memory.laneAddr, ha, State.windowByte]
    exact congrArg _ (by omega)
  have hw : [byteOf (s.sramWord (wordOfOffset pos)) 0, byteOf (s.sramWord (wordOfOffset pos)) 1,
      byteOf (s.sramWord (wordOfOffset pos)) 2, byteOf (s.sramWord (wordOfOffset pos)) 3] =
      spanBytes s.windowByte (4 * (pos / 4)) (4 * (pos / 4 + 1)) := by
    rw [State.sramWord, Memory.readWord, byteOf_word4_zero, byteOf_word4_one, byteOf_word4_two, byteOf_word4_three,
      lane, lane, lane, lane, spanBytes, show 4 * (pos / 4 + 1) - 4 * (pos / 4) = 4 by omega]
    rfl
  rw [bytesFrom, hw, spanBytes_drop, show 4 * (pos / 4) + pos % 4 = pos by omega]

/-! ### Items in progress -/

/-- The item that a tag byte opens takes the tag's place before the bytes that follow (R77). -/
theorem expand_idle_cons (b : Byte) (bs : List Byte) : expand .idle (b :: bs) = expand (tagItem b) bs := by
  unfold tagItem tagCount isLiteralTag
  by_cases h : b.toNat < 128 <;> simp [expand, h]

theorem expand_literal_cons (n : Nat) (b : Byte) (bs : List Byte) :
    expand (.literal n) (b :: bs) = (expand (literalNext n) bs).map (fun xs => b :: xs) := by
  rw [expand, literalNext]

theorem one_le_tagCount (b : Byte) : 1 ≤ tagCount b := by
  unfold tagCount
  split <;> omega

/-- An item in progress still has something to give: a count of 0 is not reached by an image (R77). -/
def ImageItem.Live : ImageItem → Prop
  | .awaitValue n => n ≠ 0
  | .repeating _ n => n ≠ 0
  | .literal _ => True
  | .idle => True

theorem tagItem_live (b : Byte) : (tagItem b).Live := by
  unfold tagItem
  split
  · trivial
  · exact Nat.one_le_iff_ne_zero.mp (one_le_tagCount b)

theorem literalNext_live (n : Nat) : (literalNext n).Live := by
  unfold literalNext
  split <;> trivial

theorem owed_tagItem (b : Byte) (bs : List Byte) : owed (tagItem b) bs = expand (tagItem b) bs := by
  unfold tagItem
  split <;> rfl

theorem owed_literalNext (n : Nat) (bs : List Byte) : owed (literalNext n) bs = expand (literalNext n) bs := by
  unfold literalNext
  split <;> rfl

/-! ### Buffers -/

namespace Channel

variable (c : Channel)

@[simp] theorem buffer_setBuffer_same (k : Nat) (b : Buffer) : (c.setBuffer k b).buffer k = b := by
  unfold buffer setBuffer
  split <;> simp_all

@[simp] theorem buffer_setBuffer_succ (k : Nat) (b : Buffer) : (c.setBuffer k b).buffer (k + 1) = c.buffer (k + 1) := by
  unfold buffer setBuffer
  by_cases h : k % 2 = 0
  · rw [if_pos h, if_neg (by omega), if_neg (by omega)]
  · rw [if_neg h, if_pos (by omega), if_pos (by omega)]

@[simp] theorem buffer_setBuffer_pred (k : Nat) (b : Buffer) : (c.setBuffer (k + 1) b).buffer k = c.buffer k := by
  unfold buffer setBuffer
  by_cases h : k % 2 = 0
  · rw [if_pos h, if_neg (by omega), if_pos h]
  · rw [if_neg h, if_pos (by omega), if_neg h]

theorem buffer_add_two (k : Nat) : c.buffer (k + 2) = c.buffer k := by
  unfold buffer
  rw [Nat.add_mod_right]

/-- The channel with the buffer of block `k` at `b` and the expansion at position `p` in item `it`. -/
def advance (p : Nat) (it : ImageItem) (k : Nat) (b : Buffer) : Channel := { c.setBuffer k b with pos := p, item := it }

/-- Setting a buffer, the position and the item again leaves nothing of what they were. -/
theorem advance_advance (p q : Nat) (i j : ImageItem) (k : Nat) (a b : Buffer) : (c.advance p i k a).advance q j k b = c.advance q j k b := by
  unfold Channel.advance setBuffer
  split <;> rfl

theorem advance_self (k : Nat) : c.advance c.pos c.item k (c.buffer k) = c := by
  unfold Channel.advance setBuffer buffer
  split <;> rfl

@[simp] theorem advance_pos (p : Nat) (it : ImageItem) (k : Nat) (b : Buffer) : (c.advance p it k b).pos = p := rfl

@[simp] theorem advance_item (p : Nat) (it : ImageItem) (k : Nat) (b : Buffer) : (c.advance p it k b).item = it := rfl

@[simp] theorem advance_next (p : Nat) (it : ImageItem) (k : Nat) (b : Buffer) : (c.advance p it k b).next = c.next := by
  unfold Channel.advance setBuffer
  split <;> rfl

@[simp] theorem advance_blocks (p : Nat) (it : ImageItem) (k : Nat) (b : Buffer) : (c.advance p it k b).blocks = c.blocks := by
  unfold Channel.advance setBuffer
  split <;> rfl

@[simp] theorem advance_buffer_same (p : Nat) (it : ImageItem) (k : Nat) (b : Buffer) : (c.advance p it k b).buffer k = b :=
  c.buffer_setBuffer_same k b

@[simp] theorem advance_buffer_succ (p : Nat) (it : ImageItem) (k : Nat) (b : Buffer) :
    (c.advance p it k b).buffer (k + 1) = c.buffer (k + 1) := c.buffer_setBuffer_succ k b

@[simp] theorem advance_buffer_pred (p : Nat) (it : ImageItem) (k : Nat) (b : Buffer) :
    (c.advance p it (k + 1) b).buffer k = c.buffer k := c.buffer_setBuffer_pred k b

/-- The channel with its next block cut from `xs`, the expansion at position `p` in item `it` (R83). -/
def cutAt (p : Nat) (it : ImageItem) (xs : List Byte) : Channel :=
  { c.advance p it c.next (fullBlock c.blocks c.next xs) with next := c.next + 1 }

theorem cut_eq_cutAt (xs : List Byte) : c.cut c.next xs = c.cutAt c.pos c.item xs := by
  unfold cut cutAt Channel.advance setBuffer fullBlock
  split <;> rfl

theorem advance_cutAt (p q : Nat) (i j : ImageItem) (b : Buffer) (xs : List Byte) :
    (c.advance p i c.next b).cutAt q j xs = c.cutAt q j xs := by
  unfold cutAt
  rw [advance_next, advance_blocks, advance_advance]

@[simp] theorem cutAt_pos (p : Nat) (it : ImageItem) (xs : List Byte) : (c.cutAt p it xs).pos = p := rfl

@[simp] theorem cutAt_item (p : Nat) (it : ImageItem) (xs : List Byte) : (c.cutAt p it xs).item = it := rfl

@[simp] theorem cutAt_next (p : Nat) (it : ImageItem) (xs : List Byte) : (c.cutAt p it xs).next = c.next + 1 := rfl

@[simp] theorem cutAt_blocks (p : Nat) (it : ImageItem) (xs : List Byte) : (c.cutAt p it xs).blocks = c.blocks :=
  c.advance_blocks p it _ _

@[simp] theorem cutAt_buffer_same (p : Nat) (it : ImageItem) (xs : List Byte) :
    (c.cutAt p it xs).buffer c.next = fullBlock c.blocks c.next xs := c.advance_buffer_same p it _ _

@[simp] theorem cutAt_buffer_succ (p : Nat) (it : ImageItem) (xs : List Byte) :
    (c.cutAt p it xs).buffer (c.next + 1) = c.buffer (c.next + 1) := c.advance_buffer_succ p it _ _

/-! ### The moves of a filling buffer -/

/-- What a step of the expander can do to the buffer it fills (R83), holding `cur` with `zs` still owed to it: stop at the end of the word,
cut the block, or go on in the image with the same bytes in all. -/
inductive FillMove (M : Nat → Byte) (past W : Nat) (cur zs : List Byte) : FillStep → Prop where
  | stop (hpos : c.pos = W) (hroom : cur.length < 16) : FillMove M past W cur zs (.stop c true)
  | cut (hrest : zs = (cur ++ zs).drop 16) :
    FillMove M past W cur zs (.go (c.cutAt c.pos c.item ((cur ++ zs).take 16)) (spanBytes M c.pos W))
  | go (p : Nat) (it : ImageItem) (cur' zs' : List Byte) (hp : c.pos ≤ p) (hW : p ≤ W) (hlive : it.Live) (hlen : cur'.length ≤ 16)
    (hsame : cur' ++ zs' = cur ++ zs) (howed : owed it (spanBytes M p past) = some zs') (hmore : cur.length + c.pos < cur'.length + p) :
    FillMove M past W cur zs (.go (c.advance p it c.next (.filling cur')) (spanBytes M p W))

variable {c} {M : Nat → Byte} {past W : Nat} {cur zs : List Byte}

/-- A byte taken from the word, the buffer standing: the position alone and the item change. -/
theorem advance_of_filling (h : c.buffer c.next = .filling cur) (p : Nat) (it : ImageItem) :
    { c with pos := p, item := it } = c.advance p it c.next (.filling cur) := by
  rw [← h]
  unfold Channel.advance setBuffer buffer
  split <;> rfl

theorem emit_eq_advance (b : Byte) (it : ImageItem) : c.emit cur b it = c.advance c.pos it c.next (.filling (cur ++ [b])) := by
  unfold emit Channel.advance setBuffer
  split <;> rfl

/-- A full block's worth is cut. -/
theorem fillMove_full (hb : c.buffer c.next = .filling cur) (hlen : cur.length = 16) :
    c.FillMove M past W cur zs (c.fillStep past (spanBytes M c.pos W)) := by
  have hcur : (cur ++ zs).take 16 = cur := List.take_left' hlen
  have he : c.fillStep past (spanBytes M c.pos W) = .go (c.cutAt c.pos c.item cur) (spanBytes M c.pos W) := by
    rw [← cut_eq_cutAt]
    simp [fillStep, hb, hlen]
  rw [he]
  nth_rw 2 [← hcur]
  exact .cut (List.drop_left' hlen).symm

/-- A repeat gives its next byte. -/
theorem fillMove_repeating {v : Byte} {n : Nat} (hb : c.buffer c.next = .filling cur) (hlen : cur.length < 16) (hW : c.pos ≤ W)
    (hi : c.item = .repeating v n) (hlive : n ≠ 0) (ho : owed (.repeating v n) (spanBytes M c.pos past) = some zs) :
    c.FillMove M past W cur zs (c.fillStep past (spanBytes M c.pos W)) := by
  obtain ⟨xs, hx, rfl⟩ := Option.map_eq_some_iff.mp ho
  obtain ⟨n, rfl⟩ := Nat.exists_eq_succ_of_ne_zero hlive
  have he : c.fillStep past (spanBytes M c.pos W) =
      .go (c.advance c.pos (if n + 1 ≤ 1 then .idle else .repeating v n) c.next (.filling (cur ++ [v]))) (spanBytes M c.pos W) := by
    rw [← emit_eq_advance]
    simp [fillStep, hb, hi, show ¬16 ≤ cur.length by omega]
  rw [he]
  refine .go _ _ _ (List.replicate n v ++ xs) le_rfl hW ?_ (by simp; omega) (by simp [List.replicate_succ]) ?_ (by simp)
  · split
    · trivial
    · show n ≠ 0
      omega
  · by_cases h : n = 0
    · simpa [h, owed] using hx
    · rw [if_neg (by omega)]
      exact Option.map_eq_some_iff.mpr ⟨xs, hx, rfl⟩

/-- A literal run gives the next image byte. -/
theorem fillMove_literal {n : Nat} (hb : c.buffer c.next = .filling cur) (hlen : cur.length < 16) (hW : c.pos ≤ W)
    (hi : c.item = .literal n) (ho : expand (.literal n) (spanBytes M c.pos past) = some zs) :
    c.FillMove M past W cur zs (c.fillStep past (spanBytes M c.pos W)) := by
  rcases Nat.lt_or_eq_of_le hW with hlt | heq
  · have hpast : c.pos < past := by
      by_contra h
      rw [spanBytes_of_le (by omega)] at ho
      exact absurd ho (by simp [expand])
    rw [spanBytes_of_lt hpast, expand_literal_cons] at ho
    obtain ⟨xs, hx, rfl⟩ := Option.map_eq_some_iff.mp ho
    have he : c.fillStep past (spanBytes M c.pos W) =
        .go (c.advance (c.pos + 1) (literalNext n) c.next (.filling (cur ++ [M c.pos]))) (spanBytes M (c.pos + 1) W) := by
      rw [spanBytes_of_lt hlt]
      simp [fillStep, hb, hi, show ¬16 ≤ cur.length by omega, emit, Channel.advance]
    rw [he]
    exact .go _ _ _ xs (Nat.le_succ _) hlt (literalNext_live n) (by simp; omega) (by simp) ((owed_literalNext n _).trans hx) (by simp; omega)
  · have he : c.fillStep past (spanBytes M c.pos W) = .stop c true := by
      rw [spanBytes_of_le heq.ge]
      simp [fillStep, hb, hi, show ¬16 ≤ cur.length by omega]
    rw [he]
    exact .stop heq hlen

/-- The value byte of a repeat is taken from the word. -/
theorem fillMove_awaitValue {n : Nat} (hb : c.buffer c.next = .filling cur) (hlen : cur.length < 16) (hW : c.pos ≤ W)
    (hi : c.item = .awaitValue n) (hlive : n ≠ 0) (ho : expand (.awaitValue n) (spanBytes M c.pos past) = some zs) :
    c.FillMove M past W cur zs (c.fillStep past (spanBytes M c.pos W)) := by
  rcases Nat.lt_or_eq_of_le hW with hlt | heq
  · have hpast : c.pos < past := by
      by_contra h
      rw [spanBytes_of_le (by omega)] at ho
      exact absurd ho (by simp [expand])
    rw [spanBytes_of_lt hpast, expand] at ho
    have he : c.fillStep past (spanBytes M c.pos W) =
        .go (c.advance (c.pos + 1) (.repeating (M c.pos) n) c.next (.filling cur)) (spanBytes M (c.pos + 1) W) := by
      rw [spanBytes_of_lt hlt, ← advance_of_filling hb]
      simp [fillStep, hb, hi, show ¬16 ≤ cur.length by omega]
    rw [he]
    exact .go _ _ _ zs (Nat.le_succ _) hlt hlive hlen.le rfl ho (by omega)
  · have he : c.fillStep past (spanBytes M c.pos W) = .stop c true := by
      rw [spanBytes_of_le heq.ge]
      simp [fillStep, hb, hi, show ¬16 ≤ cur.length by omega]
    rw [he]
    exact .stop heq hlen

/-- Between two items the image ends, and the block is cut, or a tag byte is taken from the word. -/
theorem fillMove_idle (hb : c.buffer c.next = .filling cur) (hlen : cur.length < 16) (hW : c.pos ≤ W) (hi : c.item = .idle)
    (ho : expand .idle (spanBytes M c.pos past) = some zs) :
    c.FillMove M past W cur zs (c.fillStep past (spanBytes M c.pos W)) := by
  by_cases hpast : past ≤ c.pos
  · obtain rfl : zs = [] := by
      rw [spanBytes_of_le hpast, expand] at ho
      exact (Option.some.inj ho).symm
    have he : c.fillStep past (spanBytes M c.pos W) = .go (c.cutAt c.pos c.item cur) (spanBytes M c.pos W) := by
      rw [← cut_eq_cutAt]
      simp [fillStep, hb, hi, hpast]
    have hcur : (cur ++ []).take 16 = cur := by rw [List.append_nil, List.take_of_length_le hlen.le]
    rw [he]
    nth_rw 2 [← hcur]
    exact .cut (by simp; omega)
  · rcases Nat.lt_or_eq_of_le hW with hlt | heq
    · rw [spanBytes_of_lt (by omega), expand_idle_cons] at ho
      have he : c.fillStep past (spanBytes M c.pos W) =
          .go (c.advance (c.pos + 1) (tagItem (M c.pos)) c.next (.filling cur)) (spanBytes M (c.pos + 1) W) := by
        rw [spanBytes_of_lt hlt, ← advance_of_filling hb]
        simp [fillStep, hb, hi, hpast, show ¬16 ≤ cur.length by omega]
      rw [he]
      exact .go _ _ _ zs (Nat.le_succ _) hlt (tagItem_live _) hlen.le rfl ((owed_tagItem _ _).trans ho) (by omega)
    · have he : c.fillStep past (spanBytes M c.pos W) = .stop c true := by
        rw [spanBytes_of_le heq.ge]
        simp [fillStep, hb, hi, hpast, show ¬16 ≤ cur.length by omega]
      rw [he]
      exact .stop heq hlen

/-- Every step of the expander on a buffer it fills is one of the moves (R83). -/
theorem fillMove (hb : c.buffer c.next = .filling cur) (hlen : cur.length ≤ 16) (hW : c.pos ≤ W) (hlive : c.item.Live)
    (ho : owed c.item (spanBytes M c.pos past) = some zs) :
    c.FillMove M past W cur zs (c.fillStep past (spanBytes M c.pos W)) := by
  rcases Nat.lt_or_eq_of_le hlen with hroom | hfull
  · cases hi : c.item with
    | idle => rw [hi] at ho; exact fillMove_idle hb hroom hW hi ho
    | literal n => rw [hi] at ho; exact fillMove_literal hb hroom hW hi ho
    | awaitValue n => rw [hi] at ho hlive; exact fillMove_awaitValue hb hroom hW hi hlive ho
    | repeating v n => rw [hi] at ho hlive; exact fillMove_repeating hb hroom hW hi hlive ho
  · exact fillMove_full hb hfull

/-! ### A buffer filled -/

/-- What the run of the expander over a buffer comes to, `cur` in it and `zs` owed to it: the word ends first, or the block is cut and the
expander goes on with steps to spare. -/
inductive FillRun (M : Nat → Byte) (past W fuel : Nat) (c : Channel) (cur zs : List Byte) : Prop where
  | wants (it : ImageItem) (cur' zs' : List Byte) (hroom : cur'.length < 16) (hsame : cur' ++ zs' = cur ++ zs)
    (howed : owed it (spanBytes M W past) = some zs')
    (hrun : c.fill past fuel (spanBytes M c.pos W) = (c.advance W it c.next (.filling cur'), true))
  | cut (p : Nat) (it : ImageItem) (fuel' : Nat) (hp : c.pos ≤ p) (hW : p ≤ W) (hlive : it.Live)
    (howed : owed it (spanBytes M p past) = some ((cur ++ zs).drop 16)) (hfuel : fuel + cur.length + c.pos ≤ fuel' + 17 + p)
    (hrun : c.fill past fuel (spanBytes M c.pos W) = (c.cutAt p it ((cur ++ zs).take 16)).fill past fuel' (spanBytes M p W))

theorem fillRun {fuel : Nat} (hb : c.buffer c.next = .filling cur) (hlen : cur.length ≤ 16) (hW : c.pos ≤ W) (hlive : c.item.Live)
    (ho : owed c.item (spanBytes M c.pos past) = some zs) (hfuel : 16 + W < fuel + cur.length + c.pos) : FillRun M past W fuel c cur zs := by
  induction fuel generalizing c cur zs with
  | zero => omega
  | succ fuel ih =>
    have hstep : c.fill past (fuel + 1) (spanBytes M c.pos W) = match c.fillStep past (spanBytes M c.pos W) with
        | .stop c' wants => (c', wants)
        | .go c' rest => c'.fill past fuel rest := rfl
    have hm := fillMove hb hlen hW hlive ho
    generalize hf : c.fillStep past (spanBytes M c.pos W) = f at hm hstep
    cases hm with
    | stop hpos hroom =>
      refine .wants c.item cur zs hroom rfl (hpos ▸ ho) (hstep.trans ?_)
      rw [← hb, ← hpos, advance_self]
    | cut hrest => exact .cut c.pos c.item fuel le_rfl hW hlive (hrest ▸ ho) (by omega) hstep
    | go p it cur' zs' hp hpW hlive' hlen' hsame howed hmore =>
      have hrun := ih (c := c.advance p it c.next (.filling cur')) (by simp) hlen' hpW hlive' howed (by simp; omega)
      cases hrun with
      | wants it' cur'' zs'' hroom hsame' howed' hrun =>
        refine .wants it' cur'' zs'' hroom (hsame'.trans hsame) howed' ((hstep.trans hrun).trans ?_)
        rw [advance_next, advance_advance]
      | cut q it' fuel' hq hqW hlive'' howed' hfuel' hrun =>
        rw [advance_cutAt, hsame] at hrun
        rw [hsame] at howed'
        exact .cut q it' fuel' (hp.trans hq) hqW hlive'' howed' (by simp at hfuel'; omega) (hstep.trans hrun)

end Channel

end Sys2Proof.Machine
end

section
set_option Elab.async false
/-! A served word expanded into the buffers of a channel (R83, R84). -/

namespace Sys2Proof.Machine

open Sys2Proof.Safety

namespace Channel

variable {c : Channel} {M : Nat → Byte} {past W : Nat} {bs ys : List Byte}

/-! ### The word's run over the buffers -/

/-- What a run of the expander over a word comes to, `bs` in the buffer it fills and `ys` owed to it (R83): the word ends in this block or in
the next one, or one block or two are cut and no buffer is left to fill. -/
inductive WordRun (M : Nat → Byte) (past W : Nat) (c : Channel) (bs ys : List Byte) : Channel × Bool → Prop where
  | inFirst (it : ImageItem) (cur zs : List Byte) (hroom : cur.length < 16) (hsame : cur ++ zs = bs ++ ys)
    (howed : owed it (spanBytes M W past) = some zs) :
    WordRun M past W c bs ys (c.advance W it c.next (.filling cur), true)
  | afterFirst (p : Nat) (it : ImageItem) (hp : c.pos ≤ p) (howed : owed it (spanBytes M p past) = some ((bs ++ ys).drop 16))
    (hnone : c.buffer (c.next + 1) ≠ .empty ∨ c.blocks ≤ c.next + 1) :
    WordRun M past W c bs ys (c.cutAt p it ((bs ++ ys).take 16), false)
  | inSecond (p : Nat) (it it' : ImageItem) (cur zs : List Byte) (hroom : cur.length < 16) (hsame : cur ++ zs = (bs ++ ys).drop 16)
    (howed : owed it' (spanBytes M W past) = some zs) (hempty : c.buffer (c.next + 1) = .empty) (hleft : c.next + 1 < c.blocks) :
    WordRun M past W c bs ys ((c.cutAt p it ((bs ++ ys).take 16)).advance W it' (c.next + 1) (.filling cur), true)
  | afterSecond (p q : Nat) (it it' : ImageItem) (hq : c.pos ≤ q) (howed : owed it' (spanBytes M q past) = some (((bs ++ ys).drop 16).drop 16))
    (hempty : c.buffer (c.next + 1) = .empty) (hleft : c.next + 1 < c.blocks) :
    WordRun M past W c bs ys ((c.cutAt p it ((bs ++ ys).take 16)).cutAt q it' (((bs ++ ys).drop 16).take 16), false)

theorem fillStep_full {k : Nat} {last : Bool} {xs bytes : List Byte} (h : c.buffer c.next = .full k last xs) :
    c.fillStep past bytes = .stop c false := by
  unfold fillStep
  rw [h]

theorem setBuffer_eq_advance (k : Nat) (b : Buffer) : c.setBuffer k b = c.advance c.pos c.item k b := by
  unfold Channel.advance setBuffer
  split <;> rfl

theorem fillStep_empty (h : c.buffer c.next = .empty) (bytes : List Byte) :
    c.fillStep past bytes = if c.next < c.blocks then .go (c.advance c.pos c.item c.next (.filling [])) bytes else .stop c false := by
  unfold fillStep
  rw [h, ← setBuffer_eq_advance]

theorem fill_succ (fuel : Nat) (bytes : List Byte) : c.fill past (fuel + 1) bytes = match c.fillStep past bytes with
    | .stop c' wants => (c', wants)
    | .go c' rest => c'.fill past fuel rest := rfl

theorem fill_of_stop {fuel : Nat} {bytes : List Byte} {c' : Channel} {w : Bool} (hf : 0 < fuel) (h : c.fillStep past bytes = .stop c' w) :
    c.fill past fuel bytes = (c', w) := by
  obtain ⟨fuel, rfl⟩ := Nat.exists_eq_succ_of_ne_zero hf.ne'
  rw [Nat.succ_eq_add_one, fill_succ, h]

theorem fill_of_go {fuel : Nat} {bytes rest : List Byte} {c' : Channel} (h : c.fillStep past bytes = .go c' rest) :
    c.fill past (fuel + 1) bytes = c'.fill past fuel rest := by
  rw [fill_succ, h]

/-- After a block cut the buffer of the block before it is as it was. -/
theorem cutAt_buffer_next_succ (p : Nat) (it : ImageItem) (xs : List Byte) :
    (c.cutAt p it xs).buffer (c.next + 2) = fullBlock c.blocks c.next xs := by
  rw [buffer_add_two, cutAt_buffer_same]

/-- The buffer after a cut one, EMPTY with a block to come, is filled in its turn. -/
theorem wordRun_second {p fuel : Nat} {it : ImageItem} (hempty : c.buffer (c.next + 1) = .empty) (hleft : c.next + 1 < c.blocks)
    (hp : c.pos ≤ p) (hW : p ≤ W) (hlive : it.Live) (ho : owed it (spanBytes M p past) = some ((bs ++ ys).drop 16))
    (hfuel : 18 + W < fuel + p) :
    WordRun M past W c bs ys ((c.cutAt p it ((bs ++ ys).take 16)).fill past fuel (spanBytes M p W)) := by
  obtain ⟨fuel, rfl⟩ : ∃ k, fuel = k + 1 := ⟨fuel - 1, by omega⟩
  have hstep := (c.cutAt p it ((bs ++ ys).take 16)).fillStep_empty (past := past) ((c.cutAt_buffer_succ p it _).trans hempty) (spanBytes M p W)
  rw [if_pos (by simpa using hleft)] at hstep
  rw [fill_of_go hstep]
  generalize hd : (c.cutAt p it ((bs ++ ys).take 16)).advance (c.cutAt p it ((bs ++ ys).take 16)).pos
    (c.cutAt p it ((bs ++ ys).take 16)).item (c.cutAt p it ((bs ++ ys).take 16)).next (.filling []) = d
  have hrun : FillRun M past W fuel d [] ((bs ++ ys).drop 16) := by
    subst hd
    exact fillRun (by simp) (by simp) hW hlive ho (by simp; omega)
  have hdp : d.pos = p := by rw [← hd]; rfl
  cases hrun with
  | wants it' cur zs hroom hsame howed hrun =>
    rw [hdp] at hrun
    rw [hrun, ← hd, advance_next, advance_advance]
    exact .inSecond p it it' cur zs hroom hsame howed hempty hleft
  | cut q it' fuel' hq hqW hlive' howed hfuel' hrun =>
    rw [hdp] at hrun hq hfuel'
    have hfull := ((c.cutAt p it ((bs ++ ys).take 16)).cutAt_buffer_succ q it' (((bs ++ ys).drop 16).take 16)).trans
      (c.cutAt_buffer_next_succ p it _)
    rw [hrun, ← hd, advance_cutAt, List.nil_append, fill_of_stop (by simp at hfuel'; omega) (fillStep_full hfull)]
    exact .afterSecond p q it it' (hp.trans hq) (by simpa using howed) hempty hleft

theorem wordRun {fuel : Nat} (hb : c.buffer c.next = .filling bs) (hlen : bs.length < 16) (hW : c.pos ≤ W)
    (hother : ∀ b, c.buffer (c.next + 1) ≠ .filling b) (hlive : c.item.Live) (ho : owed c.item (spanBytes M c.pos past) = some ys)
    (hfuel : 40 + W ≤ fuel + c.pos) : WordRun M past W c bs ys (c.fill past fuel (spanBytes M c.pos W)) := by
  have hrun := fillRun (fuel := fuel) hb hlen.le hW hlive ho (by omega)
  cases hrun with
  | wants it cur zs hroom hsame howed hrun =>
    rw [hrun]
    exact .inFirst it cur zs hroom hsame howed
  | cut p it fuel' hp hpW hlive' howed hfuel' hrun =>
    rw [hrun]
    have hnext : (c.cutAt p it ((bs ++ ys).take 16)).buffer (c.cutAt p it ((bs ++ ys).take 16)).next = c.buffer (c.next + 1) :=
      c.cutAt_buffer_succ p it _
    cases hc : c.buffer (c.next + 1) with
    | filling b => exact absurd hc (hother b)
    | full k last xs =>
      rw [fill_of_stop (by omega) (fillStep_full (hnext.trans hc))]
      exact .afterFirst p it hp howed (.inl (by rw [hc]; exact Buffer.noConfusion))
    | empty =>
      by_cases hleft : c.next + 1 < c.blocks
      · exact wordRun_second hc hleft hp hpW hlive' howed (by omega)
      · have hstep := fillStep_empty (past := past) (hnext.trans hc) (spanBytes M p W)
        rw [if_neg (by simpa using hleft)] at hstep
        rw [fill_of_stop (by omega) hstep]
        exact .afterFirst p it hp howed (.inr (by omega))

/-! ### What a run over a word leaves -/

/-- The buffer of the next block is filling and holds all of `piece` but what is owed still. -/
def FillsPiece (c' : Channel) (piece zs : List Byte) : Prop := c'.buffer c'.next = .filling (piece.take (piece.length - zs.length))

/-- Between `c` and `c'` the stage, the buffers and the expansion state alone differ. -/
def SameWork (c c' : Channel) : Prop :=
  c' = { c with stage := c'.stage, bufA := c'.bufA, bufB := c'.bufB, pos := c'.pos, item := c'.item, next := c'.next }

theorem SameWork.trans {a b d : Channel} (h : SameWork a b) (k : SameWork b d) : SameWork a d := by
  unfold SameWork at *
  rw [h] at k
  exact k

theorem SameWork.withStage {c c' : Channel} (h : SameWork c c') (st : ChanStage) : SameWork c { c' with stage := st } := by
  unfold SameWork at *
  rw [h]

theorem sameWork_advance (c : Channel) (p : Nat) (it : ImageItem) (k : Nat) (b : Buffer) : SameWork c (c.advance p it k b) := by
  unfold SameWork Channel.advance setBuffer
  split <;> rfl

theorem sameWork_cutAt (c : Channel) (p : Nat) (it : ImageItem) (xs : List Byte) : SameWork c (c.cutAt p it xs) := by
  unfold SameWork cutAt Channel.advance setBuffer
  split <;> rfl

/-- What the statement says of a word expanded: `m` blocks cut from `bs ++ ys`, `zs` owed still, `w` whether the next word is wanted. -/
structure FilledWord (M : Nat → Byte) (past W : Nat) (c : Channel) (bs ys : List Byte) (c' : Channel) (m : Nat) (zs : List Byte) (w : Bool) :
    Prop where
  le_two : m ≤ 2
  next : c'.next = c.next + m
  pos : c.pos ≤ c'.pos
  owes : owed c'.item (spanBytes M c'.pos past) = some zs
  tail : zs = ((bs ++ ys).drop (16 * m)).drop (((bs ++ ys).drop (16 * m)).length - zs.length)
  same : SameWork c c'
  cuts : ∀ j < m, c'.buffer (c.next + j) = fullBlock c.blocks (c.next + j) (((bs ++ ys).drop (16 * j)).take 16)
  first : m = 0 → w = true ∧ c'.buffer (c.next + 1) = c.buffer (c.next + 1)
  begun : m = 1 → c.buffer (c.next + 1) = .empty → c.next + 1 < c.blocks → w = true
  kept : m = 1 → c.buffer (c.next + 1) ≠ .empty ∨ c.blocks ≤ c.next + 1 → c'.buffer (c.next + 1) = c.buffer (c.next + 1)
  both : m = 2 → c.buffer (c.next + 1) = .empty ∧ c.next + 1 < c.blocks
  ends : w = true → ((bs ++ ys).drop (16 * m)).length - zs.length < 16 ∧ c'.pos = W
  spent : w = false → zs = (bs ++ ys).drop (16 * m)
  wants : FillsPiece c' ((bs ++ ys).drop (16 * m)) zs ↔ w = true

/-- A buffer that holds `cur`, the first part of a piece. -/
theorem fillsPiece_of_append {c' : Channel} {piece cur zs : List Byte} (h : cur ++ zs = piece) (hb : c'.buffer c'.next = .filling cur) :
    FillsPiece c' piece zs := by
  subst h
  unfold FillsPiece
  rw [hb, List.length_append, Nat.add_sub_cancel, List.take_left]

theorem drop_of_append {piece cur zs : List Byte} (h : cur ++ zs = piece) : zs = piece.drop (piece.length - zs.length) := by
  subst h
  rw [List.length_append, Nat.add_sub_cancel, List.drop_left]

theorem length_of_append {piece cur zs : List Byte} (h : cur ++ zs = piece) (hlen : cur.length < 16) : piece.length - zs.length < 16 := by
  subst h
  rwa [List.length_append, Nat.add_sub_cancel]

theorem WordRun.filledWord {r : Channel × Bool} (h : WordRun M past W c bs ys r) (hW : c.pos ≤ W)
    (hother : ∀ b, c.buffer (c.next + 1) ≠ .filling b) : ∃ m zs, FilledWord M past W c bs ys r.1 m zs r.2 := by
  cases h with
  | inFirst it cur zs hroom hsame howed =>
    exact ⟨0, zs, {
      le_two := by decide
      next := c.advance_next _ _ _ _
      pos := hW
      owes := howed
      tail := drop_of_append hsame
      same := c.sameWork_advance _ _ _ _
      cuts := fun j hj => absurd hj (Nat.not_lt_zero j)
      first := fun _ => ⟨rfl, c.advance_buffer_succ _ _ _ _⟩
      begun := fun h => absurd h (by decide)
      kept := fun h => absurd h (by decide)
      both := fun h => absurd h (by decide)
      ends := fun _ => ⟨length_of_append hsame hroom, rfl⟩
      spent := Bool.noConfusion
      wants := iff_of_true (fillsPiece_of_append hsame (by simp)) rfl }⟩
  | afterFirst p it hp howed hnone =>
    exact ⟨1, (bs ++ ys).drop 16, {
      le_two := by decide
      next := rfl
      pos := hp
      owes := howed
      tail := drop_of_append (List.nil_append _)
      same := c.sameWork_cutAt _ _ _
      cuts := fun j hj => by
        obtain rfl : j = 0 := by omega
        exact c.cutAt_buffer_same _ _ _
      first := fun h => absurd h (by decide)
      begun := fun _ he hb => absurd hnone (by simp [he, hb])
      kept := fun _ _ => c.cutAt_buffer_succ _ _ _
      both := fun h => absurd h (by decide)
      ends := Bool.noConfusion
      spent := fun _ => rfl
      wants := iff_of_false (fun h => hother _ ((c.cutAt_buffer_succ _ _ _).symm.trans h)) Bool.false_ne_true }⟩
  | inSecond p it it' cur zs hroom hsame howed hempty hleft =>
    exact ⟨1, zs, {
      le_two := by decide
      next := by simp
      pos := hW
      owes := howed
      tail := drop_of_append hsame
      same := (c.sameWork_cutAt _ _ _).trans (sameWork_advance _ _ _ _ _)
      cuts := fun j hj => by
        obtain rfl : j = 0 := by omega
        simp
      first := fun h => absurd h (by decide)
      begun := fun _ _ _ => rfl
      kept := fun _ h => absurd h (by simp [hempty, hleft])
      both := fun h => absurd h (by decide)
      ends := fun _ => ⟨length_of_append hsame hroom, rfl⟩
      spent := Bool.noConfusion
      wants := iff_of_true (fillsPiece_of_append hsame (by simp)) rfl }⟩
  | afterSecond p q it it' hq howed hempty hleft =>
    have hsecond := (c.cutAt p it ((bs ++ ys).take 16)).cutAt_buffer_same q it' (((bs ++ ys).drop 16).take 16)
    have hfirst := ((c.cutAt p it ((bs ++ ys).take 16)).cutAt_buffer_succ q it' (((bs ++ ys).drop 16).take 16)).trans
      (c.cutAt_buffer_next_succ p it _)
    exact ⟨2, ((bs ++ ys).drop 16).drop 16, {
      le_two := le_rfl
      next := rfl
      pos := hq
      owes := howed
      tail := by rw [List.drop_drop]; exact drop_of_append (List.nil_append _)
      same := (c.sameWork_cutAt _ _ _).trans (sameWork_cutAt _ _ _ _)
      cuts := fun j hj => by
        obtain rfl | rfl : j = 0 ∨ j = 1 := by omega
        · exact (buffer_add_two _ _).symm.trans hfirst
        · simpa using hsecond
      first := fun h => absurd h (by decide)
      begun := fun h => absurd h (by decide)
      kept := fun h => absurd h (by decide)
      both := fun _ => ⟨hempty, hleft⟩
      ends := Bool.noConfusion
      spent := fun _ => List.drop_drop ..
      wants := iff_of_false (fun h => Buffer.noConfusion (hfirst.symm.trans h)) Bool.false_ne_true }⟩

@[simp] theorem advance_stage (c : Channel) (p : Nat) (it : ImageItem) (k : Nat) (b : Buffer) : (c.advance p it k b).stage = c.stage := by
  unfold Channel.advance setBuffer
  split <;> rfl

@[simp] theorem cutAt_stage (c : Channel) (p : Nat) (it : ImageItem) (xs : List Byte) : (c.cutAt p it xs).stage = c.stage :=
  c.advance_stage p it _ _

theorem WordRun.stage {r : Channel × Bool} (h : WordRun M past W c bs ys r) : r.1.stage = c.stage := by
  cases h <;> simp

/-- The stage has no part in it. -/
theorem FilledWord.withStage {c' : Channel} {m : Nat} {zs : List Byte} {w : Bool} (h : FilledWord M past W c bs ys c' m zs w)
    (st : ChanStage) : FilledWord M past W c bs ys { c' with stage := st } m zs w :=
  { h with same := h.same.withStage st }

theorem turnReady_eq (c : Channel) :
    c.turnReady = { c with stage := if c.stage = .filling ∧ (c.buffer c.current).isFull = true then .ready else c.stage } := by
  unfold turnReady
  split <;> rfl

theorem FilledWord.turnReady {c' : Channel} {m : Nat} {zs : List Byte} {w : Bool} (h : FilledWord M past W c bs ys c' m zs w) :
    FilledWord M past W c bs ys c'.turnReady m zs w := by
  rw [turnReady_eq]
  exact h.withStage _

theorem SameWork.turnReady_stage {c c' : Channel} (h : SameWork c c') (hst : c'.stage = c.stage) :
    c'.turnReady.stage = if c.stage = .filling ∧ (c'.turnReady.buffer c.current).isFull = true then .ready else c.stage := by
  have hcur : c'.current = c.current := by
    unfold SameWork at h
    rw [h]
  rw [turnReady_eq, hst, hcur]
  rfl

end Channel

end Sys2Proof.Machine
end

section
set_option Elab.async false
/-! IMAGE_READ served or discarded (R83, R90, R148): the request that ranks highest, a word for a filling buffer, and a dropped read. -/

namespace Sys2Proof.Machine

open Sys2Proof.Safety

variable (s : State)

/-! ### The read that ranks highest -/

theorem State.firstChannelWaiting_eq_some (ch : ChanIx) (r : ReadRequest) :
    s.firstChannelWaiting = some (ch, r) ↔ s.chanRequest ch = some r ∧ ∀ k < ch, s.chanRequest k = none := by
  unfold State.firstChannelWaiting allChannels
  rw [← Fin.findSome?_eq_findSome?_finRange, Fin.findSome?_eq_some_iff]
  simp

/-- `s` with the read of channel `ch` served and `r` as its request (R148, R149). -/
def State.channelServed (ch : ChanIx) (r : Option ReadRequest) : State :=
  { s with bpt := { s.bpt with consecutive := 0, chanRequests := s.bpt.chanRequests.set ch r } }

theorem State.imageRead_of_not {ch : ChanIx} (h : ∀ r, ¬ReadNext s ch r) : exec (.imageRead ch) s = .next s := by
  show execImageRead ch s = _
  unfold execImageRead
  by_cases he : s.bpt.evwRequest = none
  · rw [if_pos he]
    cases hw : s.firstChannelWaiting with
    | none => rfl
    | some p =>
      obtain ⟨k, r⟩ := p
      have hk : k ≠ ch := by
        rintro rfl
        obtain ⟨hr, hlow⟩ := (s.firstChannelWaiting_eq_some k r).mp hw
        exact h r ⟨he, hlow, hr⟩
      exact if_neg hk
  · rw [if_neg he]

theorem State.imageRead_of_next {ch : ChanIx} {r : ReadRequest} (h : ReadNext s ch r) :
    exec (.imageRead ch) s = .next (if r.dropped then (s.channelServed ch none).resume ch
      else (s.channelServed ch none).deliver ch (s.sramWord r.word)) := by
  obtain ⟨he, hlow, hr⟩ := h
  show execImageRead ch s = _
  unfold execImageRead
  rw [if_pos he, (s.firstChannelWaiting_eq_some ch r).mpr ⟨hr, hlow⟩]
  exact if_pos rfl

theorem State.imageRead_dropped {ch : ChanIx} {r : ReadRequest} (h : ReadNext s ch r) (hd : r.dropped = true) :
    exec (.imageRead ch) s = .next ((s.channelServed ch none).resume ch) := by
  rw [s.imageRead_of_next h, if_pos hd]

/-! ### Reads placed after a served one -/

/-- The read of the word that holds a window offset. -/
def readAt (x : Nat) : ReadRequest := { word := wordOfOffset x, dropped := false }

theorem State.imageRead_word {ch : ChanIx} {x : Nat} (h : ReadNext s ch (readAt x)) :
    exec (.imageRead ch) s = .next ((s.channelServed ch none).deliver ch (s.sramWord (wordOfOffset x))) := s.imageRead_of_next h

theorem State.chanRequest_channelServed (ch : ChanIx) (r : Option ReadRequest) : (s.channelServed ch r).chanRequest ch = r :=
  Vector.getElem_set_self _

theorem State.placeRead_of_none {ch : ChanIx} (h : s.chanRequest ch = none) : s.placeRead ch = s.setRequest ch (some (readAt (s.chan ch).pos)) := by
  unfold State.placeRead
  rw [h]
  rfl

theorem State.setRequest_channelServed (ch : ChanIx) (r q : Option ReadRequest) :
    (s.channelServed ch r).setRequest ch q = s.channelServed ch q := by
  unfold State.setRequest State.channelServed
  dsimp only
  rw [Vector.set_set]

theorem State.placeRead_channelServed (ch : ChanIx) :
    (s.channelServed ch none).placeRead ch = s.channelServed ch (some (readAt (s.chan ch).pos)) := by
  rw [State.placeRead_of_none _ (s.chanRequest_channelServed ch none), State.setRequest_channelServed]
  rfl

/-! ### The expander run after a served read -/

/-- `s` with the read of channel `ch` served, `r` as its request, its channel at `c'`, and its PROFILE-BLOCK queued where `offered` (R83, R84). -/
def State.channelRun (ch : ChanIx) (r : Option ReadRequest) (c' : Channel) (offered : Prop) [Decidable offered] : State :=
  { s.channelServed ch r with
    pex := { s.pex with chans := s.pex.chans.set ch c' }
    dsq := { s.dsq with reply := s.dsq.reply ++ if offered then [{ index := c'.index, kind := .profileBlock }] else [] } }

theorem Channel.turnReady_pos (c : Channel) : c.turnReady.pos = c.pos := by
  rw [Channel.turnReady_eq]

/-- A channel turns READY from FILLING alone (R83). -/
theorem Channel.turnReady_ready_iff (c : Channel) :
    (c.stage ≠ .ready ∧ c.turnReady.stage = .ready) ↔ (c.stage = .filling ∧ c.turnReady.stage = .ready) := by
  rw [Channel.turnReady_eq]
  dsimp only
  by_cases h : c.stage = .filling
  · simp [h]
  · simp [h]

theorem State.setRequest_channelRun (ch : ChanIx) (r q : Option ReadRequest) (c' : Channel) (offered : Prop) [Decidable offered] :
    (s.channelRun ch r c' offered).setRequest ch q = s.channelRun ch q c' offered := by
  unfold State.setRequest State.channelRun State.channelServed
  dsimp only
  rw [Vector.set_set]

theorem State.placeRead_channelRun (ch : ChanIx) (c' : Channel) (offered : Prop) [Decidable offered] :
    (s.channelRun ch none c' offered).placeRead ch = s.channelRun ch (some (readAt c'.pos)) c' offered := by
  have hchan : (s.channelRun ch none c' offered).chan ch = c' := Vector.getElem_set_self _
  rw [State.placeRead_of_none _ (Vector.getElem_set_self _), State.setRequest_channelRun, hchan]

theorem State.appendReply_channelServed (ch : ChanIx) (c' : Channel) (offered : Prop) [Decidable offered] :
    (if offered then ((s.channelServed ch none).setChan ch c').appendReply c'.index .profileBlock
      else (s.channelServed ch none).setChan ch c') = s.channelRun ch none c' offered := by
  unfold State.channelRun
  split
  · rfl
  · rw [List.append_nil]
    rfl

theorem State.runFill_channelServed {ch : ChanIx} {bytes : List Byte} {c1 : Channel} {w : Bool}
    (h : (s.chan ch).fill (s.dirEntry (s.chan ch).dir).past 64 bytes = (c1, w)) (hst : c1.stage = (s.chan ch).stage) :
    (s.channelServed ch none).runFill ch bytes = s.channelRun ch (if w then some (readAt c1.pos) else none) c1.turnReady
      ((s.chan ch).stage = .filling ∧ c1.turnReady.stage = .ready) := by
  have hchan : (s.channelServed ch none).chan ch = s.chan ch := rfl
  have hdir : (s.channelServed ch none).dirEntry (s.chan ch).dir = s.dirEntry (s.chan ch).dir := rfl
  have hready := c1.turnReady_ready_iff
  rw [hst] at hready
  unfold State.runFill
  simp only [hchan, hdir, h, hready, State.appendReply_channelServed]
  cases w with
  | false => rfl
  | true =>
    rw [if_pos rfl, if_pos rfl, State.placeRead_channelRun, Channel.turnReady_pos]

/-! ### A word for a filling buffer -/

/-- One IMAGE_READ for a channel that fills a buffer (R83, R84). -/
theorem State.imageRead_fills {ch : ChanIx} {bs ys : List Byte} (hscan : (s.chan ch).stage ≠ .scanning)
    (hb : (s.chan ch).buffer (s.chan ch).next = .filling bs) (hlen : bs.length < 16)
    (hother : ∀ b, (s.chan ch).buffer ((s.chan ch).next + 1) ≠ .filling b) (hlive : (s.chan ch).item.Live)
    (hpos : (s.chan ch).pos < 65536) (ho : owed (s.chan ch).item (spanBytes s.windowByte (s.chan ch).pos (s.dirEntry (s.chan ch).dir).past) = some ys)
    (hr : ReadNext s ch (readAt (s.chan ch).pos)) :
    ∃ (c1 : Channel) (m : Nat) (zs : List Byte) (w : Bool), c1.stage = (s.chan ch).stage ∧
      Channel.FilledWord s.windowByte (s.dirEntry (s.chan ch).dir).past (4 * ((s.chan ch).pos / 4 + 1)) (s.chan ch) bs ys c1 m zs w ∧
      exec (.imageRead ch) s = .next (s.channelRun ch (if w then some (readAt c1.pos) else none) c1.turnReady
        ((s.chan ch).stage = .filling ∧ c1.turnReady.stage = .ready)) := by
  have hW : (s.chan ch).pos ≤ 4 * ((s.chan ch).pos / 4 + 1) := by omega
  have hrun := Channel.wordRun (fuel := 64) hb hlen hW hother hlive ho (by omega)
  obtain ⟨m, zs, hf⟩ := hrun.filledWord hW hother
  refine ⟨_, m, zs, _, hrun.stage, hf, ?_⟩
  rw [s.imageRead_word hr]
  refine congrArg _ (Eq.trans ?_ (s.runFill_channelServed rfl hrun.stage))
  rw [← bytesFrom_sramWord s hpos]
  exact if_neg hscan

/-! ### A discarded read -/

theorem State.channelRun_self (ch : ChanIx) (r : Option ReadRequest) {offered : Prop} [Decidable offered] (h : ¬offered) :
    s.channelRun ch r (s.chan ch) offered = s.channelServed ch r := by
  unfold State.channelRun State.chan
  rw [if_neg h, List.append_nil]
  simp [State.channelServed]

theorem State.resume_of_work {ch : ChanIx} (h : (s.chan ch).stage = .filling ∨ (s.chan ch).stage = .ready ∨
    ∃ ct j n, (s.chan ch).stage = .sent ct j n) : s.resume ch = s.runFill ch [] := by
  unfold State.resume
  rcases h with h | h | ⟨ct, j, n, h⟩ <;> rw [h]

theorem State.resume_of_rest {ch : ChanIx} (h : (s.chan ch).stage = .free ∨ ∃ o, (s.chan ch).stage = .reported o) : s.resume ch = s := by
  unfold State.resume
  rcases h with h | ⟨o, h⟩ <;> rw [h]

/-- A channel at work whose expander stops where it stands has its discarded read served with nothing else changed (log 32). -/
theorem State.runFill_of_stop {ch : ChanIx} {w : Bool} (hstop : (s.chan ch).fillStep (s.dirEntry (s.chan ch).dir).past [] = .stop (s.chan ch) w)
    (hready : ¬((s.chan ch).stage = .filling ∧ ((s.chan ch).buffer (s.chan ch).current).isFull = true)) :
    (s.channelServed ch none).runFill ch [] = s.channelServed ch (if w then some (readAt (s.chan ch).pos) else none) := by
  have hturn : (s.chan ch).turnReady = s.chan ch := if_neg hready
  rw [s.runFill_channelServed (Channel.fill_of_stop (by decide) hstop) rfl, hturn]
  exact s.channelRun_self ch _ (fun h => ChanStage.noConfusion (h.1.symm.trans h.2))

/-- With no byte at hand an item that needs one stops the expander, which wants the next word (R83). -/
theorem Channel.fillStep_starved {c : Channel} {past : Nat} {bs : List Byte} (hb : c.buffer c.next = .filling bs) (hlen : bs.length < 16)
    (hrep : ∀ v n, c.item ≠ .repeating v n) (hidle : c.item = .idle → c.pos < past) : c.fillStep past [] = .stop c true := by
  have hroom : ¬16 ≤ bs.length := Nat.not_le.mpr hlen
  cases hi : c.item with
  | idle => simp [Channel.fillStep, hb, hroom, hi, Nat.not_le.mpr (hidle hi)]
  | literal n => simp [Channel.fillStep, hb, hroom, hi]
  | awaitValue n => simp [Channel.fillStep, hb, hroom, hi]
  | repeating v n => exact absurd hi (hrep v n)

/-- With no buffer to fill the expander stops and wants nothing (R83). -/
theorem Channel.fillStep_unfilled {c : Channel} {past : Nat}
    (h : (c.buffer c.next).isFull = true ∨ (c.buffer c.next = .empty ∧ c.blocks ≤ c.next)) : c.fillStep past [] = .stop c false := by
  cases hb : c.buffer c.next with
  | full k last xs => exact c.fillStep_full hb
  | filling b => simp [hb, Buffer.isFull] at h
  | empty =>
    rw [c.fillStep_empty hb, if_neg]
    simp [hb, Buffer.isFull] at h
    omega

end Sys2Proof.Machine
end

section
set_option Elab.async false
/-! The pre-scan of an image (R78): what its totals are of, byte by byte and word by word. -/

namespace Sys2Proof.Machine

open Sys2Proof.Safety

/-! ### What an item in progress still needs -/

/-- The bytes that an item in progress still expands to (R77). -/
def ImageItem.pending : ImageItem → Nat
  | .idle => 0
  | .literal n => n
  | .awaitValue n => n
  | .repeating _ n => n

/-- The image bytes that an item in progress still needs (R77). -/
def ImageItem.follows : ImageItem → Nat
  | .idle => 0
  | .literal n => n
  | .awaitValue _ => 1
  | .repeating _ _ => 0

/-- An item as a pre-scan holds it: no repeat is under way, and a literal run has a byte to come (R78). -/
def ImageItem.Scans : ImageItem → Prop
  | .idle => True
  | .literal n => 1 ≤ n
  | .awaitValue _ => True
  | .repeating _ _ => False

theorem tagItem_scans (b : Byte) : (tagItem b).Scans := by
  unfold tagItem
  split
  · exact one_le_tagCount b
  · trivial

theorem tagItem_pending (b : Byte) : (tagItem b).pending = tagCount b := by
  unfold tagItem
  split <;> rfl

theorem tagItem_follows (b : Byte) : (tagItem b).follows = tagFollows b := by
  unfold tagItem tagFollows
  split <;> rfl

theorem literalNext_succ (n : Nat) : literalNext (n + 1) = if n = 0 then .idle else .literal n := by
  unfold literalNext
  by_cases h : n = 0
  · simp [h]
  · rw [if_neg (by omega), if_neg h, Nat.add_sub_cancel]

theorem literalNext_scans (n : Nat) : (literalNext n).Scans := by
  unfold literalNext
  split
  · trivial
  · show 1 ≤ n - 1
    omega

theorem literalNext_pending (n : Nat) : (literalNext (n + 1)).pending = n := by
  rw [literalNext_succ]
  split
  · symm; assumption
  · rfl

theorem literalNext_follows (n : Nat) : (literalNext (n + 1)).follows = n := by
  rw [literalNext_succ]
  split
  · symm; assumption
  · rfl

/-- An item with fewer image bytes left than it needs does not expand (R77). -/
theorem expand_eq_none_of_short {it : ImageItem} {bs : List Byte} (h : bs.length < it.follows) : expand it bs = none := by
  cases it with
  | idle => exact absurd h (Nat.not_lt_zero _)
  | repeating v n => rw [expand]
  | awaitValue n =>
    obtain rfl : bs = [] := List.eq_nil_of_length_eq_zero (Nat.lt_one_iff.mp h)
    rw [expand]
  | literal n =>
    induction bs generalizing n with
    | nil => rw [expand]
    | cons b bs ih =>
      have hn : bs.length + 1 < n := h
      have hnext : literalNext n = .literal (n - 1) := if_neg (by omega)
      rw [expand_literal_cons, hnext, ih (n - 1) (show bs.length < n - 1 by omega), Option.map_none]

/-- An item that expands gives all of its own bytes (R77). -/
theorem pending_le_length {it : ImageItem} {bs xs : List Byte} (hs : it.Scans) (h : expand it bs = some xs) : it.pending ≤ xs.length := by
  cases it with
  | idle => exact Nat.zero_le _
  | repeating v n => exact absurd hs id
  | awaitValue n =>
    cases bs with
    | nil => rw [expand] at h; cases h
    | cons b bs =>
      rw [expand] at h
      obtain ⟨ys, -, rfl⟩ := Option.map_eq_some_iff.mp h
      simp [ImageItem.pending]
  | literal n =>
    induction bs generalizing n xs with
    | nil => rw [expand] at h; cases h
    | cons b bs ih =>
      obtain ⟨n, rfl⟩ : ∃ k, n = k + 1 := ⟨n - 1, by have : 1 ≤ n := hs; omega⟩
      rw [expand_literal_cons, literalNext_succ] at h
      obtain ⟨ys, hy, rfl⟩ := Option.map_eq_some_iff.mp h
      show n + 1 ≤ ys.length + 1
      by_cases hn : n = 0
      · omega
      · rw [if_neg hn] at hy
        exact Nat.succ_le_succ (ih n (show 1 ≤ n by omega) hy)

/-! ### Sums -/

theorem foldl_byteSum (bs : List Byte) (n : Nat) : bs.foldl (fun n b => n + b.toNat) n = n + (bs.map BitVec.toNat).sum := by
  induction bs generalizing n with
  | nil => rfl
  | cons b bs ih => rw [List.foldl_cons, ih, List.map_cons, List.sum_cons, Nat.add_assoc]

theorem byteSum_eq (bs : List Byte) : byteSum bs = (bs.map BitVec.toNat).sum % 65536 := by
  rw [byteSum, foldl_byteSum, Nat.zero_add]

theorem byteSum_append_one (bs : List Byte) (b : Byte) : byteSum (bs ++ [b]) = (byteSum bs + b.toNat) % 65536 := by
  simp [byteSum_eq]

theorem byteSum_append_replicate (bs : List Byte) (n : Nat) (b : Byte) :
    byteSum (bs ++ List.replicate n b) = (byteSum bs + n * b.toNat) % 65536 := by
  simp [byteSum_eq]

/-! ### A pre-scan under way -/

namespace Channel

/-- Of an image the bytes `done` have been expanded and counted, the item in progress counted in full (R78). -/
structure Scanned (M : Nat → Byte) (past : Nat) (image done : List Byte) (c : Channel) : Prop where
  whole : expand .idle image = (expand c.item (spanBytes M c.pos past)).map (fun xs => done ++ xs)
  len : c.scanLen = done.length + c.item.pending
  limit : c.scanLen ≤ 4096
  sum : c.scanSum = byteSum done
  fits : c.pos + c.item.follows ≤ past
  scans : c.item.Scans

/-- Image bytes that are no good image: no expansion, or more than 4,096 bytes (R78). -/
def BadImage (image : List Byte) : Prop := ∀ xs, expand .idle image = some xs → 4096 < xs.length

/-- Between `c` and `c'` the position, the item and the totals of the pre-scan alone differ. -/
def SameScan (c c' : Channel) : Prop := c' = { c with pos := c'.pos, item := c'.item, scanLen := c'.scanLen, scanSum := c'.scanSum }

theorem SameScan.trans {a b d : Channel} (h : SameScan a b) (k : SameScan b d) : SameScan a d := by
  unfold SameScan at *
  rw [h] at k
  exact k

variable {c : Channel} {M : Nat → Byte} {past W : Nat} {image done : List Byte}

/-- What one byte of a pre-scan comes to. -/
inductive ByteScan (M : Nat → Byte) (past : Nat) (image : List Byte) (c : Channel) : Option Channel → Prop where
  | bad (h : BadImage image) : ByteScan M past image c none
  | more (c' : Channel) (done : List Byte) (hpos : c'.pos = c.pos + 1) (hsame : SameScan c c') (hc : Scanned M past image done c') :
    ByteScan M past image c (some c')

/-- A tag byte is scanned: its item is counted in full, unless it runs past the end or the limit (R78). -/
theorem byteScan_idle (h : Scanned M past image done c) (hpos : c.pos < past) (hi : c.item = .idle) :
    ByteScan M past image c (c.scanByte past (M c.pos)) := by
  have hwhole := h.whole
  have hlen := h.len
  rw [hi, spanBytes_of_lt hpos, expand_idle_cons] at hwhole
  rw [hi] at hlen
  unfold scanByte
  rw [hi]
  dsimp only
  split
  · next hshort =>
    refine .bad fun xs hxs => ?_
    have hnone : expand (tagItem (M c.pos)) (spanBytes M (c.pos + 1) past) = none :=
      expand_eq_none_of_short (by rw [tagItem_follows, spanBytes_length]; omega)
    rw [hnone] at hwhole
    exact absurd (hwhole.symm.trans hxs) (by simp)
  · next hfits =>
    split
    · next hlong =>
      refine .bad fun xs hxs => ?_
      obtain ⟨ys, hy, rfl⟩ := Option.map_eq_some_iff.mp (hwhole.symm.trans hxs)
      have := pending_le_length (tagItem_scans _) hy
      rw [tagItem_pending] at this
      rw [List.length_append]
      simp only [ImageItem.pending, Config.imageLimit] at hlen hlong
      omega
    · next hshort =>
      refine .more _ done rfl rfl ⟨hwhole, ?_, Nat.not_lt.mp hshort, h.sum, ?_, tagItem_scans _⟩
      · show c.scanLen + _ = _
        rw [hlen, tagItem_pending]
        rfl
      · show c.pos + 1 + _ ≤ past
        rw [tagItem_follows]
        omega

/-- A byte of a literal run is scanned. -/
theorem byteScan_literal {n : Nat} (h : Scanned M past image done c) (hpos : c.pos < past) (hi : c.item = .literal n) :
    ByteScan M past image c (c.scanByte past (M c.pos)) := by
  obtain ⟨hwhole, hlen, hlimit, hsum, hfits, hscans⟩ := h
  rw [hi] at hwhole hlen hfits hscans
  obtain ⟨n, rfl⟩ : ∃ k, n = k + 1 := ⟨n - 1, by have : 1 ≤ n := hscans; omega⟩
  rw [spanBytes_of_lt hpos, expand_literal_cons, Option.map_map] at hwhole
  unfold scanByte
  rw [hi]
  refine .more _ (done ++ [M c.pos]) rfl rfl ⟨hwhole.trans ?_, ?_, hlimit, ?_, ?_, literalNext_scans _⟩
  · exact congrArg (Option.map · _) (funext fun xs => by simp)
  · rw [literalNext_pending, List.length_append]
    simp only [ImageItem.pending] at hlen
    simp only [List.length_singleton]
    omega
  · rw [byteSum_append_one, hsum]
  · rw [literalNext_follows]
    simp only [ImageItem.follows] at hfits
    dsimp only
    omega

/-- The value byte of a repeat is scanned, with all the bytes it gives. -/
theorem byteScan_awaitValue {n : Nat} (h : Scanned M past image done c) (hpos : c.pos < past) (hi : c.item = .awaitValue n) :
    ByteScan M past image c (c.scanByte past (M c.pos)) := by
  obtain ⟨hwhole, hlen, hlimit, hsum, hfits, hscans⟩ := h
  rw [hi] at hwhole hlen
  rw [spanBytes_of_lt hpos, expand, Option.map_map] at hwhole
  unfold scanByte
  rw [hi]
  refine .more _ (done ++ List.replicate n (M c.pos)) rfl rfl ⟨hwhole.trans ?_, ?_, hlimit, ?_, hpos, trivial⟩
  · exact congrArg (Option.map · _) (funext fun xs => by simp)
  · rw [List.length_append, List.length_replicate]
    exact hlen
  · rw [byteSum_append_replicate, hsum]

theorem byteScan (h : Scanned M past image done c) (hpos : c.pos < past) : ByteScan M past image c (c.scanByte past (M c.pos)) := by
  cases hi : c.item with
  | idle => exact byteScan_idle h hpos hi
  | literal n => exact byteScan_literal h hpos hi
  | awaitValue n => exact byteScan_awaitValue h hpos hi
  | repeating v n =>
    have hscans := h.scans
    rw [hi] at hscans
    exact absurd hscans id

/-- What the bytes of a word come to: a bad image, or a pre-scan at the end of the word or of the image. -/
inductive WordScan (M : Nat → Byte) (past W : Nat) (image : List Byte) (c : Channel) : Option Channel → Prop where
  | bad (h : BadImage image) : WordScan M past W image c none
  | more (c' : Channel) (done : List Byte) (hend : past ≤ c'.pos ∨ c'.pos = W) (hsame : SameScan c c')
    (hc : Scanned M past image done c') : WordScan M past W image c (some c')

theorem wordScan (h : Scanned M past image done c) (hW : c.pos ≤ W) :
    WordScan M past W image c (c.scanBytes past (spanBytes M c.pos W)) := by
  obtain ⟨k, hk⟩ : ∃ k, W = c.pos + k := Nat.exists_eq_add_of_le hW
  induction k generalizing c done with
  | zero =>
    rw [spanBytes_of_le (by omega), scanBytes]
    exact .more c done (.inr hk.symm) rfl h
  | succ k ih =>
    rw [spanBytes_of_lt (by omega), scanBytes]
    by_cases hpast : past ≤ c.pos
    · rw [if_pos hpast]
      exact .more c done (.inl hpast) rfl h
    · rw [if_neg hpast]
      have hb := byteScan h (Nat.not_le.mp hpast)
      generalize c.scanByte past (M c.pos) = r at hb
      cases hb with
      | bad hbad => exact .bad hbad
      | more c' done' hpos hsame hc =>
        have hw := ih hc (by omega) (by omega)
        rw [hpos] at hw
        show WordScan M past W image c (c'.scanBytes past (spanBytes M (c.pos + 1) W))
        generalize c'.scanBytes past (spanBytes M (c.pos + 1) W) = r at hw
        cases hw with
        | bad hbad => exact .bad hbad
        | more c'' done'' hend hsame' hc' => exact .more c'' done'' hend (hsame.trans hsame') hc'

/-- A pre-scan at the end of its image has counted the whole expansion (R78). -/
theorem Scanned.ended (h : Scanned M past image done c) (hend : past ≤ c.pos) :
    expand .idle image = some done ∧ c.scanLen = done.length ∧ c.scanSum = byteSum done ∧ done.length ≤ 4096 := by
  obtain ⟨hwhole, hlen, hlimit, hsum, hfits, hscans⟩ := h
  have hidle : c.item = .idle := by
    cases hi : c.item with
    | idle => rfl
    | literal n =>
      rw [hi] at hfits hscans
      have h1 : 1 ≤ n := hscans
      have h2 : c.pos + n ≤ past := hfits
      omega
    | awaitValue n =>
      rw [hi] at hfits
      have h2 : c.pos + 1 ≤ past := hfits
      omega
    | repeating v n =>
      rw [hi] at hscans
      exact absurd hscans id
  rw [hidle] at hwhole hlen
  rw [spanBytes_of_le hend, expand, Option.map_some, List.append_nil] at hwhole
  have hl : c.scanLen = done.length := hlen
  exact ⟨hwhole, hl, hsum, hl ▸ hlimit⟩

end Channel

/-- The expansion of an image of at least one byte is not empty (R77). -/
theorem expand_ne_nil {b : Byte} {bs xs : List Byte} (h : expand .idle (b :: bs) = some xs) : 1 ≤ xs.length := by
  rw [expand_idle_cons] at h
  have := pending_le_length (tagItem_scans b) h
  rw [tagItem_pending] at this
  exact (one_le_tagCount b).trans this

end Sys2Proof.Machine
end

section
set_option Elab.async false
/-! The IMAGE_READs of a whole pre-scan (R78), and what settles O25. -/

namespace Sys2Proof.Machine

open Sys2Proof.Safety

variable (s : State)

/-! ### A pre-scan read word by word -/

/-- `s` with the read of channel `ch` served, `r` as its request, and its channel at `c`. -/
def State.channelScan (ch : ChanIx) (r : Option ReadRequest) (c : Channel) : State :=
  { s.channelServed ch r with pex := { s.pex with chans := s.pex.chans.set ch c } }

theorem State.chan_channelScan (ch : ChanIx) (r : Option ReadRequest) (c : Channel) : (s.channelScan ch r c).chan ch = c :=
  Vector.getElem_set_self _

theorem State.channelScan_self (ch : ChanIx) (r : Option ReadRequest) : s.channelScan ch r (s.chan ch) = s.channelServed ch r := by
  unfold State.channelScan State.chan
  simp [State.channelServed]

theorem State.channelScan_channelScan (ch : ChanIx) (r q : Option ReadRequest) (c d : Channel) :
    (s.channelScan ch r c).channelScan ch q d = s.channelScan ch q d := by
  unfold State.channelScan State.channelServed
  dsimp only
  rw [Vector.set_set, Vector.set_set]

theorem State.setChan_channelScan (ch : ChanIx) (r : Option ReadRequest) (c d : Channel) :
    (s.channelScan ch r c).setChan ch d = s.channelScan ch r d := by
  unfold State.setChan State.channelScan State.channelServed
  dsimp only
  rw [Vector.set_set]

theorem State.setDir_channelScan (ch : ChanIx) (r : Option ReadRequest) (c : Channel) (p : DirIx) (e : DirEntry) :
    (s.channelScan ch r c).setDir p e = (s.setDir p e).channelScan ch r c := rfl

theorem State.onRecord_channelScan (ch : ChanIx) (r : Option ReadRequest) (c : Channel) (i : RecIx) (f : Record → Record) :
    (s.channelScan ch r c).onRecord i f = (s.onRecord i f).channelScan ch r c := rfl

theorem State.channelRun_setChan (ch : ChanIx) (r : Option ReadRequest) (c d : Channel) {offered : Prop} [Decidable offered] (h : ¬offered) :
    (s.setChan ch c).channelRun ch r d offered = s.channelScan ch r d := by
  unfold State.setChan State.channelRun State.channelScan State.channelServed
  dsimp only
  rw [if_neg h, List.append_nil, Vector.set_set]

theorem State.placeRead_channelScan (ch : ChanIx) (c : Channel) :
    (s.channelScan ch none c).placeRead ch = s.channelScan ch (some (readAt c.pos)) c := by
  rw [State.placeRead_of_none _ (Vector.getElem_set_self _), State.chan_channelScan]
  unfold State.setRequest State.channelScan State.channelServed
  dsimp only
  rw [Vector.set_set]

/-- The next read of a pre-scan ranks highest as the one before it did (R148). -/
theorem State.readNext_channelScan {ch : ChanIx} {r : ReadRequest} (h : ReadNext s ch r) (q : ReadRequest) (c : Channel) :
    ReadNext (s.channelScan ch (some q) c) ch q := by
  obtain ⟨he, hlow, -⟩ := h
  refine ⟨he, fun k hk => ?_, Vector.getElem_set_self _⟩
  have hne : (ch : Nat) ≠ k := fun e => absurd (Fin.ext e) hk.ne'
  exact (Vector.getElem_set_ne ch.isLt k.isLt hne).trans (hlow k hk)

/-- What the reads of a pre-scan leave (R78): the channel's push ended for a bad image, or a good image with the totals of its expansion. -/
inductive ScanEnd (s : State) (ch : ChanIx) (image : List Byte) (t : State) : Prop where
  | bad (c' : Channel) (hbad : Channel.BadImage image) (hsame : Channel.SameScan (s.chan ch) c')
    (ht : t = (s.channelScan ch none c').reportPush ch .imageFailed)
  | good (c' : Channel) (xs : List Byte) (hwhole : expand .idle image = some xs) (hlen : c'.scanLen = xs.length)
    (hsum : c'.scanSum = byteSum xs) (hlimit : xs.length ≤ 4096) (hsame : Channel.SameScan (s.chan ch) c')
    (ht : t = (s.channelScan ch none c').scanGood ch)

/-- What a pre-scan leaves after its next read, it leaves. -/
theorem ScanEnd.of_channelScan {ch : ChanIx} {r : Option ReadRequest} {c : Channel} {image : List Byte} {t : State}
    (hsame : Channel.SameScan (s.chan ch) c) (h : ScanEnd (s.channelScan ch r c) ch image t) : ScanEnd s ch image t := by
  cases h with
  | bad c' hbad hs ht =>
    rw [State.chan_channelScan] at hs
    rw [State.channelScan_channelScan] at ht
    exact .bad c' hbad (hsame.trans hs) ht
  | good c' xs hwhole hlen hsum hlimit hs ht =>
    rw [State.chan_channelScan] at hs
    rw [State.channelScan_channelScan] at ht
    exact .good c' xs hwhole hlen hsum hlimit (hsame.trans hs) ht

/-- The word at the position of a pre-scan under way is served (R78). -/
theorem State.imageRead_scans {ch : ChanIx} (hstage : (s.chan ch).stage = .scanning) (hpos : (s.chan ch).pos < 65536)
    (hr : ReadNext s ch (readAt (s.chan ch).pos)) :
    exec (.imageRead ch) s = .next
      (match (s.chan ch).scanBytes (s.dirEntry (s.chan ch).dir).past
          (spanBytes s.windowByte (s.chan ch).pos (4 * ((s.chan ch).pos / 4 + 1))) with
      | none => (s.channelScan ch none (s.chan ch)).reportPush ch .imageFailed
      | some c' => if (s.dirEntry (s.chan ch).dir).past ≤ c'.pos then (s.channelScan ch none c').scanGood ch
        else s.channelScan ch (some (readAt c'.pos)) c') := by
  rw [s.imageRead_word hr, ← bytesFrom_sramWord s hpos, s.channelScan_self]
  simp only [← State.placeRead_channelScan]
  exact congrArg _ (if_pos hstage)

/-- The offset after the image of the entry of channel `ch`. -/
def State.imageEnd (ch : ChanIx) : Nat := (s.dirEntry (s.chan ch).dir).past

/-- Channel `ch` has a pre-scan of `image` under way within the window, and its read ranks highest. -/
structure Scanning (s : State) (ch : ChanIx) (image : List Byte) : Prop where
  stage : (s.chan ch).stage = .scanning
  scanned : ∃ done, Channel.Scanned s.windowByte (s.imageEnd ch) image done (s.chan ch)
  pos : (s.chan ch).pos < s.imageEnd ch
  within : s.imageEnd ch ≤ 65536
  next : ReadNext s ch (readAt (s.chan ch).pos)

theorem State.imageEnd_channelScan {ch : ChanIx} {c : Channel} (hsame : Channel.SameScan (s.chan ch) c) (r : Option ReadRequest) :
    (s.channelScan ch r c).imageEnd ch = s.imageEnd ch := by
  have hdir : c.dir = (s.chan ch).dir := by rw [hsame]
  rw [State.imageEnd, State.chan_channelScan, hdir]
  rfl

/-- A pre-scan goes on at its next word. -/
theorem Scanning.channelScan {s : State} {ch : ChanIx} {image done : List Byte} {c : Channel} (h : Scanning s ch image)
    (hsame : Channel.SameScan (s.chan ch) c) (hc : Channel.Scanned s.windowByte (s.imageEnd ch) image done c)
    (hlt : c.pos < s.imageEnd ch) : Scanning (s.channelScan ch (some (readAt c.pos)) c) ch image := by
  have hchan := s.chan_channelScan ch (some (readAt c.pos)) c
  have hend := s.imageEnd_channelScan hsame (some (readAt c.pos))
  refine ⟨?_, ⟨done, ?_⟩, ?_, hend.trans_le h.within, ?_⟩
  · rw [hchan, hsame]
    exact h.stage
  · rw [hchan, hend]
    exact hc
  · rw [hchan, hend]
    exact hlt
  · rw [hchan]
    exact s.readNext_channelScan h.next (readAt c.pos) c

/-- What one read of a pre-scan leaves: the pre-scan ended, or under way at the next word (R78). -/
inductive ScanStep (s : State) (ch : ChanIx) (image : List Byte) (u : State) : Prop where
  | ended (h : ScanEnd s ch image u)
  | more (c : Channel) (done : List Byte) (hsame : Channel.SameScan (s.chan ch) c) (hlt : c.pos < s.imageEnd ch)
    (hpos : c.pos = 4 * ((s.chan ch).pos / 4 + 1)) (hc : Channel.Scanned s.windowByte (s.imageEnd ch) image done c)
    (hu : u = s.channelScan ch (some (readAt c.pos)) c)

theorem Scanning.step {s : State} {ch : ChanIx} {image : List Byte} (h : Scanning s ch image) :
    ∃ u, exec (.imageRead ch) s = .next u ∧ ScanStep s ch image u := by
  refine ⟨_, s.imageRead_scans h.stage (h.pos.trans_le h.within) h.next, ?_⟩
  obtain ⟨done, hc⟩ := h.scanned
  have hw := Channel.wordScan (W := 4 * ((s.chan ch).pos / 4 + 1)) hc (by omega)
  show ScanStep s ch image (match (s.chan ch).scanBytes (s.imageEnd ch) _ with | none => _ | some c' => _)
  generalize (s.chan ch).scanBytes (s.imageEnd ch) (spanBytes s.windowByte (s.chan ch).pos (4 * ((s.chan ch).pos / 4 + 1))) = r at hw
  cases hw with
  | bad hbad => exact .ended (.bad (s.chan ch) hbad rfl rfl)
  | more c' done' hend hsame hc' =>
    show ScanStep s ch image (if s.imageEnd ch ≤ c'.pos then _ else _)
    by_cases hpast : s.imageEnd ch ≤ c'.pos
    · obtain ⟨hwhole, hlen, hsum, hlimit⟩ := hc'.ended hpast
      rw [if_pos hpast]
      exact .ended (.good c' done' hwhole hlen hsum hlimit hsame rfl)
    · rw [if_neg hpast]
      exact .more c' done' hsame (Nat.not_le.mp hpast) (hend.resolve_left hpast) hc' rfl

/-- From a pre-scan under way as many IMAGE_READs as words are left end it (R78). -/
theorem Scanning.reads {s : State} {ch : ChanIx} {image : List Byte} {k : Nat} (h : Scanning s ch image)
    (hwords : (s.imageEnd ch - 1) / 4 ≤ (s.chan ch).pos / 4 + k) : ∃ n t, n ≤ k + 1 ∧ ImageReads ch n s t ∧ ScanEnd s ch image t := by
  induction k generalizing s with
  | zero =>
    obtain ⟨u, hu, hstep⟩ := h.step
    cases hstep with
    | ended hend => exact ⟨1, u, le_rfl, ⟨u, hu, rfl⟩, hend⟩
    | more c done hsame hlt hpos => omega
  | succ k ih =>
    obtain ⟨u, hu, hstep⟩ := h.step
    cases hstep with
    | ended hend => exact ⟨1, u, by omega, ⟨u, hu, rfl⟩, hend⟩
    | more c done hsame hlt hpos hc hu' =>
      subst hu'
      obtain ⟨n, t, hn, hreads, hend⟩ := ih (h.channelScan hsame hc hlt) (by
        rw [s.imageEnd_channelScan hsame, s.chan_channelScan]
        omega)
      exact ⟨n + 1, t, by omega, ⟨_, hu, hreads⟩, hend.of_channelScan s hsame⟩

/-! ### A good image -/

/-- A channel that begins to fill buffer A with block 0 of `n`, from offset `x` (R83). -/
def Channel.beginFill (c : Channel) (n x : Nat) (a : Buffer) : Channel :=
  { c with stage := .filling, blocks := n, current := 0, retries := 0, bufA := a, bufB := .empty, pos := x, item := .idle, next := 0 }

/-- The expander begins buffer A and stops at once, wanting the first word of the image (R83). -/
theorem Channel.fill_beginFill (c : Channel) {n x past : Nat} (hn : n ≠ 0) (hx : x < past) :
    (c.beginFill n x .empty).fill past 64 [] = (c.beginFill n x (.filling []), true) := by
  have hbegin := (Channel.fillStep_empty (past := past) (c := c.beginFill n x .empty) rfl []).trans
    (if_pos (show 0 < n from Nat.pos_of_ne_zero hn))
  rw [Channel.fill_of_go hbegin]
  exact Channel.fill_of_stop (by decide) (Channel.fillStep_starved (c := c.beginFill n x (.filling [])) rfl (by decide) (by simp [beginFill])
    (fun _ => hx))

theorem State.runFill_beginFill {ch : ChanIx} {c : Channel} {n x : Nat} (hn : n ≠ 0) (hx : x < (s.dirEntry c.dir).past) :
    (s.channelScan ch none (c.beginFill n x .empty)).runFill ch [] = s.channelScan ch (some (readAt x)) (c.beginFill n x (.filling [])) := by
  have hchan : (s.setChan ch (c.beginFill n x .empty)).chan ch = c.beginFill n x .empty := State.chan_setChan_same _ _ _
  have hfill : ((s.setChan ch (c.beginFill n x .empty)).chan ch).fill
      ((s.setChan ch (c.beginFill n x .empty)).dirEntry ((s.setChan ch (c.beginFill n x .empty)).chan ch).dir).past 64 [] =
      (c.beginFill n x (.filling []), true) := by
    rw [hchan]
    exact c.fill_beginFill hn hx
  refine ((s.setChan ch (c.beginFill n x .empty)).runFill_channelServed hfill (by rw [hchan]; rfl)).trans ?_
  exact s.channelRun_setChan ch _ _ _ (fun h => ChanStage.noConfusion h.2)

/-- What a good image of at least one block leaves (R78): its live half, its record's totals, and the channel FILLING with its read placed. -/
theorem State.scanGood_channelScan {ch : ChanIx} {c : Channel} (hn : blockCount c.scanLen ≠ 0) (hpos : 1 ≤ (s.dirEntry c.dir).length.toNat) :
    (s.channelScan ch none c).scanGood ch =
      ((s.setDir c.dir { s.dirEntry c.dir with expanded := c.scanLen, sum := c.scanSum }).onRecord c.index
          (fun r => { r with blocksTotal := blockCount c.scanLen, blocksAcked := 0 })).channelScan ch
        (some (readAt (s.dirEntry c.dir).offset.toNat)) (c.beginFill (blockCount c.scanLen) (s.dirEntry c.dir).offset.toNat (.filling [])) := by
  have hchan := s.chan_channelScan ch none c
  have hpast : ((s.setDir c.dir { s.dirEntry c.dir with expanded := c.scanLen, sum := c.scanSum }).dirEntry c.dir).past =
      (s.dirEntry c.dir).past := by
    simp [State.setDir, State.dirEntry, DirEntry.past]
  have hdir : (s.channelScan ch none c).dirEntry c.dir = s.dirEntry c.dir := rfl
  unfold State.scanGood
  dsimp only
  rw [hchan, if_neg hn, hdir, State.setDir_channelScan, State.onRecord_channelScan, State.setChan_channelScan]
  exact State.runFill_beginFill _ hn (by
    show _ < ((s.setDir c.dir _).dirEntry c.dir).past
    rw [hpast, DirEntry.past]
    omega)

/-! ### From the start of a pre-scan to its end -/

/-- A pre-scan at its first byte (R78). -/
theorem scanning_start {ch : ChanIx} {e : DirEntry} (he : s.dirEntry (s.chan ch).dir = e) (hstage : (s.chan ch).stage = .scanning)
    (hpos : (s.chan ch).pos = e.offset.toNat) (hitem : (s.chan ch).item = .idle) (hlen : (s.chan ch).scanLen = 0)
    (hsum : (s.chan ch).scanSum = 0) (hone : 1 ≤ e.length.toNat) (hwithin : e.past ≤ 65536) (hr : ReadNext s ch (readAt e.offset.toNat)) :
    Scanning s ch (imageBytes s e) := by
  have hend : s.imageEnd ch = e.past := congrArg DirEntry.past he
  have hpast : e.past = e.offset.toNat + e.length.toNat := rfl
  refine ⟨hstage, ⟨[], ?_, ?_, ?_, hsum, ?_, ?_⟩, ?_, hend.trans_le hwithin, hpos ▸ hr⟩
  · rw [imageBytes_eq, hitem, hpos, hend]
    simp
  · rw [hlen, hitem]
    rfl
  · omega
  · rw [hpos, hitem, hend]
    exact Nat.le_add_right _ _
  · rw [hitem]
    trivial
  · omega

/-- What a good image of at least one byte leaves (R78), field by field. -/
theorem scanEnd_good {ch : ChanIx} {c' : Channel} {xs : List Byte} (hsame : Channel.SameScan (s.chan ch) c') (hxs : 1 ≤ xs.length)
    (hlen : c'.scanLen = xs.length) (hsum : c'.scanSum = byteSum xs) (hone : 1 ≤ (s.dirEntry (s.chan ch).dir).length.toNat) :
    let t := (s.channelScan ch none c').scanGood ch
    let e := s.dirEntry (s.chan ch).dir
    t.dirEntry (s.chan ch).dir = { e with expanded := xs.length, sum := byteSum xs } ∧
    (t.record (s.chan ch).index).blocksTotal = (xs.length + 15) / 16 ∧ (t.record (s.chan ch).index).blocksAcked = 0 ∧
    t.chan ch = { s.chan ch with
      stage := .filling, blocks := (xs.length + 15) / 16, current := 0, retries := 0, bufA := .filling [], bufB := .empty
      pos := e.offset.toNat, item := .idle, next := 0, scanLen := xs.length, scanSum := byteSum xs } ∧
    t.chanRequest ch = some (readAt e.offset.toNat) ∧ t.dsq = s.dsq ∧ t.pex.reports = s.pex.reports := by
  intro t e
  have hdir : c'.dir = (s.chan ch).dir := by rw [hsame]
  have hindex : c'.index = (s.chan ch).index := by rw [hsame]
  have ht := s.scanGood_channelScan (ch := ch) (c := c') (by rw [hlen, blockCount]; omega) (by rw [hdir]; exact hone)
  rw [hlen, hsum, hdir, hindex] at ht
  have hrec : t.record (s.chan ch).index = { s.record (s.chan ch).index with blocksTotal := blockCount xs.length, blocksAcked := 0 } := by
    rw [show t = _ from ht]
    exact Vector.getElem_set_self _
  refine ⟨?_, congrArg Record.blocksTotal hrec, congrArg Record.blocksAcked hrec, ?_, ?_, ?_, ?_⟩
  · rw [show t = _ from ht]
    exact Vector.getElem_set_self _
  · rw [show t = _ from ht, State.chan_channelScan, hsame, Channel.beginFill, hlen, hsum]
    rfl
  · rw [show t = _ from ht]
    exact Vector.getElem_set_self _
  · rw [show t = _ from ht]
    rfl
  · rw [show t = _ from ht]
    rfl

/-- What a bad image leaves (R78): the live half as it was, and the push ended with an image failure. -/
theorem scanEnd_bad {ch : ChanIx} {c' : Channel} (hsame : Channel.SameScan (s.chan ch) c') :
    let t := (s.channelScan ch none c').reportPush ch .imageFailed
    t.dirEntry (s.chan ch).dir = s.dirEntry (s.chan ch).dir ∧ (t.chan ch).stage = .reported .imageFailed ∧ t.records = s.records ∧
      t.pex.reports = s.pex.reports ++ [{ index := (s.chan ch).index, chan := ch }] := by
  have hchan := s.chan_channelScan ch none c'
  have hindex : c'.index = (s.chan ch).index := by rw [hsame]
  refine ⟨rfl, congrArg Channel.stage (State.chan_setChan_same _ ch _), rfl, ?_⟩
  show s.pex.reports ++ [{ index := ((s.channelScan ch none c').chan ch).index, chan := ch }] = _
  rw [hchan, hindex]

end Sys2Proof.Machine

namespace Sys2Proof.Proofs

open Sys2Proof.Machine Sys2Proof.Safety

/-- Settles O25: the reads by rank, the whole pre-scan by its words, and one word for a filling buffer by the run of the expander. -/
theorem preScan : Obligations.PreScan := by
  intro s ch c e past wordAt served atWork
  refine ⟨s.imageRead_of_not, ?_, ?_, ?_⟩
  · intro hstage hpos hitem hlen hsum hone harea hwithin hr
    have hscan := scanning_start s (ch := ch) (e := e) rfl hstage hpos hitem hlen hsum hone hwithin hr
    obtain ⟨n, t, hn, hreads, hend⟩ := hscan.reads (k := (e.past - 1) / 4 - e.offset.toNat / 4) (by
      show (e.past - 1) / 4 ≤ c.pos / 4 + _
      omega)
    have hpast : e.past = e.offset.toNat + e.length.toNat := rfl
    refine ⟨n, t, by omega, hreads, ?_⟩
    intro failed
    cases hend with
    | bad c' hbad hsame ht =>
      have hfailed : failed := by
        subst ht
        exact scanEnd_bad s hsame
      cases hx : expand .idle (imageBytes s e) with
      | none => exact hfailed
      | some xs => exact (if_neg (Nat.not_le.mpr (hbad xs hx))).mpr hfailed
    | good c' xs hwhole hlen' hsum' hlimit hsame ht =>
      have hxs : 1 ≤ xs.length := by
        rw [imageBytes_eq, spanBytes_of_lt (by omega)] at hwhole
        exact expand_ne_nil hwhole
      rw [hwhole]
      refine (if_pos hlimit).mpr ?_
      rw [ht]
      exact scanEnd_good s hsame hxs hlen' hsum' hone
  · intro bs ys hwork hb hlen hother hrep hawait hoff hlt hwithin ho hblocks hr
    have hscan : c.stage ≠ .scanning := by
      intro h
      rcases hwork with (h' | h' | ⟨ct, j, n, h'⟩) | ⟨o, h'⟩ <;> exact ChanStage.noConfusion (h.symm.trans h')
    have hlive : c.item.Live := by
      cases hi : c.item with
      | idle => trivial
      | literal n => trivial
      | awaitValue n => exact fun hn => hawait (by rw [hi, hn])
      | repeating v n => exact absurd hi (hrep v n)
    rw [imageFrom_eq s hoff] at ho
    obtain ⟨c1, m, zs, w, hst, hf, hexec⟩ := s.imageRead_fills hscan hb hlen hother hlive (hlt.trans_le hwithin) ho hr
    have hstage' := hf.same.turnReady_stage hst
    have hexec' : exec (.imageRead ch) s = .next (s.channelRun ch (if w then some (readAt c1.turnReady.pos) else none) c1.turnReady
        (c.stage = .filling ∧ c1.turnReady.stage = .ready)) := by
      rw [Channel.turnReady_pos]
      exact hexec
    replace hf := hf.turnReady
    generalize c1.turnReady = c' at hf hstage' hexec'
    have hindex : c'.index = c.index := by
      have hsame := hf.same
      unfold Channel.SameWork at hsame
      rw [hsame]
    have howed : owed c'.item (imageFrom s e c'.pos) = some zs := by
      rw [imageFrom_eq s (hoff.trans hf.pos)]
      exact hf.owes
    refine ⟨c', m, zs, hf.le_two, hf.next, howed, hf.tail, hf.same, hstage', hf.cuts, fun h => ⟨hf.wants.mpr (hf.first h).1, (hf.first h).2⟩,
      fun h he hl => hf.wants.mpr (hf.begun h he hl), hf.kept, hf.both, fun h => hf.ends (hf.wants.mp h),
      fun h => hf.spent (Bool.eq_false_iff.mpr fun hw => h (hf.wants.mpr hw)),
      if w then some (wordAt c'.pos) else none, fun h => if_pos (hf.wants.mp h), fun h => if_neg fun hw => h (hf.wants.mpr hw), ?_⟩
    rw [← hindex]
    exact hexec'
  · intro r hr hd
    rw [s.imageRead_dropped hr hd]
    refine ⟨fun hidle => ?_, fun hstage => ?_, fun hwork hready => ⟨fun bs hb hlen hrep hidle => ?_, fun hfull => ?_⟩⟩
    · exact congrArg _ (State.resume_of_rest (s.channelServed ch none) hidle)
    · refine congrArg _ ?_
      unfold State.resume
      rw [show ((s.channelServed ch none).chan ch).stage = _ from hstage]
      exact s.placeRead_channelServed ch
    · rw [State.resume_of_work (s.channelServed ch none) hwork]
      exact congrArg _ (s.runFill_of_stop (Channel.fillStep_starved hb hlen hrep hidle) hready)
    · rw [State.resume_of_work (s.channelServed ch none) hwork]
      exact congrArg _ (s.runFill_of_stop (Channel.fillStep_unfilled hfull) hready)

end Sys2Proof.Proofs
end

section
set_option Elab.async false
/-! The capacities (R39, R44, R111, R149, R151, R154): what the shared operations leave of the capture queue and of the consecutive-access count. -/

namespace Sys2Proof.Machine

open Sys2Proof.Safety

variable (s : State)

/-! ### The capture queue stands -/

@[simp] theorem State.disarm_captures : s.disarm.brx.queue = s.brx.queue := rfl

@[simp] theorem State.arm_captures (id : Interval) : (s.arm id).brx.queue = s.brx.queue := rfl

@[simp] theorem State.rehunt_captures : s.rehunt.brx.queue = s.brx.queue := rfl

@[simp] theorem State.endWindow_captures (w : Window) : (s.endWindow w).brx.queue = s.brx.queue := by
  simp [State.endWindow]

@[simp] theorem State.endQuiet_captures : s.endQuiet.brx.queue = s.brx.queue := by
  obtain ⟨-, -, -, hq, -⟩ := s.endQuiet_spec
  exact hq

@[simp] theorem State.voidSlots_captures (p : Slot → Bool) : (s.voidSlots p).brx.queue = s.brx.queue := by
  obtain ⟨-, hq, -⟩ := s.voidSlots_spec p
  exact hq

@[simp] theorem State.voidBookingOf_captures (i : RecIx) : (s.voidBookingOf i).brx.queue = s.brx.queue := s.voidSlots_captures _

@[simp] theorem State.voidIdent_captures (n : Nat) : (s.voidIdent n).brx.queue = s.brx.queue := s.voidSlots_captures _

@[simp] theorem State.dropRanging_captures (i : RecIx) : (s.dropRanging i).brx.queue = s.brx.queue := by
  unfold State.dropRanging
  dsimp only
  split <;> simp

@[simp] theorem State.endAllWork_captures : s.endAllWork.brx.queue = s.brx.queue := by
  obtain ⟨-, -, -, -, -, -, -, -, hq⟩ := s.endAllWork_spec
  exact hq

@[simp] theorem State.endFilled_captures (id : Interval) : (s.endFilled id).brx.queue = s.brx.queue := by
  unfold State.endFilled
  split
  · split <;> simp
  all_goals rfl

@[simp] theorem State.handleEcho_captures (c : Capture) : (s.handleEcho c).brx.queue = s.brx.queue := by
  unfold State.handleEcho
  split
  · rfl
  · split
    · unfold State.echoInAttempt
      dsimp only
      (repeat' split) <;> simp
    · rfl

@[simp] theorem State.handleSettle_captures (c : Capture) : (s.handleSettle c).brx.queue = s.brx.queue := by
  unfold State.handleSettle
  split
  · simp
  · split
    · split
      · split
        · rfl
        · unfold State.settleReply
          dsimp only
          (repeat' split) <;> simp
      all_goals rfl
    · rfl

@[simp] theorem State.handleBlockReply_captures (c : Capture) : (s.handleBlockReply c).brx.queue = s.brx.queue := by
  unfold State.handleBlockReply
  (repeat' split) <;> simp

@[simp] theorem State.dropTimeline_captures : s.dropTimeline.brx.queue = s.brx.queue := by
  obtain ⟨-, hb, -⟩ := s.dropTimeline_spec
  rw [hb]
  rfl

@[simp] theorem State.startInterval_captures : s.startInterval.brx.queue = s.brx.queue := by
  unfold State.startInterval
  split
  · rfl
  · split <;> rfl

@[simp] theorem State.windowRunsOut_captures : s.windowRunsOut.brx.queue = s.brx.queue := by
  unfold State.windowRunsOut
  split
  · split <;> simp
  all_goals rfl

@[simp] theorem State.slotEnds_captures (e : Slot) : (s.slotEnds e).brx.queue = s.brx.queue := by
  unfold State.slotEnds
  split <;> simp

@[simp] theorem State.garble_captures (id : Interval) : (s.garble id).brx.queue = s.brx.queue := by
  simp [State.garble]

/-! ### The consecutive-access count stands -/

@[simp] theorem State.setRequest_consecutive (ch : ChanIx) (r : Option ReadRequest) :
    (s.setRequest ch r).bpt.consecutive = s.bpt.consecutive := rfl

@[simp] theorem State.placeRead_consecutive (ch : ChanIx) : (s.placeRead ch).bpt.consecutive = s.bpt.consecutive := by
  unfold State.placeRead
  split <;> rfl

@[simp] theorem State.dropRead_consecutive (ch : ChanIx) : (s.dropRead ch).bpt.consecutive = s.bpt.consecutive := by
  unfold State.dropRead
  split <;> rfl

@[simp] theorem State.freeChannel_consecutive (ch : ChanIx) : (s.freeChannel ch).bpt.consecutive = s.bpt.consecutive := by
  simp [State.freeChannel]

@[simp] theorem State.runFill_consecutive (ch : ChanIx) (bs : List Byte) : (s.runFill ch bs).bpt.consecutive = s.bpt.consecutive := by
  unfold State.runFill
  dsimp only
  split <;> split <;> simp

@[simp] theorem State.scanGood_consecutive (ch : ChanIx) : (s.scanGood ch).bpt.consecutive = s.bpt.consecutive := by
  unfold State.scanGood
  dsimp only
  split <;> simp

@[simp] theorem State.startScan_consecutive (ch : ChanIx) : (s.startScan ch).bpt.consecutive = s.bpt.consecutive := by
  unfold State.startScan
  dsimp only
  split
  · simp
  · split <;> simp

@[simp] theorem State.grantChannel_consecutive (ch : ChanIx) (i : RecIx) : (s.grantChannel ch i).bpt.consecutive = s.bpt.consecutive := by
  simp [State.grantChannel]

@[simp] theorem State.ackBlock_consecutive (ch : ChanIx) : (s.ackBlock ch).bpt.consecutive = s.bpt.consecutive := by
  unfold State.ackBlock
  dsimp only
  split <;> simp

@[simp] theorem State.deliver_consecutive (ch : ChanIx) (d : Word) : (s.deliver ch d).bpt.consecutive = s.bpt.consecutive := by
  unfold State.deliver
  dsimp only
  (repeat' split) <;> simp

@[simp] theorem State.resume_consecutive (ch : ChanIx) : (s.resume ch).bpt.consecutive = s.bpt.consecutive := by
  unfold State.resume
  split <;> simp

@[simp] theorem State.handleBlockReply_consecutive (c : Capture) : (s.handleBlockReply c).bpt.consecutive = s.bpt.consecutive := by
  unfold State.handleBlockReply
  (repeat' split) <;> simp

@[simp] theorem State.endAllWork_consecutive : s.endAllWork.bpt.consecutive = s.bpt.consecutive := by
  obtain ⟨-, -, hb⟩ := s.endQuiet.abandonRound.voidAllSlots.clearPex_spec
  show s.endQuiet.abandonRound.voidAllSlots.clearPex.bpt.consecutive = _
  rw [hb]
  simp

@[simp] theorem State.endSnapshots_consecutive (w : WinWord) : (s.endSnapshots w).bpt.consecutive = s.bpt.consecutive := rfl

@[simp] theorem State.placeEventWord_consecutive (e : Event) (k : Nat) : (s.placeEventWord e k).bpt.consecutive = s.bpt.consecutive := rfl

@[simp] theorem State.placeLoad_consecutive (n : Nat) : (s.placeLoad n).bpt.consecutive = s.bpt.consecutive := rfl

/-! ### The stranger list and the park queue stand -/

@[simp] theorem State.abandonRound_strangers : s.abandonRound.dsu.strangers = s.dsu.strangers := by rw [State.abandonRound_dsu]

@[simp] theorem State.abandonRound_parks : s.abandonRound.dsu.parks = s.dsu.parks := by rw [State.abandonRound_dsu]

@[simp] theorem State.askEnded_strangers (p : Purpose) : (s.askEnded p).dsu.strangers = s.dsu.strangers := by
  unfold State.askEnded
  split <;> simp

@[simp] theorem State.askEnded_parks (p : Purpose) : (s.askEnded p).dsu.parks = s.dsu.parks := by
  unfold State.askEnded
  split <;> simp

@[simp] theorem State.setRound_strangers (r : Round) : (s.setRound r).dsu.strangers = s.dsu.strangers := rfl

@[simp] theorem State.setRound_parks (r : Round) : (s.setRound r).dsu.parks = s.dsu.parks := rfl

@[simp] theorem State.markGarbled_strangers (id : Interval) : (s.markGarbled id).dsu.strangers = s.dsu.strangers := by
  unfold State.markGarbled
  split
  · split <;> rfl
  all_goals rfl

@[simp] theorem State.markGarbled_parks (id : Interval) : (s.markGarbled id).dsu.parks = s.dsu.parks := by
  unfold State.markGarbled
  split
  · split <;> rfl
  all_goals rfl

@[simp] theorem State.dropTimeline_lists :
    s.dropTimeline.dsu.strangers = s.dsu.strangers ∧ s.dropTimeline.dsu.parks = s.dsu.parks := by
  obtain ⟨-, -, -, -, hd, -⟩ := s.dropTimeline_spec
  rw [hd]
  exact ⟨rfl, rfl⟩

@[simp] theorem State.arbitrate_lists : s.arbitrate.dsu.strangers = s.dsu.strangers ∧ s.arbitrate.dsu.parks = s.dsu.parks := by
  have discovery : s.grantDiscovery.dsu.strangers = s.dsu.strangers ∧ s.grantDiscovery.dsu.parks = s.dsu.parks := by
    simp [State.grantDiscovery]
  have deferred : s.deferDiscovery.dsu.strangers = s.dsu.strangers ∧ s.deferDiscovery.dsu.parks = s.dsu.parks := ⟨rfl, rfl⟩
  unfold State.arbitrate
  (repeat' split) <;> simp [discovery, deferred]

@[simp] theorem State.advanceQuiet_lists :
    s.advanceQuiet.dsu.strangers = s.dsu.strangers ∧ s.advanceQuiet.dsu.parks = s.dsu.parks := by
  unfold State.advanceQuiet
  split
  · simp
  · split <;> simp [State.missWindow]
  · simp
  · simp

end Sys2Proof.Machine
end

section
set_option Elab.async false
/-! The capacities kept, operation by operation. -/

namespace Sys2Proof.Safety

open Sys2Proof.Machine


/-- Nothing that the capacities are of has changed. -/
theorem Bounded.same {s t : State} (h : Bounded s) (hs : t.sram = s.sram := by simp) (he : t.evw.queue = s.evw.queue := by simp)
    (hl : t.evw.lost = s.evw.lost := by simp) (hst : t.dsu.strangers = s.dsu.strangers := by simp)
    (hp : t.dsu.parks = s.dsu.parks := by simp) (hc : t.brx.queue = s.brx.queue := by simp)
    (hb : t.bpt.consecutive = s.bpt.consecutive := by simp) : Bounded t where
  sram := hs ▸ h.sram
  events := he ▸ h.events
  lost := hl ▸ h.lost
  strangers := hst ▸ h.strangers
  parks := hp ▸ h.parks
  captures := hc ▸ h.captures
  consecutive := hb ▸ h.consecutive

/-- What the steps of a fold keep, the fold keeps. -/
theorem Bounded.foldl {α : Type} (f : State → α → State) (hf : ∀ t a, Bounded t → Bounded (f t a)) (l : List α) :
    ∀ s, Bounded s → Bounded (l.foldl f s) := by
  induction l with
  | nil => exact fun _ h => h
  | cons a l ih => exact fun s h => ih _ (hf s a h)

section

variable {s : State} (h : Bounded s)
include h

/-! ### Events -/

/-- An event is taken while fewer than 8 wait and lost otherwise, the lost count saturating (R153, R154). -/
theorem Bounded.raise (e : Raise) : Bounded (s.raise e) := by
  have counted : satInc Config.counterMax s.evw.lost ≤ Config.counterMax := by
    have := h.lost
    unfold satInc
    split <;> omega
  unfold State.raise
  split
  · exact h
  · split
    · next hlt => exact ⟨h.sram, by simpa using hlt, Nat.zero_le _, h.strangers, h.parks, h.captures, h.consecutive⟩
    · exact ⟨h.sram, h.events, counted, h.strangers, h.parks, h.captures, h.consecutive⟩

theorem Bounded.count (k : CounterId) : Bounded (s.count k) := h.same

theorem Bounded.onRecord (i : RecIx) (f : Record → Record) : Bounded (s.onRecord i f) := h.same

theorem Bounded.appendControl (i : RecIx) (k : ControlKind) : Bounded (s.appendControl i k) := h.same

theorem Bounded.appendReply (i : RecIx) (k : ReplyKind) : Bounded (s.appendReply i k) := h.same

theorem Bounded.appendUrgent (i : RecIx) : Bounded (s.appendUrgent i) := h.same

theorem Bounded.leaveRanging (i : RecIx) : Bounded (s.leaveRanging i) := h.same

theorem Bounded.setSettle (i : RecIx) (x : Option Settle) : Bounded (s.setSettle i x) := h.same

theorem Bounded.raiseRecord (i : RecIx) (why : ChangeReason) : Bounded (s.raiseRecord i why) := h.raise _

theorem Bounded.enter (i : RecIx) (st : ActState) (why : ChangeReason) : Bounded (s.enter i st why) :=
  Bounded.raiseRecord (s := s.moveQuietly i st) h.same i why

theorem Bounded.discard (x : Byte) (why : DiscardReason) (o : Nat) : Bounded (s.discard x why o) := by
  unfold State.discard
  split
  · exact h
  · exact (h.count _).raise _

theorem Bounded.raisePort : Bounded s.raisePort := h.raise _

theorem Bounded.enterPort (p : PortState) : Bounded (s.enterPort p) :=
  Bounded.raisePort (s := { s with pct := { s.pct with port := p } }) (h.same rfl rfl rfl rfl rfl rfl rfl)

theorem Bounded.raiseLine (d : LineDetail) : Bounded (s.raiseLine d) := h.raise _

theorem Bounded.raiseQuiet (p : Purpose) (d : QuietDetail) (v : Cycle) : Bounded (s.raiseQuiet p d v) := h.raise _

theorem Bounded.followInterrupt : Bounded s.followInterrupt := h.same (he := rfl) (hl := rfl)

/-! ### Channels -/

theorem Bounded.grantWaiting (ch : ChanIx) : Bounded (s.grantWaiting ch) := by
  unfold State.grantWaiting
  split
  · exact h
  · next i rest _ =>
    have queued : Bounded { s with pex := { s.pex with waiting := rest } } := h.same rfl rfl rfl rfl rfl rfl rfl
    exact (queued.enter i .profiling .channel).same

theorem Bounded.negativeOutcome (ch : ChanIx) : Bounded (s.negativeOutcome ch) := h.same

theorem Bounded.restartChannel (ch : ChanIx) : Bounded (s.restartChannel ch) := by
  have raised := h.raise
    { kind := .image, index := indexByte (s.chan ch).index, detail0 := BitVec.ofNat 8 (s.chan ch).dir.val, detail1 := 0
      value := (s.record (s.chan ch).index).tag }
  unfold State.restartChannel
  dsimp only
  split
  · exact raised.same
  · exact raised.same

theorem Bounded.imageTouched (w : WinWord) (be : Enables) : Bounded (s.imageTouched w be) :=
  Bounded.foldl _ (fun t ch ht => by split; exacts [ht.restartChannel ch, ht]) _ s h

/-! ### Abandonment, release and settling -/

/-- A PARK is queued while fewer than 16 wait (R39). -/
theorem Bounded.queuePark (x : Serial) (r : Byte) : Bounded (s.queuePark x r) := by
  unfold State.queuePark
  split
  · next hlt => exact ⟨h.sram, h.events, h.lost, h.strangers, by simpa using hlt, h.captures, h.consecutive⟩
  · exact h.count _

theorem Bounded.unlist (x : Serial) : Bounded (s.unlist x) :=
  ⟨h.sram, h.events, h.lost, (List.length_filter_le _ _).trans h.strangers, h.parks, h.captures, h.consecutive⟩

theorem Bounded.dropPush (i : RecIx) : Bounded (s.dropPush i) := by
  have left : Bounded { s with pex := { s.pex with waiting := s.pex.waiting.filter (fun k => decide (k ≠ i)) } } :=
    h.same rfl rfl rfl rfl rfl rfl rfl
  unfold State.dropPush
  dsimp only
  split
  · exact left
  · exact Bounded.grantWaiting left.same _

theorem Bounded.abandonWork (i : RecIx) : Bounded (s.abandonWork i) :=
  Bounded.dropPush (s := ((s.dropMessages i).dropRanging i).voidBookingOf i) h.same i

theorem Bounded.release (i : RecIx) (d : RelDest) (why : ChangeReason) (f : Option FailReason) : Bounded (s.release i d why f) :=
  (((h.onRecord i _).enter i .releasing why).abandonWork i).appendUrgent i

theorem Bounded.fail (i : RecIx) (f : FailReason) : Bounded (s.fail i f) := h.release i _ _ _

theorem Bounded.enterEmpty (i : RecIx) (why : ChangeReason) : Bounded (s.enterEmpty i why) := (h.onRecord i _).raiseRecord i why

theorem Bounded.enterSettling (i : RecIx) (why : ChangeReason) : Bounded (s.enterSettling i why) :=
  (((h.onRecord i _).enter i .settling why).setSettle i _).appendReply i _

/-! ### Intents -/

theorem Bounded.admission (i : RecIx) : Bounded (s.admission i) := by
  unfold State.admission
  split
  · exact h.raise _
  · have listed := ((h.onRecord i Record.clearActivation).enter i .awaiting .intent).unlist (s.record i).serial
    dsimp only
    split
    · exact listed
    · exact listed.queuePark _ _

theorem Bounded.redirect (i : RecIx) (d : RelDest) : Bounded (s.redirect i d) := h.onRecord i _

theorem Bounded.actAdmit (i : RecIx) : Bounded (s.actAdmit i) := by
  unfold State.actAdmit
  split
  case h_1 | h_2 | h_3 => exact h.admission i
  case h_4 => exact h.redirect i _
  all_goals exact h

theorem Bounded.actHold (i : RecIx) : Bounded (s.actHold i) := by
  unfold State.actHold
  split
  case h_1 | h_2 | h_3 => exact h.enter i _ _
  case h_4 => exact h
  case h_5 => exact h.redirect i _
  all_goals exact h.release i _ _ _

theorem Bounded.actVacant (i : RecIx) : Bounded (s.actVacant i) := by
  unfold State.actVacant
  split
  case h_1 => exact h
  case h_2 | h_3 | h_4 => exact h.enterEmpty i _
  case h_5 => exact h.redirect i _
  all_goals exact h.release i _ _ _

theorem Bounded.actIntent (i : RecIx) : Bounded (s.actIntent i) := by
  unfold State.actIntent
  split
  · exact h.actVacant i
  · split
    · exact h.actAdmit i
    · split
      · exact h.actHold i
      · exact (h.discard _ _ _).actHold i

theorem Bounded.actAllIntents : Bounded s.actAllIntents := Bounded.foldl _ (fun _ i ht => ht.actIntent i) _ s h

/-! ### The port events -/

theorem Bounded.endAllWork : Bounded s.endAllWork := by
  obtain ⟨-, -, -, hd, -⟩ := s.endAllWork_spec
  refine ⟨?_, ?_, ?_, ?_, ?_, ?_, ?_⟩
  · simpa using h.sram
  · simpa using h.events
  · simpa using h.lost
  · rw [hd]; exact h.strangers
  · rw [hd]; exact Nat.zero_le _
  · simpa using h.captures
  · simpa using h.consecutive

theorem Bounded.returnRecord (i : RecIx) : Bounded (s.returnRecord i) := by
  unfold State.returnRecord
  split
  · exact (h.onRecord i _).enter i _ _
  · exact h

theorem Bounded.portReturn : Bounded s.portReturn := Bounded.foldl _ (fun _ i ht => ht.returnRecord i) _ _ h.endAllWork

end

/-! ### HELLOs -/

section

variable {s : State} (h : Bounded s)
include h

theorem Bounded.parkSerial (x : Serial) : Bounded (s.parkSerial x) := by
  unfold State.parkSerial
  split
  · exact h
  · exact h.queuePark _ _

/-- A stranger is listed while fewer than 32 are (R44). -/
theorem Bounded.listStranger (x : Serial) (conv : Conv) (resp : Nat) : Bounded (s.listStranger x conv resp) := by
  have listed : ∀ l : List Stranger, l.length ≤ Config.strangerPlaces → Bounded (s.setStrangers l) :=
    fun l hl => ⟨h.sram, h.events, h.lost, hl, h.parks, h.captures, h.consecutive⟩
  unfold State.listStranger
  split
  · split
    · exact listed _ (by rw [List.length_map]; exact h.strangers)
    · split
      · next hlt => exact (listed _ (by simpa using hlt)).raise _
      · exact h.count _
  · exact h.count _

theorem Bounded.reappear (i : RecIx) (conv : Conv) (resp : Nat) : Bounded (s.reappear i conv resp) :=
  ((((h.abandonWork i).raise _).onRecord i _).enter i _ _).appendControl i _

theorem Bounded.helloLive (i : RecIx) (conv : Conv) (resp : Nat) : Bounded (s.helloLive i conv resp) := by
  have seen : Bounded (s.onRecord i (fun r => r.sighted s.ltu.cycle)) := h.onRecord i _
  unfold State.helloLive
  dsimp only
  split
  case h_1 => exact ((seen.onRecord i _).enter i _ _).appendControl i _
  case h_2 => split; exacts [seen.reappear i conv resp, seen]
  case h_3 | h_10 | h_11 | h_12 => exact seen
  all_goals exact seen.reappear i conv resp

theorem Bounded.matchHello (x : Serial) (conv : Conv) (resp : Nat) : Bounded (s.matchHello x conv resp) := by
  unfold State.matchHello
  split
  · exact h.helloLive _ conv resp
  · split
    · exact (h.onRecord _ _).parkSerial x
    · exact (h.listStranger x conv resp).parkSerial x

theorem Bounded.handleHello (c : Capture) : Bounded (s.handleHello c) := by
  unfold State.handleHello
  split
  · split
    · unfold State.helloInWindow
      dsimp only
      split
      · exact h.count _
      · split
        · unfold State.duplicateHello
          split
          · exact h.same
          · exact Bounded.raise h.same _
        · refine Bounded.matchHello ?_ _ _ _
          split <;> exact h.same
    · exact h
  · exact h
  · exact h

/-! ### Outcomes -/

theorem Bounded.countAttempt (i : RecIx) (why : ChangeReason) : Bounded (s.countAttempt i why) := by
  unfold State.countAttempt
  dsimp only
  split
  · exact Bounded.enter h.same i _ _
  · exact (h.onRecord i _).fail i _

theorem Bounded.applyRanging (i : RecIx) (o : RangingOutcome) : Bounded (s.applyRanging i o) := by
  unfold State.applyRanging
  split
  · exact (((h.leaveRanging i).onRecord i _).enter i _ _).appendControl i _
  · exact h.countAttempt i _
  · exact h.fail i _

theorem Bounded.applySettle (i : RecIx) (x : Settle) (o : SettleOutcome) : Bounded (s.applySettle i x o) := by
  unfold State.applySettle
  split
  · exact h.fail i _
  · exact ((h.onRecord i _).setSettle i _).appendControl i _
  · exact (((h.onRecord i _).setSettle i _).enter i _ _).appendControl i _
  · exact (h.onRecord i _).countAttempt i _

theorem Bounded.applyPush (i : RecIx) (ch : ChanIx) (o : PushOutcome) : Bounded (s.applyPush i ch o) := by
  unfold State.applyPush
  split
  · exact (Bounded.enterSettling (h.same (t := (s.onRecord i _).freeChannel ch)) i _).grantWaiting ch
  · exact h.fail i _
  · exact h.fail i _

/-! ### Line time -/

theorem Bounded.dropTimeline : Bounded s.dropTimeline := h.same

theorem Bounded.advanceQuiet : Bounded s.advanceQuiet := h.same

theorem Bounded.requeueAsks : Bounded s.requeueAsks := h.same

theorem Bounded.requeueBlocks : Bounded s.requeueBlocks := h.same

theorem Bounded.slip : Bounded s.slip := (h.raiseLine .slip).dropTimeline.requeueAsks.requeueBlocks

theorem Bounded.cycleStart (c : Cycle) : Bounded (s.cycleStart c) := by
  have started : Bounded (s.startCycle c).presentDemand := h.same (hst := rfl) (hp := rfl)
  unfold State.cycleStart
  dsimp only
  split
  · exact started.followInterrupt
  · split
    · exact (Bounded.advanceQuiet (s := (s.startCycle c).presentDemand.advanceMap) started.same).followInterrupt
    · exact started.slip.followInterrupt

theorem Bounded.lineFalls : Bounded s.lineFalls := by
  unfold State.lineFalls
  split
  · have down : Bounded { s with ltu := { s.ltu with lineUp := false } } := h.same rfl rfl rfl rfl rfl rfl rfl
    exact (down.raiseLine .down).dropTimeline.portReturn
  · exact h

theorem Bounded.lineRises : Bounded s.lineRises := by
  unfold State.lineRises
  split
  · exact h
  · have up : Bounded { s with ltu := { s.ltu with lineUp := true, known := false, latestFetch := none } } :=
      h.same rfl rfl rfl rfl rfl rfl rfl
    exact up.raiseLine .up

theorem Bounded.askEnded (p : Purpose) : Bounded (s.askEnded p) := h.same

/-- An ask answered or timed out ends with its QUIET event, its count, and the demander told (R100 to R102). -/
theorem Bounded.quietEnded (p : Purpose) (d : QuietDetail) (v : Cycle) (k : CounterId) :
    Bounded ((((s.raiseQuiet p d v).count k).setQuiet .idle).askEnded p) := (h.raiseQuiet p d v).same

theorem Bounded.takeGive (cq : Cycle) : Bounded (s.takeGive cq) := by
  unfold State.takeGive
  split
  · split
    · exact h.same
    · exact Bounded.quietEnded (s := s.send .withdraw) h.same _ _ _ _
  all_goals exact h.count _

theorem Bounded.takeDeny : Bounded s.takeDeny := by
  unfold State.takeDeny
  split
  · exact h.quietEnded _ _ _ _
  all_goals exact h.count _

theorem Bounded.takeRevoke : Bounded s.takeRevoke := by
  unfold State.takeRevoke
  split
  · exact h.quietEnded _ _ _ _
  · exact (h.raiseQuiet _ _ _).count _
  all_goals exact h.count _

theorem Bounded.timeOutAsk : Bounded s.timeOutAsk := by
  unfold State.timeOutAsk
  split
  · split
    · exact Bounded.quietEnded (s := s.send .withdraw) h.same _ _ _ _
    · exact h
  all_goals exact h

end

end Sys2Proof.Safety
end

section
set_option Elab.async false
/-! The capacities kept: messages taken, the port, the load, the bus, the sample lane, and the step. -/

namespace Sys2Proof.Safety

open Sys2Proof.Machine

/-- The preamble is heard beside the captures (R113). -/
theorem preambleSample_queue (b : Brx) (p : Int) (x : Sample) : (b.preambleSample p x).queue = b.queue := by
  unfold Brx.preambleSample
  dsimp only
  generalize (if b.alternates x = true then b.run + 1 else 1) = run
  split <;> rfl

section

variable {s : State} (h : Bounded s)
include h

/-! ### Messages taken -/

theorem Bounded.inviteTaken (c : Cycle) (e : Nat) : Bounded (s.inviteTaken c e) := Bounded.count (s := s.setRound _) h.same _

theorem Bounded.rangeAskTaken : Bounded s.rangeAskTaken := h.same

theorem Bounded.windowTaken (m : BoundMessage) : Bounded (s.windowTaken m) := by
  unfold State.windowTaken
  dsimp only
  split
  · split
    all_goals exact Bounded.inviteTaken h.same _ _
  · split
    all_goals exact Bounded.rangeAskTaken h.same

theorem Bounded.releaseTaken (i : RecIx) : Bounded (s.releaseTaken i) := by
  have left : Bounded { s with dsq := { s.dsq with urgent := s.dsq.urgent.drop 1 } } := h.same rfl rfl rfl rfl rfl rfl rfl
  unfold State.releaseTaken
  dsimp only
  split
  · exact left.enterEmpty i _
  all_goals exact (left.onRecord i _).enter i _ _

theorem Bounded.equalizeTaken (i : RecIx) : Bounded (s.equalizeTaken i) := by
  unfold State.equalizeTaken
  split
  · split
    · exact (h.enter i .profiling .equalizeTaken).same
    · have waits : Bounded { s with pex := { s.pex with waiting := s.pex.waiting ++ [i] } } := h.same rfl rfl rfl rfl rfl rfl rfl
      exact waits.raiseRecord i _
  · exact h.enterSettling i _

theorem Bounded.controlTaken (e : ControlEntry) : Bounded (s.controlTaken e) := by
  have left : Bounded { s with dsq := { s.dsq with control := s.dsq.control.drop 1 } } := h.same rfl rfl rfl rfl rfl rfl rfl
  unfold State.controlTaken
  dsimp only
  generalize ({ s with dsq := { s.dsq with control := s.dsq.control.drop 1 } } : State) = s1 at left ⊢
  split
  · exact Bounded.raiseRecord (s := (s1.onRecord _ _).joinRanging _) left.same _ _
  · exact left.equalizeTaken _
  · exact (left.setSettle _ _).appendReply _ _
  · exact left.enter _ _ _

theorem Bounded.parkTaken : Bounded s.parkTaken :=
  ⟨h.sram, h.events, h.lost, h.strangers, (by simpa [State.parkTaken] using h.parks.trans (Nat.le_succ _)), h.captures, h.consecutive⟩

theorem Bounded.replyTaken (c : Cycle) (e : ReplyEntry) (o : Owner) (d j : Nat) : Bounded (s.replyTaken c e o d j) := by
  unfold State.replyTaken
  dsimp only
  split
  all_goals exact h.same rfl rfl rfl rfl rfl rfl rfl

theorem Bounded.takeChoice (c : Cycle) (x : Choice) : Bounded (s.takeChoice c x) := by
  unfold State.takeChoice
  split
  · exact h
  · exact h.windowTaken _
  · exact h.releaseTaken _
  · exact h.controlTaken _
  · exact h.parkTaken
  · exact h.replyTaken _ _ _ _ _

theorem Bounded.takeFetch (c : Cycle) : Bounded (s.takeFetch c) := by
  have recorded : Bounded (s.recordFetch c) := h.same
  unfold State.takeFetch
  dsimp only
  split
  · exact (recorded.takeChoice c ((s.recordFetch c).choose c)).same
  · exact recorded.same

/-! ### The port -/

theorem Bounded.enterConfig : Bounded s.enterConfig := Bounded.enterPort (s := s.setMap []) h.same .config

theorem Bounded.halt : Bounded s.halt := (h.enterPort .halted).portReturn

theorem Bounded.startDraining : Bounded s.startDraining := by
  unfold State.startDraining
  dsimp only
  split
  · exact (h.enterPort .draining).portReturn.enterConfig
  · exact (h.enterPort .draining).portReturn

theorem Bounded.refuseRun (r : RefusalCode) : Bounded (s.refuseRun r) := Bounded.raisePort (s := s.setRefusal r) h.same

theorem Bounded.validateRun : Bounded s.validateRun := by
  unfold State.validateRun
  split
  · exact h.refuseRun _
  · split
    · exact h.refuseRun _
    · have entered : Bounded ((s.setRefusal .clear).enterPort .running) := Bounded.enterPort h.same .running
      exact Bounded.actAllIntents (entered.same rfl rfl rfl rfl rfl rfl rfl)

theorem Bounded.runFromDraining : Bounded s.runFromDraining :=
  Bounded.actAllIntents ((h.enterPort .running).same rfl rfl rfl rfl rfl rfl rfl)

theorem Bounded.actPortIntent : Bounded s.actPortIntent := by
  unfold State.actPortIntent
  split
  · unfold State.actConfig
    split
    · exact h.startDraining
    · exact h.enterConfig
    all_goals exact h
  · split
    · unfold State.actRun
      split
      · exact h.validateRun
      · exact h.runFromDraining
      all_goals exact h
    · unfold State.actHalt
      split
      case h_1 | h_2 | h_3 => exact h.halt
      all_goals exact h

/-! ### The load and the bus -/

theorem Bounded.storeHeader (k : Nat) (data : Word) (be : Enables) : Bounded (s.storeHeader k data be) := by
  unfold State.storeHeader
  split
  · split
    · exact h.same rfl rfl rfl rfl rfl rfl rfl
    · exact h
  · dsimp only
    split <;> exact h.same rfl rfl rfl rfl rfl rfl rfl

theorem Bounded.storeSetup (w : Nat) (data : Word) (be : Enables) : Bounded (s.storeSetup w data be) := by
  unfold State.storeSetup
  split
  · exact h.storeHeader _ _ _
  · split
    · exact h.same
    · exact h.onRecord _ _

theorem Bounded.completeLoad : Bounded s.completeLoad := by
  have loaded : Bounded { s with
      pct := { s.pct with load := none }, bpt := { s.bpt with loadRequest := none }
      evw := { s.evw with producer := s.evw.consumer, written := [] } } := h.same rfl rfl rfl rfl rfl rfl rfl
  exact loaded.enterConfig.actPortIntent.followInterrupt

theorem Bounded.loadServed (data : Word) : Bounded (s.loadServed data) := by
  unfold State.loadServed
  split
  · exact h.same rfl rfl rfl rfl rfl rfl rfl
  · next n _ =>
    have stored := h.storeSetup (loadWord n).toNat data 0b1111
    dsimp only
    split
    · exact stored.same
    · exact stored.completeLoad

/-- An inserted request has been served: the count begins again (R149). -/
theorem Bounded.servedOne : Bounded s.servedOne :=
  ⟨h.sram, h.events, h.lost, h.strangers, h.parks, h.captures, Nat.zero_le _⟩

theorem Bounded.sramWrite (a : BusAddr) (data : Word) (be : Enables) : Bounded (s.sramWrite a data be) :=
  ⟨Memory.writeWord_wf a data be h.sram, h.events, h.lost, h.strangers, h.parks, h.captures, h.consecutive⟩

theorem Bounded.eventServed : Bounded s.eventServed := by
  have shorter : (s.evw.queue.drop 1).length ≤ Config.eventPlaces := by
    have := h.events
    rw [List.length_drop]
    omega
  unfold State.eventServed
  split
  · exact h.same rfl rfl rfl rfl rfl rfl rfl
  · next e _ _ =>
    split
    · exact h.same rfl rfl rfl rfl rfl rfl rfl
    · exact ⟨h.sram, shorter, h.lost, h.strangers, h.parks, h.captures, h.consecutive⟩

theorem Bounded.startEvent : Bounded s.startEvent := by
  unfold State.startEvent
  split
  · exact h
  · split
    · exact h.same rfl rfl rfl rfl rfl rfl rfl
    · exact h

theorem Bounded.serveEvent (r : WriteRequest) : Bounded (s.serveEvent r) := (h.sramWrite _ _ _).servedOne.eventServed

theorem Bounded.serveChannel (ch : ChanIx) (r : ReadRequest) : Bounded (s.serveChannel ch r) := by
  have served : Bounded (s.setRequest ch none).servedOne := Bounded.servedOne h.same
  unfold State.serveChannel
  dsimp only
  split
  · exact served.same
  · exact served.same

theorem Bounded.serveLoad (w : WinWord) : Bounded (s.serveLoad w) := h.servedOne.loadServed _

theorem Bounded.serveHighest : Bounded s.serveHighest := by
  unfold State.serveHighest
  split
  · exact h.serveEvent _
  · split
    · exact h.serveChannel _ _
    · split
      · exact h.serveLoad _
      · exact h

/-- While a request waits and no hold is due, fewer than 16 accesses have passed ahead of it; a hold begins the count again (R149). -/
theorem Bounded.arbiter : Bounded s.arbiter := by
  have passes : ∀ t, Bounded t → (t.bpt.waiting = true → t.bpt.consecutive < Config.holdAfter) → Bounded t.passAccess := fun t b hlt => by
    refine ⟨b.sram, b.events, b.lost, b.strangers, b.parks, b.captures, ?_⟩
    unfold State.passAccess
    dsimp only
    split
    · next hw => exact hlt hw
    · exact Nat.zero_le _
  unfold State.arbiter
  split
  · exact passes _ (h.serveHighest.servedOne.count _) (fun _ => Nat.zero_lt_succ 15)
  · next hd =>
    refine passes s h (fun hw => ?_)
    simpa [State.holdDue, hw] using hd

/-! ### Writes and reads -/

theorem Bounded.writeConsumer (v : Byte) : Bounded (s.writeConsumer v) := by
  unfold State.writeConsumer
  dsimp only
  split
  · exact Bounded.followInterrupt (h.same rfl rfl rfl rfl rfl rfl rfl)
  · exact h.discard _ _ _

theorem Bounded.writeHeader (k : Nat) (data : Word) (be : Enables) : Bounded (s.writeHeader k data be) := by
  unfold State.writeHeader
  split
  · exact (h.storeHeader _ _ _).actPortIntent
  · split
    · split
      · exact h.discard _ _ _
      · split
        · exact h.discard _ _ _
        · exact h.storeHeader _ _ _
    · split
      · split
        · exact h.discard _ _ _
        · exact h.storeHeader _ _ _
      · split
        · exact h.writeConsumer _
        · exact (h.storeHeader _ _ _).followInterrupt

theorem Bounded.writeRecord (i : RecIx) (k : Nat) (data : Word) (be : Enables) : Bounded (s.writeRecord i k data be) := by
  unfold State.writeRecord
  dsimp only
  generalize (if (s.record i).state.writable = true then be else be &&& (if k = 0 then 0b0001 else 0)) = lanes
  have offered : Bounded (if lanes = be then s.onRecord i (fun r => r.store k data lanes)
      else (s.onRecord i (fun r => r.store k data lanes)).discard (indexByte i) .state (recordOffset i + 4 * k)) := by
    split
    · exact h.onRecord _ _
    · exact (h.onRecord _ _).discard _ _ _
  split
  · exact offered.actIntent i
  · exact offered

theorem Bounded.writeDirectory (p : DirIx) (data : Word) (be : Enables) : Bounded (s.writeDirectory p data be) := by
  unfold State.writeDirectory
  split
  · exact h.discard _ _ _
  · exact h.same

theorem Bounded.offerWrite (w : WinWord) (data : Word) (be : Enables) : Bounded (s.offerWrite w data be) := by
  unfold State.offerWrite
  dsimp only
  split
  · exact h
  · split
    · split
      · exact h
      · exact h.writeHeader _ _ _
    · split
      · exact h
      · split
        · split
          · exact h.writeDirectory _ _ _
          · exact h
        · split
          · exact h
          · split
            · split
              · exact h.writeRecord _ _ _ _
              · exact h
            · split
              · exact h
              · exact h.imageTouched w be

theorem Bounded.busWrite (a : BusAddr) (data : Word) (be : Enables) : Bounded (s.busWrite a data be) := by
  have written := h.sramWrite a data be
  unfold State.busWrite
  dsimp only
  split
  · unfold State.windowWrite
    split
    · exact Bounded.offerWrite (s := (s.sramWrite a data be).endSnapshots _) written.same _ _ _
    · split
      · exact written.storeSetup _ _ _
      · exact written
  · exact written

/-- A pop takes the head of the stranger list (R46). -/
theorem Bounded.pop : Bounded s.pop := by
  unfold State.pop
  split
  · exact h.same rfl rfl rfl rfl rfl rfl rfl
  · next e rest hl =>
    have shorter : rest.length ≤ Config.strangerPlaces := by
      have := h.strangers
      rw [hl, List.length_cons] at this
      omega
    exact ⟨h.sram, h.events, h.lost, shorter, h.parks, h.captures, h.consecutive⟩

theorem Bounded.answerRead (w : Word) : Bounded (s.answerRead w) := h.same

theorem Bounded.overlayRead (w : WinWord) : Bounded (s.overlayRead w) := by
  have latchedHeader : Bounded s.latchHeader := h.same (hb := rfl)
  have latchedRecord : ∀ i, Bounded (s.latchRecord i) := fun _ => h.same (hb := rfl)
  have popped := h.pop
  unfold State.overlayRead
  dsimp only
  split
  · exact h.answerRead _
  · split
    · split
      · exact latchedHeader.answerRead _
      · exact h.answerRead _
    · split
      · exact h.answerRead _
      · split
        · split
          · exact popped.answerRead _
          · exact h.answerRead _
        · split
          · exact h.answerRead _
          · split
            · split
              · exact (latchedRecord _).answerRead _
              · split <;> exact h.answerRead _
            · exact h.answerRead _

theorem Bounded.access (a : Access) : Bounded (s.access a) := by
  have passed := h.arbiter
  unfold State.access
  split
  · unfold State.busRead
    split
    · split
      · exact passed.overlayRead _
      · exact passed.answerRead _
    · exact passed.answerRead _
  · exact passed.busWrite _ _ _

/-! ### The sample lane -/

/-- A burst is captured while fewer than 2 wait (R122). -/
theorem Bounded.queueCapture (c : Capture) : Bounded (s.queueCapture c) := by
  unfold State.queueCapture
  split
  · exact h.count _
  · split
    · exact h.count _
    · split
      · next hlt => exact ⟨h.sram, h.events, h.lost, h.strangers, h.parks, by simpa [State.setBrx] using hlt, h.consecutive⟩
      · exact h.count _

/-- The hunt goes on, the captures standing. -/
theorem Bounded.setBrx {b : Brx} (hb : b.queue = s.brx.queue) : Bounded (s.setBrx b) := h.same (hc := hb)

theorem Bounded.garble (id : Interval) : Bounded (s.garble id) := h.same (hst := by simp [State.garble]) (hp := by simp [State.garble])

theorem Bounded.bodyByte (id : Interval) (b : Byte) : Bounded (s.bodyByte id b) := by
  unfold State.bodyByte
  dsimp only
  split
  · split
    · exact h.garble id
    · exact h.setBrx rfl
  · split
    · exact h.setBrx rfl
    · split
      · unfold State.completeBurst
        split
        · exact Bounded.queueCapture (s := s.rehunt) h.same _
        · exact h.garble id
      · exact h.garble id

theorem Bounded.brxSample (x : Sample) : Bounded (s.brxSample x) := by
  have heard : ∀ b : Brx, b.queue = s.brx.queue → Bounded (s.setBrx b) := fun _ => h.setBrx
  unfold State.brxSample
  split
  · exact h
  · split
    · exact h
    · split
      · exact h
      · exact heard _ (preambleSample_queue _ _ _)
      · split
        · unfold State.seekBreak
          dsimp only
          split
          · split
            · exact heard _ rfl
            · exact Bounded.garble (s := s.setBrx { s.brx with previous := some x.value }) (heard _ rfl) _
          · exact heard _ rfl
        · have kept : Bounded (s.setBrx { s.brx with
              previous := some x.value, record := { s.brx.record with held := s.brx.record.held ++ [x.value] } }) := heard _ rfl
          unfold State.compareDelimiter
          dsimp only
          split
          · exact kept
          · split
            · exact kept.setBrx rfl
            · exact kept.garble _
      · have kept : Bounded (s.setBrx { s.brx with previous := some x.value }) := heard _ rfl
        unfold State.bodySample
        dsimp only
        split
        · exact kept.setBrx rfl
        · exact kept.bodyByte _ _

theorem Bounded.laneSample (x : Sample) : Bounded (s.laneSample x) := Bounded.same (s := s.brxSample x) (h.brxSample x) (hst := rfl) (hp := rfl) (hc := rfl)

end

theorem Bounded.feed (ps : List HuntPhase) (xs : List Sample) : ∀ {s : State}, Bounded s → Bounded (State.feed ps xs s) := by
  induction xs with
  | nil => exact id
  | cons x xs ih =>
    intro s h
    unfold State.feed
    split
    · exact ih (h.laneSample x)
    · exact h

/-- A capture is taken: the queue is shorter (R123). -/
theorem Bounded.takeCapture {s : State} (h : Bounded s) (c : Capture) : Bounded (s.takeCapture c) :=
  ⟨h.sram, h.events, h.lost, h.strangers, h.parks, (List.length_erase_le).trans h.captures, h.consecutive⟩

/-! ### The step -/

/-- What a command answers, if a next state, is within the capacities. -/
def KeepsBounds (r : Result) : Prop := ∀ t, r = .next t → Bounded t

theorem keepsBounds_next {t : State} (h : Bounded t) : KeepsBounds (.next t) := fun u hu => by cases hu; exact h

/-- A command that takes effect under a condition alone. -/
theorem keepsBounds_ite {s : State} {p : Prop} [Decidable p] {t : State} (h : Bounded s) (ht : Bounded t) :
    KeepsBounds (if p then .next t else .next s) := by
  split
  · exact keepsBounds_next ht
  · exact keepsBounds_next h

theorem execHardwareReset_bounded {s : State} (h : Bounded s) : KeepsBounds (execHardwareReset s) := by
  refine keepsBounds_next ⟨h.sram, ?_, ?_, ?_, ?_, ?_, ?_⟩
  all_goals exact Nat.zero_le _

section

variable {s : State} (h : Bounded s)
include h

theorem execResetRelease_bounded (straps : BitVec 6) : KeepsBounds (execResetRelease straps s) := by
  unfold execResetRelease
  split
  · exact keepsBounds_next (h.same rfl rfl rfl rfl rfl rfl rfl)
  · exact keepsBounds_next h

theorem execLoadRead_bounded : KeepsBounds (execLoadRead s) := by
  unfold execLoadRead
  split
  · split
    · exact keepsBounds_next (h.serveLoad _)
    · exact keepsBounds_next h
  · exact keepsBounds_next h

theorem execEventWordWritten_bounded : KeepsBounds (execEventWordWritten s) := by
  unfold execEventWordWritten
  split
  · exact keepsBounds_next (h.serveEvent _)
  · exact keepsBounds_next h

theorem execSlotArrivalEnd_bounded (ct : Cycle) (j : Fin 8) : KeepsBounds (execSlotArrivalEnd ct j s) := by
  unfold execSlotArrivalEnd
  split
  · exact keepsBounds_ite h h.same
  · exact keepsBounds_next h

theorem execSlotEndReport_bounded (ct : Cycle) (j : Fin 8) : KeepsBounds (execSlotEndReport ct j s) := by
  unfold execSlotEndReport
  split
  · exact keepsBounds_ite h h.same
  · exact keepsBounds_next h

theorem execHelloTake_bounded : KeepsBounds (execHelloTake s) := by
  unfold execHelloTake
  split
  · exact keepsBounds_next ((h.takeCapture _).handleHello _)
  · exact keepsBounds_next h

theorem execDiscoveryRoundComplete_bounded : KeepsBounds (execDiscoveryRoundComplete s) := by
  unfold execDiscoveryRoundComplete
  split
  · exact keepsBounds_ite h (h.same (hst := rfl) (hp := rfl))
  · exact keepsBounds_next h
  · exact keepsBounds_next h

theorem execEchoTake_bounded : KeepsBounds (execEchoTake s) := by
  unfold execEchoTake
  split
  · next c _ => exact keepsBounds_ite h (h.takeCapture c).same
  · exact keepsBounds_next h

theorem execAttemptJudge_bounded : KeepsBounds (execAttemptJudge s) := by
  unfold execAttemptJudge
  split
  · exact keepsBounds_ite h h.same
  · exact keepsBounds_next h

theorem execSettleReply_bounded : KeepsBounds (execSettleReply s) := by
  unfold execSettleReply
  split
  · next c _ => exact keepsBounds_ite h (h.takeCapture c).same
  · exact keepsBounds_next h

theorem execBlockReply_bounded : KeepsBounds (execBlockReply s) := by
  unfold execBlockReply
  split
  · next c _ => exact keepsBounds_next (h.takeCapture c).same
  · exact keepsBounds_next h

theorem execImageRead_bounded (ch : ChanIx) : KeepsBounds (execImageRead ch s) := by
  unfold execImageRead
  split
  · split
    · exact keepsBounds_ite h (h.serveChannel _ _)
    · exact keepsBounds_next h
  · exact keepsBounds_next h

theorem execRangingOutcome_bounded : KeepsBounds (execRangingOutcome s) := by
  unfold execRangingOutcome
  split
  · next p rest _ =>
    have taken : Bounded { s with rgu := { s.rgu with reports := rest } } := h.same rfl rfl rfl rfl rfl rfl rfl
    dsimp only
    split
    · exact keepsBounds_next (taken.applyRanging _ _)
    · exact keepsBounds_next taken
  · exact keepsBounds_next h

theorem execSettleOutcome_bounded : KeepsBounds (execSettleOutcome s) := by
  unfold execSettleOutcome
  split
  · next i rest _ =>
    have taken : Bounded { s with rgu := { s.rgu with settleReports := rest } } := h.same rfl rfl rfl rfl rfl rfl rfl
    dsimp only
    split
    · exact keepsBounds_next (taken.applySettle _ _ _)
    · exact keepsBounds_next taken
  · exact keepsBounds_next h

theorem execProfileOutcome_bounded : KeepsBounds (execProfileOutcome s) := by
  unfold execProfileOutcome
  split
  · next p rest _ =>
    have taken : Bounded { s with pex := { s.pex with reports := rest } } := h.same rfl rfl rfl rfl rfl rfl rfl
    dsimp only
    split
    · exact keepsBounds_next (taken.applyPush _ _ _)
    · exact keepsBounds_next taken
  · exact keepsBounds_next h

/-- Every command keeps the capacities. -/
theorem exec_bounded (c : Instr) : KeepsBounds (exec c s) := by
  have access : ∀ a, KeepsBounds (.next (s.access a)) := fun a => keepsBounds_next (h.access a)
  have fed : ∀ ps xs, KeepsBounds (.next (State.feed ps xs s)) := fun ps xs => keepsBounds_next (h.feed ps xs)
  cases c with
  | hardwareReset => exact execHardwareReset_bounded h
  | resetRelease straps => exact execResetRelease_bounded h straps
  | loadRead => exact execLoadRead_bounded h
  | intentAdmit | intentHold | intentVacant | setupWrite | portIntentConfig | portIntentRun | portIntentHalt | consumerIndexWrite
  | imageWrite | recordSnapshotRead | headerSnapshotRead | popRead | consecutiveAccess => exact access _
  | accessHold acc => exact keepsBounds_ite h (h.access acc)
  | drainComplete => exact keepsBounds_ite h h.enterConfig
  | cycle c => exact keepsBounds_next (h.cycleStart c)
  | roundDue => exact keepsBounds_ite h (h.same (hst := rfl) (hp := rfl))
  | quietTimeout => exact keepsBounds_next h.timeOutAsk
  | interruptHold => exact keepsBounds_ite h h.followInterrupt
  | fetch c => exact keepsBounds_next (h.takeFetch c)
  | lineDown => exact keepsBounds_next h.lineFalls
  | lineUp => exact keepsBounds_next h.lineRises
  | give cq => exact keepsBounds_next (h.takeGive cq)
  | deny => exact keepsBounds_next h.takeDeny
  | revoke => exact keepsBounds_next h.takeRevoke
  | armIntervalStart => exact keepsBounds_next (Bounded.same (t := s.startInterval) h)
  | quietWindowEnd => exact keepsBounds_next (Bounded.same (t := s.windowRunsOut) h)
  | slotArrivalEnd ct j => exact execSlotArrivalEnd_bounded h ct j
  | slotEndReport ct j => exact execSlotEndReport_bounded h ct j
  | noDelimiter | burstComplete | preambleRecognized | delimiterCompared | kindByte => exact fed _ _
  | helloTake => exact execHelloTake_bounded h
  | discoveryRoundComplete => exact execDiscoveryRoundComplete_bounded h
  | echoTake => exact execEchoTake_bounded h
  | attemptJudge => exact execAttemptJudge_bounded h
  | settleReply => exact execSettleReply_bounded h
  | blockReply => exact execBlockReply_bounded h
  | imageRead ch => exact execImageRead_bounded h ch
  | rangingOutcome => exact execRangingOutcome_bounded h
  | settleOutcome => exact execSettleOutcome_bounded h
  | profileOutcome => exact execProfileOutcome_bounded h
  | eventWriteStart => exact keepsBounds_next h.startEvent
  | eventWordWritten => exact execEventWordWritten_bounded h

end

end Sys2Proof.Safety

namespace Sys2Proof.Proofs

open Sys2Proof.Machine Sys2Proof.Safety

/-- Settles O56, from what each command does to the queues, the saturating counts and SRAM. -/
theorem boundedKept : Obligations.BoundedKept := by
  unfold Obligations.BoundedKept
  intro s t h ht
  unfold step at ht
  split at ht
  · cases ht
    exact h.laneSample darkSample
  · next c rest _ => exact exec_bounded (s := s.withPending rest) h.same c t ht

end Sys2Proof.Proofs
end

section
set_option Elab.async false
/-! Reads of the window through the arbiter, and POP_READ (R46, R47): the answer in and out of the overlay states. -/

namespace Sys2Proof.Machine

open Sys2Proof.Safety

variable (s : State)

/-- A port state with no overlay is OFF or LOADING (R141). -/
theorem PortState.overlay_of_eq {p : PortState} (h : p = .off ∨ p = .loading) : p.overlay = false := by
  obtain rfl | rfl := h <;> rfl

/-- A window read in an overlay state, no hold being due (R141, R149). -/
theorem State.readWindow_overlay (w : WinWord) (h : s.holdDue = false) (ho : s.pct.port.overlay = true) :
    s.readWindow w = (passed s).overlayRead w :=
  Host.Outcome.next.inj (s.readWord_overlay w h ho)

/-- A window read in OFF or LOADING answers SRAM (R138, R141). -/
theorem State.readWindow_plain (w : WinWord) (h : s.holdDue = false) (ho : s.pct.port.overlay = false) :
    s.readWindow w = (passed s).answerRead (s.sramWord w) := by
  have harb : s.arbiter = passed s := by
    unfold State.arbiter
    rw [h]
    rfl
  have hwin : (passed s).windowWord (s.busAddr w) = some w := s.windowWord_busAddr w
  have hport : (passed s).pct.port.overlay = false := ho
  show s.arbiter.busRead (s.busAddr w) = _
  unfold State.busRead
  rw [harb, hwin]
  dsimp only
  rw [hport]
  rfl

/-- A read of pop word 0 pops the stranger list (R46). -/
theorem State.overlayRead_pop : s.overlayRead 160 = s.pop.answerRead (s.pop.dsu.pop.word 0) := rfl

/-- Word 0 of the pop buffer after a pop of an entry (11.6). -/
theorem PopBuffer.word_popped (e : Stranger) (n : Nat) :
    PopBuffer.word { entry := e, valid := true, empty := false, remaining := n } 0 =
      word4 1 (BitVec.ofNat 8 n) (convCode e.conv) (BitVec.ofNat 8 e.count) := by
  have status : (0 : BitVec 6) ++ BitVec.ofBool false ++ BitVec.ofBool true = (1 : Byte) := by decide
  exact congrArg (fun b => word4 b _ _ _) status

/-- Word 0 of the pop buffer after a pop of the empty list (11.6). -/
theorem PopBuffer.word_empty (e : Stranger) :
    PopBuffer.word { entry := e, valid := false, empty := true, remaining := 0 } 0 =
      word4 2 0 (convCode e.conv) (BitVec.ofNat 8 e.count) := by
  have status : (0 : BitVec 6) ++ BitVec.ofBool true ++ BitVec.ofBool false = (2 : Byte) := by decide
  exact congrArg (fun b => word4 b _ _ _) status

end Sys2Proof.Machine

namespace Sys2Proof.Proofs

open Sys2Proof.Machine Sys2Proof.Safety

/-- Settles O24. -/
theorem popRead : Obligations.PopRead := by
  intro s hold
  have overlay : s.pct.port ≠ .off → s.pct.port ≠ .loading →
      exec .popRead s = .next ((passed s).pop.answerRead ((passed s).pop.dsu.pop.word 0)) := fun h1 h2 =>
    congrArg Host.Outcome.next (s.readWindow_overlay 160 hold (PortState.overlay_of_ne ⟨h1, h2⟩))
  refine ⟨fun h => ?_, fun h1 h2 => ⟨fun e rest he => ?_, fun he => ?_⟩⟩
  · exact congrArg Host.Outcome.next (s.readWindow_plain 160 hold (PortState.overlay_of_eq h))
  · have hpop : (passed s).pop = { passed s with
        dsu := { s.dsu with
          strangers := rest, pop := { entry := e, valid := true, empty := false, remaining := rest.length } } } := by
      unfold State.pop
      rw [show (passed s).dsu.strangers = e :: rest from he]
      rfl
    rw [overlay h1 h2, hpop]
    exact congrArg (fun v => Host.Outcome.next (State.answerRead _ v)) (PopBuffer.word_popped e rest.length)
  · have hpop : (passed s).pop = { passed s with
        dsu := { s.dsu with pop := { s.dsu.pop with valid := false, empty := true, remaining := 0 } } } := by
      unfold State.pop
      rw [show (passed s).dsu.strangers = [] from he]
      rfl
    rw [overlay h1 h2, hpop]
    exact congrArg (fun v => Host.Outcome.next (State.answerRead _ v)) (PopBuffer.word_empty s.dsu.pop.entry)

end Sys2Proof.Proofs
end

section
set_option Elab.async false
/-! The setup fields of the header and the directory as a write stores them (R30, R51, R80, R93, R157, R166): lane by lane, clamped. -/

namespace Sys2Proof.Machine

open Sys2Proof.Safety

/-! ### Fields -/

/-- A byte below the range becomes the low bound, above it the high bound, in range itself (R30, R93). -/
theorem clampByte_eq {lo hi : Nat} (h : lo ≤ hi) (b : Byte) : clampByte lo hi b = BitVec.ofNat 8 (max lo (min hi b.toNat)) := by
  unfold clampByte
  split
  · rw [max_eq_left (by omega)]
  · split
    · rw [min_eq_left (by omega), max_eq_right h]
    · rw [min_eq_right (by omega), max_eq_right (by omega), BitVec.ofNat_toNat, BitVec.setWidth_eq]

/-- A clamped byte field as it is stored (R30, R93). -/
theorem storeLane_clamp {lo hi : Nat} (h : lo ≤ hi) (old : Byte) (data : Word) (be : Enables) (k : Nat) :
    storeLane old data be k (clampByte lo hi) =
      if be.getLsbD k then BitVec.ofNat 8 (max lo (min hi (byteOf data k).toNat)) else old := by
  unfold storeLane
  rw [clampByte_eq h]

/-- A half is its two byte lanes. -/
theorem half_lanes (x : BitVec 16) : x.extractLsb' 8 8 ++ x.extractLsb' 0 8 = x := by
  rw [extract_append_extract x 0 8 8]
  simp

/-- The two lanes of a half as a write merges them (R166). -/
def mergedHalf (old : BitVec 16) (data : Word) (be : Enables) (k : Nat) : BitVec 16 :=
  (if be.getLsbD (k + 1) then byteOf data (k + 1) else old.extractLsb' 8 8) ++
    (if be.getLsbD k then byteOf data k else old.extractLsb' 0 8)

/-- A half stored with no clamp is merged lane by lane (R166). -/
theorem storeHalf_id (old : BitVec 16) (data : Word) (be : Enables) (k : Nat) :
    storeHalf old data be k id = mergedHalf old data be k := by
  unfold storeHalf mergedHalf
  cases be.getLsbD k <;> cases be.getLsbD (k + 1) <;> simp [half_lanes]

/-- A half stored with a low bound of 64 (R30). -/
theorem storeHalf_atLeast (old : BitVec 16) (data : Word) (be : Enables) (k : Nat) :
    storeHalf old data be k (fun x => if x.toNat < 64 then 64 else x) =
      if be.getLsbD k = true ∨ be.getLsbD (k + 1) = true then BitVec.ofNat 16 (max 64 (mergedHalf old data be k).toNat) else old := by
  have low : ∀ x : BitVec 16, (if x.toNat < 64 then 64 else x) = BitVec.ofNat 16 (max 64 x.toNat) := by
    intro x
    split
    · rw [max_eq_left (by omega)]
      rfl
    · rw [max_eq_right (by omega), BitVec.ofNat_toNat, BitVec.setWidth_eq]
  unfold storeHalf
  dsimp only
  rw [low]
  refine if_congr ?_ rfl rfl
  rw [Bool.or_eq_true]

/-- Storing only the lanes that hold fields stores the same (R140). -/
theorem Header.store_lanes (h : Header) (k : Nat) (data : Word) (be : Enables) :
    h.store k data (be &&& headerLanes k) = h.store k data be := by
  have whole : be &&& (15 : Enables) = be := by
    revert be
    decide
  have lane : ∀ (mask : Enables) (m : Nat), mask.getLsbD m = true → (be &&& mask).getLsbD m = be.getLsbD m := by
    intro mask m hm
    rw [BitVec.getLsbD_and, hm, Bool.and_true]
  unfold Header.store headerLanes
  split <;> simp only [whole, storeLane, lane _ _ (show (1 : Enables).getLsbD 0 = true by decide),
    lane _ _ (show (7 : Enables).getLsbD 0 = true by decide), lane _ _ (show (7 : Enables).getLsbD 1 = true by decide),
    lane _ _ (show (7 : Enables).getLsbD 2 = true by decide)]

/-! ### A directory entry's setup half -/

/-- A word of two halves of two lanes each is the word of the four lanes. -/
theorem word2_append (b0 b1 b2 b3 : Byte) : word2 (b1 ++ b0) (b3 ++ b2) = word4 b0 b1 b2 b3 := by
  unfold word2 word4
  exact (BitVec.append_assoc (x₁ := b3 ++ b2) (x₂ := b1) (x₃ := b0)).symm

/-- A word of two merged halves is the merged word (R76, R142). -/
theorem word2_mergedHalf (lo hi : BitVec 16) (data : Word) (be : Enables) :
    word2 (mergedHalf lo data be 0) (mergedHalf hi data be 2) = merge (word2 lo hi) data be := by
  have lanes : word2 lo hi =
      word4 (lo.extractLsb' 0 8) (lo.extractLsb' 8 8) (hi.extractLsb' 0 8) (hi.extractLsb' 8 8) := by
    rw [← word2_append, half_lanes, half_lanes]
  unfold merge mergeLane
  rw [lanes, byteOf_word4_zero, byteOf_word4_one, byteOf_word4_two, byteOf_word4_three]
  exact word2_append _ _ _ _

/-- A directory entry's setup half stored is merged by byte enables, the live half kept (R76). -/
theorem DirEntry.store_words (e : DirEntry) (data : Word) (be : Enables) :
    (e.store data be).setupWord = merge e.setupWord data be ∧ (e.store data be).liveWord = e.liveWord := by
  refine ⟨?_, rfl⟩
  show word2 (storeHalf e.offset data be 0 id) (storeHalf e.length data be 2 id) = _
  rw [storeHalf_id, storeHalf_id]
  exact word2_mergedHalf e.offset e.length data be

end Sys2Proof.Machine
end

section
set_option Elab.async false
/-! SETUP_WRITE outside the record region (R142, R143): the words that offer nothing, the header settings, the directory. -/

namespace Sys2Proof.Machine

open Sys2Proof.Safety

variable (s : State)

/-! ### The words a write offers to nobody -/

/-- A word below the record region for which a write has no owner: no field of it is enabled, or it holds none (R140). -/
def Unowned (n : Nat) (be : Enables) : Prop :=
  (n < 64 ∧ be &&& headerLanes n = 0) ∨ (64 ≤ n ∧ n < 128) ∨ (128 ≤ n ∧ n < 160 ∧ (n % 2 = 1 ∨ be = 0)) ∨ (160 ≤ n ∧ n < 256)

/-- A write with no owner changes nothing of the part (R142). -/
theorem State.offerWrite_unowned {w : WinWord} (data : Word) {be : Enables} (h : Unowned w.toNat be) : s.offerWrite w data be = s := by
  unfold State.offerWrite
  dsimp only
  by_cases hbe : be = 0
  · rw [if_pos hbe]
  rw [if_neg hbe]
  obtain ⟨hn, hl⟩ | ⟨h1, h2⟩ | ⟨h1, h2, h3⟩ | ⟨h1, h2⟩ := h
  · rw [if_pos hn, if_pos hl]
  · rw [if_neg (by omega), if_pos (by omega)]
  · have odd : w.toNat % 2 = 1 := h3.resolve_right hbe
    rw [if_neg (by omega), if_neg (by omega), if_pos (by omega), if_neg (by omega)]
  · rw [if_neg (by omega), if_neg (by omega), if_neg (by omega), if_pos (by omega)]

/-- A header word some field of which is enabled (R142). -/
theorem State.offerWrite_header {w : WinWord} (data : Word) {be : Enables} (h64 : w.toNat < 64) (hl : be &&& headerLanes w.toNat ≠ 0) :
    s.offerWrite w data be = s.writeHeader w.toNat data (be &&& headerLanes w.toNat) := by
  have hbe : be ≠ 0 := fun hz => hl (by rw [hz]; exact BitVec.zero_and)
  unfold State.offerWrite
  dsimp only
  rw [if_neg hbe, if_pos h64, if_neg hl]

theorem dirOf_even (p : DirIx) : dirOf ((128 + 2 * p.val - 128) / 2) = p := by
  refine Fin.ext ?_
  show (128 + 2 * p.val - 128) / 2 % 16 = p.val
  omega

/-- A directory setup half (R76, R142). -/
theorem State.offerWrite_directory {w : WinWord} {p : DirIx} (hw : w.toNat = 128 + 2 * p.val) (data : Word) {be : Enables} (hbe : be ≠ 0) :
    s.offerWrite w data be = s.writeDirectory p data be := by
  unfold State.offerWrite
  dsimp only
  rw [if_neg hbe, hw, if_neg (by omega), if_neg (by omega), if_pos (by omega), if_pos (by omega), dirOf_even]

/-! ### The header settings -/

/-- A timing or ranging setting (R93, R164). -/
theorem State.writeHeader_setting {k : Nat} (h1 : 1 ≤ k) (h16 : k < 16) (data : Word) (be : Enables) :
    s.writeHeader k data be =
      if s.pct.port ≠ .config then s.discard noIndex .port (4 * k)
      else if k = 1 ∧ s.anyEqValid = true then s.discard noIndex .state (4 * k)
      else s.storeHeader k data be := by
  unfold State.writeHeader
  rw [if_neg (by omega), if_pos h16]

/-- A discovery setting (R30). -/
theorem State.writeHeader_discovery {k : Nat} (h16 : 16 ≤ k) (h32 : k < 32) (data : Word) (be : Enables) :
    s.writeHeader k data be = if s.pct.port ≠ .config then s.discard noIndex .state (4 * k) else s.storeHeader k data be := by
  unfold State.writeHeader
  rw [if_neg (by omega), if_neg (by omega), if_pos h32]

/-- The interrupt settings (R157). -/
theorem State.writeHeader_interrupt {k : Nat} (hk : k = 32) (data : Word) (be : Enables) :
    s.writeHeader k data be = (s.storeHeader k data be).followInterrupt := by
  subst hk
  rfl

theorem State.anyEqValid_iff : s.anyEqValid = true ↔ ∃ i : RecIx, (s.record i).eqValid = true := by
  unfold State.anyEqValid allRecords
  rw [List.any_eq_true]
  exact ⟨fun ⟨i, _, h⟩ => ⟨i, h⟩, fun ⟨i, h⟩ => ⟨i, List.mem_finRange i, h⟩⟩

/-- A header setting stored that is not the consumer index, and not RangeLimit (R30, R93, R157). -/
theorem State.storeHeader_plain {k : Nat} (h33 : k ≠ 33) {be : Enables} (h4 : k = 4 → be.getLsbD 1 = false) (data : Word) :
    s.storeHeader k data be = { s with header := s.header.store k data be } := by
  unfold State.storeHeader
  rw [if_neg h33]
  dsimp only
  exact if_neg fun ⟨hk, hb⟩ => by rw [h4 hk] at hb; cases hb

/-- RangeLimit stored lowers the attempts used (R17). -/
theorem State.storeHeader_rangeLimit {k : Nat} (hk : k = 4) {be : Enables} (hb : be.getLsbD 1 = true) (data : Word) :
    s.storeHeader k data be = State.lowerRangeUsed { s with header := s.header.store k data be } := by
  unfold State.storeHeader
  rw [if_neg (by omega)]
  dsimp only
  exact if_pos ⟨hk, hb⟩

/-- What a RangeLimit stored leaves: the records alone differ, in their attempts used (R17). -/
theorem State.storeHeader_lowers {k : Nat} (hk : k = 4) {be : Enables} (hb : be.getLsbD 1 = true) (data : Word) :
    s.storeHeader k data be =
        { s with header := s.header.store k data be, records := (s.storeHeader k data be).records } ∧
      ∀ i r, s.record i = r → (s.storeHeader k data be).record i =
        { r with rangeUsed := min r.rangeUsed (s.storeHeader k data be).header.rangeLimit.toNat } := by
  rw [s.storeHeader_rangeLimit hk hb data]
  refine ⟨rfl, fun i r hr => ?_⟩
  rw [← hr]
  exact State.record_lowerRangeUsed _ i

/-! ### The directory -/

theorem State.dirInUse_iff (p : DirIx) : s.dirInUse p = true ↔ ∃ ch, (s.chan ch).stage ≠ .free ∧ (s.chan ch).dir = p := by
  unfold State.dirInUse allChannels Channel.uses
  rw [List.any_eq_true]
  simp only [Bool.and_eq_true, decide_eq_true_eq]
  exact ⟨fun ⟨ch, _, h⟩ => ⟨ch, h⟩, fun ⟨ch, h⟩ => ⟨ch, List.mem_finRange ch, h⟩⟩

/-! ### The access -/

/-- A header word written in an overlay state (R142, R146). -/
theorem State.headerWrite_overlay {w : WinWord} (hw : w.toNat < 128) (data : Word) (be : Enables) (h : s.holdDue = false)
    (ho : s.pct.port.overlay = true) : s.accessWord w data be = (headerWritten s w data be).offerWrite w data be := by
  rw [s.accessWord_eq w data be h, State.windowWrite_overlay (written s _ _ _) w data be ho, s.endSnapshots_headerWord w data be hw]

/-- A directory or pop word written in an overlay state ends no snapshot (R142, R145, R146). -/
theorem State.plainWrite_overlay {w : WinWord} (h128 : 128 ≤ w.toNat) (h256 : w.toNat < 256) (data : Word) (be : Enables)
    (h : s.holdDue = false) (ho : s.pct.port.overlay = true) :
    s.accessWord w data be = (written s (s.busAddr w) data be).offerWrite w data be := by
  have hr : isRecordWord w = false := by
    unfold isRecordWord
    rw [decide_eq_false (by omega)]
    rfl
  have hh : decide (w.toNat < 128) = false := decide_eq_false (by omega)
  have ends : ∀ t : State, t.endSnapshots w = t := by
    intro t
    unfold State.endSnapshots
    rw [hr, hh]
    simp only [Bool.not_false, Bool.and_true, Bool.false_and]
  rw [s.accessWord_eq w data be h, State.windowWrite_overlay (written s _ _ _) w data be ho, ends]

end Sys2Proof.Machine
end

section
set_option Elab.async false
/-! SETUP_WRITE of header settings, directory entries, live words and pop words, in the overlay states and in LOADING. -/

namespace Sys2Proof.Machine

open Sys2Proof.Safety

variable (s : State)

/-- Every lane of word 4 holds a field, the lane of RangeLimit with them (11.2). -/
theorem rangeLimit_enabled {n : Nat} (hn : n = 4) {be : Enables} (hb : be.getLsbD 1 = true) :
    (be &&& headerLanes n).getLsbD 1 = true := by
  subst hn
  rw [BitVec.getLsbD_and, hb]
  rfl

/-- With no lane of word 33 that holds a field enabled, the consumer index is not written (11.2). -/
theorem consumer_not_enabled {n : Nat} (hn : n = 33) {be : Enables} (h : be &&& headerLanes n = 0) : be.getLsbD 0 = false := by
  subst hn
  revert be
  decide

/-- A header word of the load reaches the owner of the header's fields (R143). -/
theorem State.storeSetup_headerWord {n : Nat} (h : n < 64) (data : Word) (be : Enables) :
    s.storeSetup n data be = s.storeHeader n data be := by
  unfold State.storeSetup
  exact if_pos h

/-- A consumer word with no field enabled stores nothing (R156). -/
theorem State.storeHeader_consumer_none {n : Nat} (hn : n = 33) {be : Enables} (h : be.getLsbD 0 = false) (data : Word) :
    s.storeHeader n data be = s := by
  unfold State.storeHeader
  rw [if_pos hn, h]
  rfl

/-- The load step of a header word (R160). -/
theorem loadStep_header {n : Nat} (h64 : n < 64) (h33 : n ≠ 33) : loadStep n = some (if n < 33 then n else n - 1) := by
  unfold loadStep
  by_cases h : n < 33
  · rw [if_pos h, if_pos h]
  · rw [if_neg h, if_neg h33, if_pos h64, if_neg h]

/-- The load step of a directory setup half (R160). -/
theorem loadStep_directory (p : DirIx) : loadStep (128 + 2 * p.val) = some (63 + p.val) := by
  unfold loadStep
  rw [if_neg (by omega), if_neg (by omega), if_neg (by omega), if_pos (by omega), show (128 + 2 * p.val - 128) / 2 = p.val by omega]

/-- The load reads no live word, directory live half or pop word (R160). -/
theorem loadStep_none {n : Nat} (h : (64 ≤ n ∧ n < 128) ∨ (160 ≤ n ∧ n < 256) ∨ (128 ≤ n ∧ n < 160 ∧ n % 2 = 1)) : loadStep n = none := by
  unfold loadStep
  rw [if_neg (by omega), if_neg (by omega), if_neg (by omega), if_neg (by omega), if_neg (by omega)]

end Sys2Proof.Machine

namespace Sys2Proof.Safety

open Sys2Proof.Machine

variable {s : State} {w : WinWord} (data : Word) (be : Enables)

/-- A header setting in CONFIG, DRAINING, RUNNING or HALTED (R30, R93, R157, R164). -/
theorem setupWrite_header (hold : s.holdDue = false) (h64 : w.toNat < 64) (hl : be &&& headerLanes w.toNat ≠ 0)
    (ho : s.pct.port.overlay = true) :
    s.accessWord w data be = (headerWritten s w data be).writeHeader w.toNat data (be &&& headerLanes w.toNat) :=
  (s.headerWrite_overlay (by omega) data be hold ho).trans (State.offerWrite_header _ data h64 hl)

/-- A word written in an overlay state that has no owner, below the directory (R142, R146). -/
theorem setupWrite_headerUnowned (hold : s.holdDue = false) (h128 : w.toNat < 128) (hn : Unowned w.toNat be)
    (ho : s.pct.port.overlay = true) : s.accessWord w data be = headerWritten s w data be :=
  (s.headerWrite_overlay h128 data be hold ho).trans (State.offerWrite_unowned _ data hn)

/-- A word written in an overlay state that has no owner, from the directory to the record region (R142). -/
theorem setupWrite_plainUnowned (hold : s.holdDue = false) (h128 : 128 ≤ w.toNat) (h256 : w.toNat < 256) (hn : Unowned w.toNat be)
    (ho : s.pct.port.overlay = true) : s.accessWord w data be = written s (s.busAddr w) data be :=
  (s.plainWrite_overlay h128 h256 data be hold ho).trans (State.offerWrite_unowned _ data hn)

/-- A directory setup half written in an overlay state (R76). -/
theorem setupWrite_directory (hold : s.holdDue = false) {p : DirIx} (hw : w.toNat = 128 + 2 * p.val) (hbe : be ≠ 0)
    (ho : s.pct.port.overlay = true) :
    s.accessWord w data be = (written s (s.busAddr w) data be).writeDirectory p data be :=
  (s.plainWrite_overlay (by omega) (by omega) data be hold ho).trans (State.offerWrite_directory _ hw data hbe)

/-- A word the load reads, written in LOADING (R3, R143). -/
theorem setupWrite_loading (hold : s.holdDue = false) {m k : Nat} (hp : s.pct.port = .loading) (hl : s.pct.load = some m)
    (hk : loadStep w.toNat = some k) :
    s.accessWord w data be =
      if k < m then (written s (s.busAddr w) data be).storeSetup w.toNat data be else written s (s.busAddr w) data be := by
  rw [s.accessWord_eq w data be hold]
  exact State.windowWrite_loading _ w data be hp hl hk

/-- A word the load does not read, written in LOADING (R143). -/
theorem setupWrite_unloaded (hold : s.holdDue = false) (hp : s.pct.port = .loading) (hk : loadStep w.toNat = none) :
    s.accessWord w data be = written s (s.busAddr w) data be := by
  rw [s.accessWord_eq w data be hold]
  exact State.windowWrite_unloaded _ w data be hp hk

end Sys2Proof.Safety

namespace Sys2Proof.Proofs

open Sys2Proof.Machine Sys2Proof.Safety

/-- Settles O21. -/
theorem setupWriteSettings : Obligations.SetupWriteSettings := by
  refine ⟨?_, ?_⟩
  · intro s k data be hold n lanes c bare u stored eqValid lowered puts
    have goes : ∀ {t : State}, s.accessWord k data be = t → exec c s = .next t := congrArg Host.Outcome.next
    have dirPuts : ∀ p : DirIx, exec c s = .next (bare.setDir p ((s.dirEntry p).store data be)) → ∃ e', puts p e' := fun p h =>
      ⟨(s.dirEntry p).store data be, h, ((s.dirEntry p).store_words data be).1, ((s.dirEntry p).store_words data be).2⟩
    refine ⟨fun h1 h2 => ?_, fun hp hl => ?_, fun m hp hl => ?_⟩
    · have ho : s.pct.port.overlay = true := PortState.overlay_of_ne ⟨h1, h2⟩
      refine ⟨fun hn1 hn16 hlanes => ?_, fun hn16 hn32 hlanes => ?_, fun hn hlanes => ?_, fun hn hlanes => ?_, fun hn64 hn128 => ?_,
        fun hn160 hn168 => ?_, fun p hn => ?_, fun p hn hbe => ?_⟩
      · have hset := setupWrite_header data be hold (by omega) hlanes ho
        rw [State.writeHeader_setting _ hn1 hn16] at hset
        refine ⟨fun hport => ?_, fun hport hn heq => ?_, fun hport heq h4 => ?_, fun hport hn hb => ?_⟩
        · rw [if_pos (show u.pct.port ≠ .config from hport), State.discard_overlay u _ _ _ ho] at hset
          exact goes hset
        · rw [if_neg (not_not.2 (show u.pct.port = .config from hport)), if_pos ⟨hn, (State.anyEqValid_iff u).2 heq⟩,
            State.discard_overlay u _ _ _ ho] at hset
          exact goes hset
        · rw [if_neg (not_not.2 (show u.pct.port = .config from hport)),
            if_neg (fun h => heq h.1 ((State.anyEqValid_iff u).1 h.2)),
            State.storeHeader_plain u (show n ≠ 33 by omega) (fun hn => by rw [BitVec.getLsbD_and, h4 hn, Bool.false_and])] at hset
          exact goes hset
        · rw [if_neg (not_not.2 (show u.pct.port = .config from hport)), if_neg (fun h => by omega)] at hset
          obtain ⟨same, lower⟩ := u.storeHeader_lowers hn (rangeLimit_enabled hn hb) data
          exact ⟨_, goes hset, same, fun i => lower i (s.record i) rfl⟩
      · have hset := setupWrite_header data be hold (by omega) hlanes ho
        rw [State.writeHeader_discovery _ hn16 hn32] at hset
        refine ⟨fun hport => ?_, fun hport => ?_⟩
        · rw [if_neg (not_not.2 (show u.pct.port = .config from hport)),
            State.storeHeader_plain u (show n ≠ 33 by omega) (fun hn => absurd hn (show n ≠ 4 by omega))] at hset
          exact goes hset
        · rw [if_pos (show u.pct.port ≠ .config from hport), State.discard_overlay u _ _ _ ho] at hset
          exact goes hset
      · have hset := setupWrite_header data be hold (by omega) hlanes ho
        rw [State.writeHeader_interrupt _ hn,
          State.storeHeader_plain u (show n ≠ 33 by omega) (fun h4 => absurd h4 (show n ≠ 4 by omega))] at hset
        exact goes hset
      · exact goes (setupWrite_headerUnowned data be hold (by omega) (.inl ⟨hn, hlanes⟩) ho)
      · exact goes (setupWrite_headerUnowned data be hold hn128 (.inr (.inl ⟨hn64, hn128⟩)) ho)
      · exact goes (setupWrite_plainUnowned data be hold (by omega) (by omega) (.inr (.inr (.inr ⟨hn160, by omega⟩))) ho)
      · refine goes (setupWrite_plainUnowned data be hold (by omega) (by omega) (.inr (.inr (.inl ⟨by omega, by omega, ?_⟩))) ho)
        exact hn.imp (fun h => by omega) And.right
      · have hset := setupWrite_directory data be hold hn hbe ho
        unfold State.writeDirectory at hset
        refine ⟨fun hused => ?_, fun hfree => dirPuts p ?_⟩
        · rw [if_pos ((State.dirInUse_iff bare p).2 hused), State.discard_overlay bare _ _ _ ho] at hset
          exact goes hset
        · rw [if_neg (fun h => ?_)] at hset
          · exact goes hset
          · obtain ⟨ch, hch, hd⟩ := (State.dirInUse_iff bare p).1 h
            exact hfree ch hch hd
    · refine goes ?_
      rw [s.accessWord_eq k data be hold]
      exact State.windowWrite_off bare k data be hp hl
    · intro taken
      refine ⟨fun h64 h33 hnot => ?_, fun h64 h33 htaken h4 => ?_, fun hn htaken hb => ?_, fun p hn => ⟨fun hlt => ?_, fun hlt => dirPuts p ?_⟩,
        fun h => ?_⟩
      · exact goes ((setupWrite_loading data be hold hp hl (loadStep_header h64 h33)).trans (if_neg hnot))
      · have hset := (setupWrite_loading data be hold hp hl (loadStep_header h64 h33)).trans (if_pos htaken)
        rw [State.storeSetup_headerWord _ h64, State.storeHeader_plain bare (show n ≠ 33 from h33) h4,
          ← Header.store_lanes] at hset
        exact goes hset
      · have h33 : n ≠ 33 := by omega
        have h64 : n < 64 := by omega
        have hset := (setupWrite_loading data be hold hp hl (loadStep_header h64 h33)).trans (if_pos htaken)
        rw [State.storeSetup_headerWord _ h64] at hset
        obtain ⟨same, lower⟩ := bare.storeHeader_lowers hn hb data
        rw [← Header.store_lanes] at same
        exact ⟨_, goes hset, same, fun i => lower i (s.record i) rfl⟩
      · exact goes ((setupWrite_loading data be hold hp hl ((congrArg loadStep hn).trans (loadStep_directory p))).trans (if_neg (by omega)))
      · have hset := (setupWrite_loading data be hold hp hl ((congrArg loadStep hn).trans (loadStep_directory p))).trans (if_pos hlt)
        rw [show k.toNat = 128 + 2 * p.val from hn, State.storeSetup_directory] at hset
        exact goes hset
      · obtain ⟨h33, h0⟩ | h | h | ⟨p, h⟩ := h
        · have step : loadStep n = some 591 := congrArg loadStep h33
          have stores : bare.storeSetup n data be = bare :=
            (bare.storeSetup_headerWord (by omega) data be).trans (bare.storeHeader_consumer_none h33 (consumer_not_enabled h33 h0) data)
          refine goes ((setupWrite_loading data be hold hp hl step).trans ?_)
          exact (congrArg (fun t => if 591 < m then t else bare) stores).trans (ite_self bare)
        · exact goes (setupWrite_unloaded data be hold hp (loadStep_none (.inl h)))
        · exact goes (setupWrite_unloaded data be hold hp (loadStep_none (.inr (.inl ⟨h.1, by omega⟩))))
        · exact goes (setupWrite_unloaded data be hold hp (loadStep_none (.inr (.inr ⟨by omega, by omega, by omega⟩))))
  · intro h data be lane fit half
    refine ⟨rfl, rfl, rfl, ?_, ?_, ?_, ?_, ?_, rfl, rfl, rfl, rfl, rfl, rfl, rfl, ?_⟩ <;>
      simp only [Header.store, storeHalf_id, storeHalf_atLeast, storeLane_clamp (show 2 ≤ 15 by decide),
        storeLane_clamp (show 1 ≤ 255 by decide), storeLane_clamp (show 1 ≤ 15 by decide), storeLane_clamp (show 1 ≤ 64 by decide),
        storeLane_clamp (show 0 ≤ 8 by decide)] <;> rfl

end Sys2Proof.Proofs
end

section
set_option Elab.async false
/-! Cycle starts that are not slips (R94, R101, R102, R105), and GIVE (R100). -/

namespace Sys2Proof.Machine

open Sys2Proof.Safety

variable (s : State)

/-! ### Cycle starts -/

/-- A cycle start while the cycle is not known or the line is down (R94). -/
theorem State.cycleStart_unjudged {c : Cycle} (h : s.ltu.known = false ∨ s.ltu.lineUp = false) :
    s.cycleStart c = ((s.startCycle c).presentDemand).followInterrupt := by
  unfold State.cycleStart
  dsimp only
  rw [if_pos h]

/-- A normal advance (R94). -/
theorem State.cycleStart_advance {c : Cycle} (hk : s.ltu.known = true) (hl : s.ltu.lineUp = true) (hc : c = s.ltu.cycle + 1) :
    s.cycleStart c = ((s.startCycle c).presentDemand.advanceMap.advanceQuiet).followInterrupt := by
  unfold State.cycleStart
  dsimp only
  rw [if_neg (by simp [hk, hl]), if_pos hc]

/-- A slip (R95). -/
theorem State.cycleStart_slip {c : Cycle} (hk : s.ltu.known = true) (hl : s.ltu.lineUp = true) (hc : c ≠ s.ltu.cycle + 1) :
    s.cycleStart c = ((s.startCycle c).presentDemand.slip).followInterrupt := by
  unfold State.cycleStart
  dsimp only
  rw [if_neg (by simp [hk, hl]), if_neg hc]

/-- An advance raises the wait count of an ask (R101). -/
theorem State.advanceQuiet_asked {w : Window} (h : s.ltu.quiet = .asked w) :
    s.advanceQuiet = s.setQuiet (.asked { w with wait := w.wait + 1 }) := by
  unfold State.advanceQuiet
  rw [h]

/-- An advance leaves an OPEN window (R103). -/
theorem State.advanceQuiet_opened {w : Window} (h : s.ltu.quiet = .opened w) : s.advanceQuiet = s := by
  unfold State.advanceQuiet
  rw [h]

/-- An advance tests a GIVEN window (R102, R129). -/
theorem State.advanceQuiet_given {w : Window} (h : s.ltu.quiet = .given w) :
    s.advanceQuiet = if (s.ltu.cycle - w.cq).toNat < 2147483648 ∨ w.passed = true then s.missWindow w else s := by
  unfold State.advanceQuiet
  rw [h]
  refine if_congr ?_ rfl rfl
  rw [Bool.or_eq_true, atOrAfter, decide_eq_true_eq]

/-! ### GIVE -/

/-- The fetch of a cycle has passed (R94). -/
theorem Ltu.fetchPassed_iff (l : Ltu) (c : Cycle) :
    l.fetchPassed c = true ↔
      (∃ f, l.latestFetch = some f ∧ (f - c).toNat < 2147483648) ∨ (l.cycle - c).toNat < 2147483648 := by
  unfold Ltu.fetchPassed atOrAfter
  rcases l.latestFetch with _ | f <;> simp

/-- GIVE while an ask waits (R100): in time, or late. -/
theorem State.takeGive_asked {w : Window} (h : s.ltu.quiet = .asked w) (cq : Cycle) :
    s.takeGive cq =
      if (cq - w.notBefore).toNat < 2147483648 ∧
          ¬((∃ f, s.ltu.latestFetch = some f ∧ (f - cq).toNat < 2147483648) ∨ (s.ltu.cycle - cq).toNat < 2147483648)
      then (s.setQuiet (.given { w with cq := cq })).windowGiven { w with cq := cq } else s.lateGive w cq := by
  unfold State.takeGive
  rw [h]
  refine if_congr ?_ rfl rfl
  rw [Bool.and_eq_true, Bool.not_eq_true', ← Bool.not_eq_true, Ltu.fetchPassed_iff, atOrAfter, decide_eq_true_eq]

/-- GIVE while no ask waits (R100). -/
theorem State.takeGive_stray (h : ∀ w, s.ltu.quiet ≠ .asked w) (cq : Cycle) : s.takeGive cq = s.count .quietStrays := by
  unfold State.takeGive
  split
  · next w hw => exact absurd hw (h w)
  · rfl
  · rfl
  · rfl

/-- A QUIET event raised beside a message sent on the scheduler link: the order does not show. -/
theorem State.send_raiseQuiet (m : SchedMessage) (p : Purpose) (d : QuietDetail) (v : Cycle) :
    (s.send m).raiseQuiet p d v = (s.raise (quietEvent p d v)).send m := by
  have hevent : quietEvent p d v =
      { kind := .quiet, index := p.indexByte, detail0 := quietCode d, detail1 := 0, value := v } := by
    cases p <;> rfl
  unfold State.raiseQuiet
  rw [← hevent, s.raise_eq_of (t := s.send m) _ rfl rfl rfl rfl, s.raise_eq (quietEvent p d v)]
  rfl

/-- A late GIVE (R100): the event, the counter, WITHDRAW and the demander told. -/
theorem State.lateGive_eq (w : Window) (cq : Cycle) :
    s.lateGive w cq = State.askEnded
      ((((s.raise (quietEvent w.purpose .lateGive cq)).count .quietLateGives).send .withdraw).setQuiet .idle) w.purpose := by
  unfold State.lateGive
  rw [s.send_raiseQuiet]
  rfl

end Sys2Proof.Machine

namespace Sys2Proof.Proofs

open Sys2Proof.Machine Sys2Proof.Safety

/-- Settles O28. -/
theorem cycleStart : Obligations.CycleStart := by
  intro s c u0 u kept v
  refine ⟨fun h => congrArg Host.Outcome.next (s.cycleStart_unjudged h), fun hk hl hc => ?_⟩
  have advance : exec (.cycle c) s = .next (v s.ltu.quiet).advanceQuiet.followInterrupt :=
    congrArg Host.Outcome.next (s.cycleStart_advance hk hl hc)
  rw [advance]
  refine ⟨fun w hw => ?_, fun w hw hlt hpass => ?_, fun w hw h => ?_, fun w hw => ?_⟩ <;> rw [hw]
  · rw [State.advanceQuiet_asked (v (.asked w)) rfl]
    rfl
  · rw [State.advanceQuiet_given (v (.given w)) rfl, if_neg]
    rintro (h | h)
    · exact absurd h (Nat.not_lt.2 hlt)
    · rw [hpass] at h
      cases h
  · rw [State.advanceQuiet_given (v (.given w)) rfl, if_pos h]
    rfl
  · rw [State.advanceQuiet_opened (v (.opened w)) rfl]

/-- Settles O32. -/
theorem give : Obligations.Give := by
  intro s cq passed
  refine ⟨fun w hw => ⟨?_, ?_⟩, fun h => congrArg Host.Outcome.next (s.takeGive_stray h cq)⟩
  · intro hafter hnot u
    have given : exec (.give cq) s = .next (u.windowGiven { w with cq := cq }) :=
      congrArg Host.Outcome.next ((s.takeGive_asked hw cq).trans (if_pos ⟨hafter, hnot⟩))
    rw [given]
    refine ⟨fun e hp hr => ?_, fun i k a hp ha => ?_⟩ <;> unfold State.windowGiven <;> dsimp only <;> rw [hp] <;> dsimp only
    · rw [show u.dsu.round = .asking e from hr]
    · rw [show u.rgu.attempt = some a from ha]
  · intro hlate v
    have late : exec (.give cq) s = .next (s.lateGive w cq) := by
      refine congrArg Host.Outcome.next ((s.takeGive_asked hw cq).trans (if_neg fun h => ?_))
      exact hlate.elim (fun hb => absurd h.1 (Nat.not_lt.2 hb)) h.2
    have hlinks : v.links = s.links := by simp [v]
    have hltu : v.ltu = s.ltu := by simp [v]
    rw [late, s.lateGive_eq]
    show Host.Outcome.next (State.askEnded { v with
      links := { v.links with sched := v.links.sched ++ [.withdraw] }, ltu := { v.ltu with quiet := .idle } } w.purpose) = _
    rw [hlinks, hltu]

end Sys2Proof.Proofs
end

section
set_option Elab.async false
/-! A slip (R95): what it requeues, what it abandons, and the messages and events it leaves. -/

namespace Sys2Proof.Machine

open Sys2Proof.Safety

/-! ### Entries marked one after another -/

/-- One step over a vector: entry `i`, if `p` holds of it, is replaced by `g` of it and gives one element of a list. -/
def markStep {α β : Type} {n : Nat} (p : α → Bool) (g : α → α) (m : Fin n → α → β) (a : Vector α n × List β) (i : Fin n) :
    Vector α n × List β :=
  if p a.1[i] then (a.1.set i (g a.1[i]), a.2 ++ [m i a.1[i]]) else a

/-- What marking does to the entries. -/
theorem markStep_entry {α β : Type} {n : Nat} (p : α → Bool) (g : α → α) (m : Fin n → α → β) (a : Vector α n × List β) (i k : Fin n) :
    (markStep p g m a i).1[k] = if k = i ∧ p a.1[k] = true then g a.1[k] else a.1[k] := by
  unfold markStep
  by_cases hp : p a.1[i] = true
  · rw [if_pos hp]
    by_cases hk : k = i
    · subst hk
      rw [if_pos ⟨rfl, hp⟩]
      exact Vector.getElem_set_self _
    · rw [if_neg fun h => hk h.1]
      exact Vector.getElem_set_ne i.isLt k.isLt fun e => hk (Fin.ext e.symm)
  · rw [if_neg hp, if_neg]
    rintro ⟨rfl, h⟩
    exact hp h

/-- What marking adds to the list. -/
theorem markStep_marks {α β : Type} {n : Nat} (p : α → Bool) (g : α → α) (m : Fin n → α → β) (a : Vector α n × List β) (i : Fin n) :
    (markStep p g m a i).2 = if p a.1[i] = true then a.2 ++ [m i a.1[i]] else a.2 := by
  unfold markStep
  exact apply_ite Prod.snd _ _ _

/-- Marking along a list without repeats replaces the entries of the list of which `p` holds, and gives one element for each, in order. -/
theorem foldl_markStep {α β : Type} {n : Nat} (p : α → Bool) (g : α → α) (m : Fin n → α → β) (l : List (Fin n)) (hl : l.Nodup) :
    ∀ a : Vector α n × List β,
      (∀ k, (l.foldl (markStep p g m) a).1[k] = if k ∈ l ∧ p a.1[k] = true then g a.1[k] else a.1[k]) ∧
      (l.foldl (markStep p g m) a).2 = a.2 ++ (l.filter (fun i => p a.1[i])).map (fun i => m i a.1[i]) := by
  induction l with
  | nil => exact fun a => ⟨fun k => by simp, by simp⟩
  | cons i l ih =>
    intro a
    obtain ⟨hi, hl⟩ := List.nodup_cons.1 hl
    obtain ⟨entries, marks⟩ := ih hl (markStep p g m a i)
    have others : ∀ k ∈ l, (markStep p g m a i).1[k] = a.1[k] := fun k hk =>
      (markStep_entry p g m a i k).trans (if_neg fun ⟨e, _⟩ => hi (e ▸ hk))
    rw [List.foldl_cons]
    refine ⟨fun k => ?_, ?_⟩
    · rw [entries k]
      by_cases hk : k ∈ l
      · simp only [others k hk, hk, List.mem_cons, or_true, true_and]
      · simp only [hk, false_and, if_false, markStep_entry, List.mem_cons, or_false]
    · have kept : l.filter (fun k => p (markStep p g m a i).1[k]) = l.filter (fun k => p a.1[k]) :=
        List.filter_congr fun k hk => by rw [others k hk]
      have told : (l.filter (fun k => p a.1[k])).map (fun k => m k (markStep p g m a i).1[k]) =
          (l.filter (fun k => p a.1[k])).map (fun k => m k a.1[k]) :=
        List.map_congr_left fun k hk => by rw [others k (List.mem_of_mem_filter hk)]
      rw [marks, kept, told, markStep_marks, List.filter_cons]
      split
      · rw [List.append_assoc, List.map_cons]
        rfl
      · rfl

/-- Marking every entry of a vector in order. -/
theorem foldl_markStep_all {α β : Type} {n : Nat} (p : α → Bool) (g : α → α) (m : Fin n → α → β) (v : Vector α n) (out : List β) :
    (List.finRange n).foldl (markStep p g m) (v, out) =
      (v.map (fun x => if p x then g x else x), out ++ ((List.finRange n).filter (fun i => p v[i])).map (fun i => m i v[i])) := by
  obtain ⟨entries, marks⟩ := foldl_markStep p g m (List.finRange n) (List.nodup_finRange n) (v, out)
  refine Prod.ext (Vector.ext fun k hk => ?_) marks
  have := entries ⟨k, hk⟩
  simp only [List.mem_finRange, true_and, Fin.getElem_fin] at this
  rw [this, Vector.getElem_map]

/-! ### Asks and blocks offered again -/

/-- The ask of a settle state is OUTSTANDING (R67). -/
def Settle.isOutstanding (x : Settle) : Bool :=
  match x.stage with
  | .outstanding _ _ _ => true
  | _ => false

/-- A channel is SENT (R80). -/
def Channel.isSent (c : Channel) : Bool :=
  match c.stage with
  | .sent _ _ _ => true
  | _ => false

variable (s : State)

/-- The state with its settle states and its reply-bearing list replaced. -/
def State.withAsks (a : Vector (Option Settle) 128 × List ReplyEntry) : State :=
  { s with rgu := { s.rgu with settles := a.1 }, dsq := { s.dsq with reply := a.2 } }

/-- The state with its channels and its reply-bearing list replaced. -/
def State.withBlocks (a : Vector Channel 4 × List ReplyEntry) : State :=
  { s with pex := { s.pex with chans := a.1 }, dsq := { s.dsq with reply := a.2 } }

/-- The asks OUTSTANDING queued again at a slip (R71, log 11). -/
theorem State.requeueAsks_eq : s.requeueAsks = s.withAsks
    (s.rgu.settles.map (fun x => x.map (fun y => if y.isOutstanding then { y with stage := .queued } else y)),
      s.dsq.reply ++ (allRecords.filter (fun i => (s.settle i).any Settle.isOutstanding)).map
        (fun i => { index := i, kind := .confirmAsk })) := by
  have entries : (fun x : Option Settle => x.map (fun y => if y.isOutstanding then { y with stage := .queued } else y)) =
      fun x => if x.any Settle.isOutstanding then x.map (fun y => { y with stage := .queued }) else x := by
    funext x
    rcases x with _ | y
    · rfl
    · exact apply_ite some _ _ _
  rw [entries]
  unfold State.requeueAsks
  refine (List.foldl_hom (init := (s.rgu.settles, s.dsq.reply)) (g₁ := markStep (fun x => x.any Settle.isOutstanding)
    (Option.map fun y => { y with stage := .queued }) (fun i _ => { index := i, kind := .confirmAsk })) s.withAsks fun a i => ?_).trans
      (congrArg s.withAsks (foldl_markStep_all _ _ _ _ _))
  have hsettle : (s.withAsks a).settle i = a.1[i] := rfl
  unfold markStep
  rw [hsettle]
  rcases a.1[i] with _ | ⟨found, missed, sum, _ | ⟨ct, j, n⟩ | _ | _, report⟩ <;> rfl

/-- The blocks SENT offered again at a slip (R88, log 11). -/
theorem State.requeueBlocks_eq : s.requeueBlocks = s.withBlocks
    (s.pex.chans.map (fun x => if x.isSent then { x with stage := .ready } else x),
      s.dsq.reply ++ (allChannels.filter (fun ch => (s.chan ch).isSent)).map
        (fun ch => { index := (s.chan ch).index, kind := .profileBlock })) := by
  unfold State.requeueBlocks
  refine (List.foldl_hom (init := (s.pex.chans, s.dsq.reply)) (g₁ := markStep Channel.isSent
    (fun x => { x with stage := .ready }) (fun _ x => { index := x.index, kind := .profileBlock })) s.withBlocks fun a i => ?_).trans
      (congrArg s.withBlocks (foldl_markStep_all _ _ _ _ _))
  have hchan : (s.withBlocks a).chan i = a.1[i] := rfl
  unfold markStep Channel.isSent State.offerAgain
  rw [hchan]
  rcases a.1[i].stage with _ | _ | _ | _ | ⟨ct, j, n⟩ | _ <;> rfl

/-! ### What the slip abandons -/

/-- An attempt abandoned returns the record at the head of the ranging queue, if it is RANGING, and no other (R16, R66). -/
theorem State.abandonAttempt_record (k : RecIx) : s.abandonAttempt.record k =
    if s.rgu.queue.head? = some k ∧ (s.record k).state = .ranging then
      { s.record k with state := .assigned, lastChange := s.ltu.cycle }
    else s.record k := by
  by_cases h : ∃ i rest, s.rgu.queue = i :: rest ∧ (s.record i).state = .ranging
  · obtain ⟨i, rest, hq, hst⟩ := h
    rw [s.abandonAttempt_ranging hq hst, hq, List.head?_cons]
    refine (State.record_onRecord s i k (fun r => { r with state := .assigned, lastChange := s.ltu.cycle })).trans ?_
    by_cases hk : k = i
    · subst hk
      rw [if_pos rfl, if_pos ⟨rfl, hst⟩]
    · rw [if_neg hk, if_neg fun e => hk (Option.some.inj e.1).symm]
  · rw [s.abandonAttempt_idle fun i rest hq hst => h ⟨i, rest, hq, hst⟩, if_neg]
    · rfl
    · rintro ⟨hq, hst⟩
      obtain ⟨rest, hq⟩ := List.head?_eq_some_iff.1 hq
      exact h ⟨k, rest, hq, hst⟩

/-- The records and the window message after what a slip and LINE-DOWN end alike (R66, R104). -/
theorem State.dropTimeline_keeps :
    s.dropTimeline.dsq = { s.dsq with window := (match s.ltu.quiet with | .given _ => none | _ => s.dsq.window) } ∧
    ∀ k, s.dropTimeline.record k =
      if s.rgu.queue.head? = some k ∧ (s.record k).state = .ranging then
        { s.record k with state := .assigned, lastChange := s.ltu.cycle }
      else s.record k := by
  obtain ⟨hltu, -, hdsq, -, -⟩ := s.endQuiet_spec
  have hcycle : s.endQuiet.ltu.cycle = s.ltu.cycle := by rw [hltu]
  have records : ∀ k, s.endQuiet.abandonRound.record k = s.record k := fun k => State.record_congr s (by simp) k
  refine ⟨?_, fun k => ?_⟩
  · have kept : s.endQuiet.abandonRound.abandonAttempt.dsq = s.endQuiet.dsq := by simp
    exact kept.trans hdsq
  · have := s.endQuiet.abandonRound.abandonAttempt_record k
    simp only [records, State.abandonRound_frame, State.endQuiet_frame, hcycle] at this
    exact this

end Sys2Proof.Machine

namespace Sys2Proof.Proofs

open Sys2Proof.Machine Sys2Proof.Safety

/-- Settles O30. -/
theorem cycleSlip : Obligations.CycleSlip := by
  intro s c hk hl hc isOut isSent u
  generalize hp : (s.startCycle c).presentDemand = p
  have hexec : exec (.cycle c) s = .next p.slip.followInterrupt := by
    rw [← hp]
    exact congrArg Host.Outcome.next (s.cycleStart_slip hk hl hc)
  generalize hr : p.raise (lineEvent .slip c) = r
  have hslip : p.slip = r.dropTimeline.requeueAsks.requeueBlocks := by
    rw [← hr, ← hp]
    rfl
  have raised : EventsRaised u r [lineEvent .slip c] := by
    rw [← hr, ← hp]
    exact State.raise_congr _ rfl rfl rfl rfl
  have frame : r.records = s.records ∧ r.header = s.header ∧ r.rgu = s.rgu ∧ r.pex = s.pex ∧
      r.ltu = { s.ltu with cycle := c, offset := 0, known := true, nextFetched := false } ∧ r.brx = s.brx ∧ r.dsq = s.dsq ∧
      r.pct = s.pct ∧ r.bpt = s.bpt ∧ r.links = s.links ∧ r.sram = s.sram ∧ ∃ d, r.dsu = { s.dsu with demand := d } := by
    rw [← hr, State.raise_eq, ← hp]
    exact ⟨rfl, rfl, rfl, rfl, rfl, rfl, rfl, rfl, rfl, rfl, rfl, _, rfl⟩
  clear hr
  obtain ⟨frecords, fheader, frgu, fpex, fltu, fbrx, fdsq, fpct, fbpt, flinks, fsram, dem, fdsu⟩ := frame
  have frec : ∀ k, r.record k = s.record k := State.record_congr s frecords
  obtain ⟨dltu, dbrx, dlinks, -, ddsu, drgu, -⟩ := r.dropTimeline_spec
  obtain ⟨ddsq, drec⟩ := r.dropTimeline_keeps
  have dframe : r.dropTimeline.header = r.header ∧ r.dropTimeline.pex = r.pex ∧ r.dropTimeline.pct = r.pct ∧
      r.dropTimeline.bpt = r.bpt ∧ r.dropTimeline.sram = r.sram ∧ r.dropTimeline.evw = r.evw ∧
      r.dropTimeline.counters = r.counters := by simp
  rw [hslip, State.requeueBlocks_eq, State.requeueAsks_eq] at hexec
  generalize r.dropTimeline = d at *
  obtain ⟨dheader, dpex, dpct, dbpt, dsram, devw, dcounters⟩ := dframe
  refine ⟨_, hexec, ?_, ?_, ?_, ?_, ?_, ?_, ?_, ?_, ?_, ?_, ?_, ?_, ?_, ?_, ?_, ?_, ?_, ?_⟩
  · show d.ltu = _
    rw [dltu, fltu]
  · show ({ d.evw with line := _ } : Evw) = _
    rw [devw, raised.1]
    rfl
  · show d.counters = _
    rw [dcounters, raised.2]
    rfl
  · show d.links = _
    rw [dlinks, flinks, fltu]
  · show d.dsu.round = _
    rw [ddsu]
  · show d.dsu.exponent = _
    rw [ddsu, fdsu]
  · show d.dsu.parks = _
    rw [ddsu, fdsu]
  · show d.dsu.strangers = _
    rw [ddsu, fdsu]
  · have base := congrArg Dsu.base ddsu
    rw [fdsu, fltu] at base
    exact base
  · intro i
    show d.record i = _
    rw [drec i, frec, frgu, fltu]
  · show ({ d.rgu with settles := d.rgu.settles.map _ } : Rgu) = _
    rw [drgu, frgu]
    rfl
  · show ({ d.pex with chans := d.pex.chans.map _ } : Pex) = _
    rw [dpex, fpex]
    rfl
  · show ({ d.dsq with reply := d.dsq.reply ++ _ ++ _ } : Dsq) = _
    have hsettle : ∀ i, d.settle i = s.settle i := fun i => by
      show d.rgu.settles[i] = _
      rw [drgu, frgu]
      rfl
    have hchan : ∀ a ch, (d.withAsks a).chan ch = s.chan ch := fun a ch => by
      show d.pex.chans[ch] = _
      rw [dpex, fpex]
      rfl
    rw [ddsq, fdsq, fltu]
    simp only [hsettle, hchan] <;> rfl
  · show d.brx = _
    rw [dbrx, fbrx]
  · show d.header = _
    rw [dheader, fheader]
  · show d.pct = _
    rw [dpct, fpct]
  · show d.bpt = _
    rw [dbpt, fbpt]
  · show d.sram = _
    rw [dsram, fsram]

end Sys2Proof.Proofs
end

section
set_option Elab.async false
/-! The fetches that take the window message or a PARK (R34, R48, R54, R102, R131). -/

namespace Sys2Proof.Machine

open Sys2Proof.Safety

variable (s : State)

/-- While RUNNING the window message bound to the cycle is taken before every list (R131). -/
theorem State.choose_window {c : Cycle} {m : BoundMessage} (hl : s.ltu.lineUp = true) (hp : s.pct.port = .running)
    (hw : s.dsq.window = some m) (hm : m.cq = c) : s.choose c = .window m := by
  unfold State.choose
  rw [if_neg (by simp [hl]), hp]
  dsimp only
  unfold State.chooseAll
  rw [hw]
  exact if_pos hm

/-- With the urgent and the control list empty, the park queue is drawn on next (R131). -/
theorem State.choose_park {c : Cycle} {p : Park} {rest : List Park} (hl : s.ltu.lineUp = true) (hp : s.pct.port = .running)
    (hw : NoWindowFor s c) (hu : s.dsq.urgent = []) (hc : s.dsq.control = []) (hq : s.dsu.parks = p :: rest) :
    s.choose c = .park p := by
  unfold State.choose
  rw [if_neg (by simp [hl]), hp]
  dsimp only
  rw [s.chooseAll_noWindow hw]
  unfold State.chooseLists
  rw [hu, hc, hq]

/-- An INVITE taken opens the window and the round (R34, R102). -/
theorem State.windowTaken_invite {w : Window} (hq : s.ltu.quiet = .given w) (c : Cycle) (e : Nat) :
    s.windowTaken { cq := c, message := .invite e } = (s.emptyWindowSlot.setQuiet (.opened w)).inviteTaken c e := by
  unfold State.windowTaken
  dsimp only
  rw [show s.emptyWindowSlot.ltu.quiet = .given w from hq]

/-- A RANGE-ASK taken opens the window and the attempt (R54, R102). -/
theorem State.windowTaken_rangeAsk {w : Window} {a : Attempt} (hq : s.ltu.quiet = .given w) (ha : s.rgu.attempt = some a) (c : Cycle)
    (i : RecIx) (n : Nat) :
    s.windowTaken { cq := c, message := .rangeAsk i n } =
      (s.emptyWindowSlot.setQuiet (.opened w)).setAttempt (some { a with stage := .opened }) := by
  unfold State.windowTaken State.rangeAskTaken
  dsimp only
  rw [show s.emptyWindowSlot.ltu.quiet = .given w from hq]
  dsimp only
  rw [show (s.emptyWindowSlot.setQuiet (.opened w)).rgu.attempt = some a from ha]

/-- A PARK taken leaves the rest of the park queue (R48). -/
theorem State.parkTaken_eq {p : Park} {rest : List Park} (hq : s.dsu.parks = p :: rest) :
    s.parkTaken = { s with dsu := { s.dsu with parks := rest } } := by
  unfold State.parkTaken
  rw [hq]
  rfl

end Sys2Proof.Machine

namespace Sys2Proof.Proofs

open Sys2Proof.Machine Sys2Proof.Safety

/-- Settles O40. -/
theorem fetchWindowAndPark : Obligations.FetchWindowAndPark := by
  intro s c h hp
  have hl : (s.recordFetch c).ltu.lineUp = true := by
    obtain ⟨-, -, -, hl⟩ := h
    exact hl
  have taken : ∀ choice, (s.recordFetch c).choose c = choice → exec (.fetch c) s =
      .next (((s.recordFetch c).takeChoice c choice).answerFetch ((s.recordFetch c).choiceAnswer choice)) := by
    rintro _ rfl
    exact congrArg Host.Outcome.next (s.takeFetch_valid h)
  refine ⟨fun w e hw hq => ?_, fun w i n a hw hq ha => ?_, fun p rest hw hu hc hq => ?_⟩
  · refine (taken _ ((s.recordFetch c).choose_window hl hp hw rfl)).trans ?_
    exact congrArg (fun t : State => Host.Outcome.next (t.answerFetch _)) ((s.recordFetch c).windowTaken_invite hq c e)
  · refine (taken _ ((s.recordFetch c).choose_window hl hp hw rfl)).trans ?_
    exact congrArg (fun t : State => Host.Outcome.next (t.answerFetch _)) ((s.recordFetch c).windowTaken_rangeAsk hq ha c i n)
  · refine (taken _ ((s.recordFetch c).choose_park hl hp hw hu hc hq)).trans ?_
    exact congrArg (fun t : State => Host.Outcome.next (t.answerFetch _)) ((s.recordFetch c).parkTaken_eq hq)

end Sys2Proof.Proofs
end

section
set_option Elab.async false
/-! Discovery rounds: when one is due (R32), when one is complete, and how the spread exponent adapts (R41, R42). -/

namespace Sys2Proof.Machine

open Sys2Proof.Safety

variable (s : State)

/-- The condition of discovery demand (R31, R32). -/
theorem State.discoveryDemand_iff : s.discoveryDemand = true ↔
    s.pct.port = .running ∧ s.ltu.lineUp = true ∧ s.dsu.round = .idle ∧
      s.header.discoveryPeriod.toNat ≤ (s.ltu.cycle - s.dsu.base).toNat ∧
      ((∃ i, (s.record i).state = .awaiting) ∨ s.header.openDiscovery ≠ 0) := by
  unfold State.discoveryDemand State.roundDue State.roundWanted isOn allRecords
  simp [and_assoc]

/-- A round is finished once its window has ended and no capture of it waits (R41). -/
theorem State.roundFinished_iff (w : DiscWindow) : s.roundFinished w = true ↔
    ¬(∃ q, s.ltu.quiet = .opened q ∧ q.interval = .discovery w.ref) ∧ ¬(∃ c ∈ s.brx.queue, c.interval = .discovery w.ref) := by
  have runs : s.windowRuns (.discovery w.ref) = true ↔ ∃ q, s.ltu.quiet = .opened q ∧ q.interval = .discovery w.ref := by
    unfold State.windowRuns
    rcases s.ltu.quiet with _ | q | q | q <;> simp
  have waits : s.captured (.discovery w.ref) = true ↔ ∃ c ∈ s.brx.queue, c.interval = .discovery w.ref := by
    unfold State.captured
    simp
  unfold State.roundFinished
  rw [Bool.and_eq_true, Bool.not_eq_true', Bool.not_eq_true', ← Bool.not_eq_true, ← Bool.not_eq_true, runs, waits]

/-- DISCOVERY_ROUND_COMPLETE with no round open. -/
theorem execDiscoveryRoundComplete_none (h : ∀ w, s.dsu.round ≠ .opened w) : execDiscoveryRoundComplete s = .next s := by
  unfold execDiscoveryRoundComplete
  split
  · next w hw => exact absurd hw (h w)
  · rfl
  · rfl

/-- DISCOVERY_ROUND_COMPLETE with a round open (R41). -/
theorem execDiscoveryRoundComplete_opened {w : DiscWindow} (h : s.dsu.round = .opened w) :
    execDiscoveryRoundComplete s = if s.roundFinished w then .next (s.completeRound w) else .next s := by
  unfold execDiscoveryRoundComplete
  rw [h]

/-! ### The class of a window and the next exponent -/

/-- A round whose window was garbled (R41, R42). -/
theorem State.completeRound_garbled {w : DiscWindow} (h : w.garbled = true) :
    w.classCounter = .windowsGarbled ∧ s.adapted w = min (s.dsu.exponent + 1) s.header.spreadMax.toNat := by
  unfold DiscWindow.classCounter State.adapted
  simp [h]

/-- A round whose window was silent (R41, R42). -/
theorem State.completeRound_silent {w : DiscWindow} (h : w.garbled = false) (hv : w.valid = 0) :
    w.classCounter = .windowsSilent ∧ s.adapted w = max (s.dsu.exponent - 1) s.header.spreadMin.toNat := by
  unfold DiscWindow.classCounter State.adapted State.narrow
  simp [h, hv]

/-- A round whose window was clean (R41, R42). -/
theorem State.completeRound_clean {w : DiscWindow} (h : w.garbled = false) (hv : 1 ≤ w.valid) :
    w.classCounter = .windowsClean ∧ s.adapted w =
      if 4 * w.valid ≤ w.spread then max (s.dsu.exponent - 1) s.header.spreadMin.toNat else s.dsu.exponent := by
  unfold DiscWindow.classCounter State.adapted State.narrow
  simp [h, hv, Nat.one_le_iff_ne_zero.1 hv]

end Sys2Proof.Machine

namespace Sys2Proof.Proofs

open Sys2Proof.Machine Sys2Proof.Safety

/-- Settles O47. -/
theorem rounds : Obligations.Rounds := by
  intro s due
  refine ⟨fun h => ?_, fun h => ?_, fun h => execDiscoveryRoundComplete_none s h, fun w hw => ?_⟩
  · have demand := s.discoveryDemand_iff.2 h
    show execRoundDue s = _
    unfold execRoundDue State.presentDemand
    rw [if_pos demand, demand]
  · show execRoundDue s = _
    unfold execRoundDue
    rw [if_neg fun demand => h (s.discoveryDemand_iff.1 demand)]
  · intro running waiting done down
    have complete := execDiscoveryRoundComplete_opened s hw
    refine ⟨fun h => ?_, fun hr hwait => ?_⟩
    · refine complete.trans (if_neg fun hf => ?_)
      obtain ⟨hr, hwait⟩ := (s.roundFinished_iff w).1 hf
      exact h.elim hr hwait
    · have finished : ∀ k e, w.classCounter = k ∧ s.adapted w = e → done k e := by
        rintro _ _ ⟨rfl, rfl⟩
        exact complete.trans (if_pos ((s.roundFinished_iff w).2 ⟨hr, hwait⟩))
      refine ⟨fun hg => finished _ _ (s.completeRound_garbled hg), fun hg hv => finished _ _ (s.completeRound_silent hg hv),
        fun hg hv hq => finished _ _ ?_, fun hg hv hq => finished _ _ ?_⟩
      · have clean := s.completeRound_clean hg hv
        rwa [if_pos hq] at clean
      · have clean := s.completeRound_clean hg hv
        rwa [if_neg (Nat.not_le.2 hq)] at clean

end Sys2Proof.Proofs
end

section
set_option Elab.async false
/-! HELLO_TAKE (R35, R36, R43, R123): the capture taken, and the seen list of the open round. -/

namespace Sys2Proof.Machine

open Sys2Proof.Safety

variable (s : State)

/-! ### The oldest capture of an owner -/

/-- The oldest capture of an owner is found, and leaves the queue (R123). -/
theorem State.oldestCapture_taken {mine : Capture → Bool} {c : Capture} {before after : List Capture}
    (h : OldestIs s mine c before after) : s.oldestCapture mine = some c ∧ s.takeCapture c = taken s before after := by
  obtain ⟨hq, hc, hbefore⟩ := h
  have notBefore : c ∉ before := fun hm => by
    rw [hbefore c hm] at hc
    cases hc
  refine ⟨?_, ?_⟩
  · refine List.find?_eq_some_iff_append.2 ⟨hc, before, after, hq, fun b hb => ?_⟩
    rw [hbefore b hb]
    rfl
  · unfold State.takeCapture taken
    rw [hq, List.erase_append_right _ notBefore, List.erase_cons_head]

/-- HELLO_TAKE with a HELLO waiting (R123). -/
theorem execHelloTake_some {c : Capture} {before after : List Capture} (h : OldestIs s Capture.isHello c before after) :
    execHelloTake s = .next ((taken s before after).handleHello c) := by
  obtain ⟨found, left⟩ := s.oldestCapture_taken h
  unfold execHelloTake
  rw [found, ← left]

/-- HELLO_TAKE with no HELLO waiting (log 1). -/
theorem execHelloTake_none (h : ∀ b ∈ s.brx.queue, b.kind ≠ .hello) : execHelloTake s = .next s := by
  have none : s.oldestCapture Capture.isHello = none := by
    refine List.find?_eq_none.2 fun b hb => ?_
    rw [Capture.isHello, decide_eq_true_eq]
    exact h b hb
  unfold execHelloTake
  rw [none]

/-! ### The HELLO against the open round -/

/-- A HELLO that names no open round is discarded (R35, R43). -/
theorem State.handleHello_stale {c : Capture} (h : ∀ w, s.dsu.round = .opened w → c.interval ≠ .discovery w.ref) :
    s.handleHello c = s := by
  unfold State.handleHello
  split
  · next w hw => exact if_neg (h w hw)
  · rfl
  · rfl

/-- A HELLO of the open round (R35). -/
theorem State.handleHello_open {c : Capture} {w : DiscWindow} (hw : s.dsu.round = .opened w) (hc : c.interval = .discovery w.ref) :
    s.handleHello c = s.helloInWindow w c := by
  unfold State.handleHello
  rw [hw]
  exact if_pos hc

/-- The open round with one more valid HELLO and `l` as its seen list (R36). -/
def State.helloCounted (s : State) (w : DiscWindow) (l : List Seen) : State :=
  (s.setRound (.opened { w with valid := w.valid + 1, seen := l })).count .validHellos

/-- A HELLO out of spread (R36). -/
theorem State.helloInWindow_stray {w : DiscWindow} {c : Capture} (h : w.spread ≤ c.slotField) :
    s.helloInWindow w c = s.count .strayBursts := by
  unfold State.helloInWindow
  exact if_pos h

/-- A valid HELLO whose serial is listed (R36). -/
theorem State.helloInWindow_listed {w : DiscWindow} {c : Capture} (h : c.slotField < w.spread) {e : Seen} {l m : List Seen}
    (hs : w.seen = l ++ e :: m) (he : e.serial = c.serial) (hl : ∀ z ∈ l, z.serial ≠ c.serial) :
    s.helloInWindow w c = (s.helloCounted w w.seen).duplicateHello { w with valid := w.valid + 1 } e := by
  have found : w.seen.find? (fun x => decide (x.serial = c.serial)) = some e :=
    List.find?_eq_some_iff_append.2 ⟨decide_eq_true he, l, m, hs, fun z hz => by simp [hl z hz]⟩
  unfold State.helloInWindow
  rw [if_neg (Nat.not_le.2 h)]
  dsimp only
  rw [found]
  rfl

/-- A valid HELLO whose serial is not listed (R36, R37). -/
theorem State.helloInWindow_fresh {w : DiscWindow} {c : Capture} (h : c.slotField < w.spread)
    (hs : ∀ z ∈ w.seen, z.serial ≠ c.serial) :
    s.helloInWindow w c = (s.helloCounted w (if w.seen.length < 128 then w.seen ++ [{ serial := c.serial, reported := false }]
      else w.seen)).matchHello c.serial c.conv (helloResp c.payload) := by
  have none : w.seen.find? (fun x => decide (x.serial = c.serial)) = none :=
    List.find?_eq_none.2 fun z hz => by simp [hs z hz]
  unfold State.helloInWindow
  rw [if_neg (Nat.not_le.2 h)]
  dsimp only
  rw [none]
  refine congrArg (fun t : State => t.matchHello c.serial c.conv (helloResp c.payload)) ?_
  exact (apply_ite (s.helloCounted w) (w.seen.length < 128) (w.seen ++ [{ serial := c.serial, reported := false }]) w.seen).symm

/-! ### Duplicates -/

/-- A duplicate reported before (R36). -/
theorem State.duplicateHello_reported {w : DiscWindow} {e : Seen} (h : e.reported = true) : s.duplicateHello w e = s := by
  unfold State.duplicateHello
  exact if_pos h

/-- A duplicate reported now, by the live record that holds its serial (R36). -/
theorem State.duplicateHello_new {w : DiscWindow} {e : Seen} (h : e.reported = false) {holder : Option RecIx}
    (hh : s.liveHolder e.serial = holder) :
    s.duplicateHello w e = State.raise
      (s.setRound (.opened { w with seen := w.seen.map (fun x => if x.serial = e.serial then { x with reported := true } else x) }))
      { kind := .duplicate, index := (holder.map indexByte).getD noIndex, detail0 := 0, detail1 := 0, value := serialLow e.serial } := by
  unfold State.duplicateHello
  rw [if_neg (by simp [h]), hh]
  cases holder <;> rfl

end Sys2Proof.Machine

namespace Sys2Proof.Proofs

open Sys2Proof.Machine Sys2Proof.Safety

/-- Settles O44. -/
theorem helloChecked : Obligations.HelloChecked := by
  refine ⟨execHelloTake_none, ?_⟩
  intro s c before after hold u x resp slot live
  have handled : exec .helloTake s = .next (u.handleHello c) := execHelloTake_some s hold
  refine ⟨fun h => handled.trans (congrArg Host.Outcome.next (u.handleHello_stale h)), fun w hw hc => ?_⟩
  intro seen marked report
  rw [u.handleHello_open hw hc] at handled
  refine ⟨fun hslot => ?_, fun hslot y l m hseen hy hl => ?_, fun hslot hnone => ?_⟩
  · exact handled.trans (congrArg Host.Outcome.next (u.helloInWindow_stray hslot))
  · rw [u.helloInWindow_listed hslot hseen hy hl] at handled
    refine ⟨fun hr => ?_, fun hr => ⟨fun k hk hfirst => ?_, fun hnone => ?_⟩⟩
    · exact handled.trans (congrArg Host.Outcome.next (State.duplicateHello_reported _ hr))
    · have holder : (u.helloCounted w w.seen).liveHolder y.serial = some k :=
        (State.liveHolder_eq_some _ y.serial k).2 (by rw [hy]; exact ⟨hk, hfirst⟩)
      rw [State.duplicateHello_new _ hr holder, hy] at handled
      exact handled
    · have holder : (u.helloCounted w w.seen).liveHolder y.serial = none :=
        State.liveHolder_none.2 fun k hl he => hnone k ⟨hl, he.trans hy⟩
      rw [State.duplicateHello_new _ hr holder, hy] at handled
      exact handled
  · exact handled.trans (congrArg Host.Outcome.next (u.helloInWindow_fresh hslot hnone))

end Sys2Proof.Proofs
end

section
set_option Elab.async false
/-! The Burst Receiver, one sample at a time (R113 to R122): which samples a reception command takes, and what each makes of the hunt. -/

namespace Sys2Proof.Machine

open Sys2Proof.Safety

variable (s : State)

/-! ### Which samples a command takes -/

/-- Samples are not taken where the hunt is in none of the command's phases (log 17). -/
theorem State.feed_idle {ps : List HuntPhase} (h : s.huntsIn ps = false) (xs : List Sample) : State.feed ps xs s = s := by
  cases xs with
  | nil => rfl
  | cons x xs =>
    unfold State.feed
    rw [h]
    rfl

/-- One sample is taken where the hunt is in one of the command's phases. -/
theorem State.feed_one {ps : List HuntPhase} (h : s.huntsIn ps = true) (x : Sample) : State.feed ps [x] s = s.laneSample x := by
  unfold State.feed
  rw [h]
  rfl

/-- With the arm line low the hunt is in no phase (R112). -/
theorem State.huntsIn_disarmed (h : s.ltu.armed = none) (ps : List HuntPhase) : s.huntsIn ps = false := by
  unfold State.huntsIn
  rw [h]
  rfl

/-- The phases a command names decide, wherever the interval stands. -/
theorem State.huntsIn_of_phase {ps : List HuntPhase} (h : ∀ p, s.brx.phase = some p → ps.contains p = false) :
    s.huntsIn ps = false := by
  unfold State.huntsIn
  rcases hp : s.brx.phase with _ | p
  · exact Bool.and_false _
  · dsimp only
    rw [h p hp, Bool.and_false]

/-- Inside an armed interval the hunt is in its own phase. -/
theorem State.huntsIn_armed {id : Interval} (ha : s.ltu.armed = some id) (ho : s.intervalOver id = false) {p : HuntPhase}
    (hp : s.brx.phase = some p) {ps : List HuntPhase} (hm : ps.contains p = true) : s.huntsIn ps = true := by
  unfold State.huntsIn
  rw [ha, hp]
  dsimp only
  rw [ho, hm]
  rfl

/-- The phase of a hunt, by its state (R111). -/
theorem Brx.phase_cases (b : Brx) (p : HuntPhase) : b.phase = some p ↔
    (b.hunt = .preamble ∧ p = .preamble) ∨ (b.hunt = .delimiter ∧ b.record.candidate = none ∧ p = .seeking) ∨
      (b.hunt = .delimiter ∧ b.record.candidate ≠ none ∧ p = .comparing) ∨ (b.hunt = .body ∧ b.record.expected = none ∧ p = .kind) ∨
      (b.hunt = .body ∧ b.record.expected ≠ none ∧ p = .rest) := by
  unfold Brx.phase
  rcases b.hunt with _ | _ | _ | _
  · simp
  · simp [eq_comm]
  · rcases b.record.candidate with _ | c <;> simp [eq_comm]
  · rcases b.record.expected with _ | n <;> simp [eq_comm]

/-! ### A sample by the state of the hunt -/

section Armed

variable {s} {id : Interval} (ha : s.ltu.armed = some id) (ho : s.intervalOver id = false)
include ha ho

/-- A sample in PREAMBLE (R113). -/
theorem State.laneSample_preamble (hh : s.brx.hunt = .preamble) (x : Sample) :
    s.laneSample x = heard s 1 (s.brx.preambleSample (s.ltu.since id.ref) x) := by
  unfold State.laneSample State.brxSample
  rw [ha]
  dsimp only
  rw [ho, hh]
  rfl

/-- A sample in DELIMITER before the break (R114). -/
theorem State.laneSample_seeking (hh : s.brx.hunt = .delimiter) (hc : s.brx.record.candidate = none) (x : Sample) :
    s.laneSample x = (s.seekBreak id (s.ltu.since id.ref) x).nextLineBit := by
  unfold State.laneSample State.brxSample
  rw [ha]
  dsimp only
  rw [ho, hh]
  dsimp only
  rw [hc]
  rfl

/-- A sample in DELIMITER from the break on (R114). -/
theorem State.laneSample_comparing (hh : s.brx.hunt = .delimiter) (hc : s.brx.record.candidate ≠ none) (x : Sample) :
    s.laneSample x = (s.compareDelimiter id x).nextLineBit := by
  obtain ⟨c, hc⟩ := Option.ne_none_iff_exists'.1 hc
  unfold State.laneSample State.brxSample
  rw [ha]
  dsimp only
  rw [ho, hh]
  dsimp only
  rw [hc]
  rfl

/-- A sample in BODY (R116). -/
theorem State.laneSample_body (hh : s.brx.hunt = .body) (x : Sample) : s.laneSample x = (s.bodySample id x).nextLineBit := by
  unfold State.laneSample State.brxSample
  rw [ha]
  dsimp only
  rw [ho, hh]
  rfl

end Armed

/-! ### Garbles -/

/-- The garbled mark is set in the round of the window it names, and the round alone changes (R34, R119). -/
theorem State.markGarbled_cases (id : Interval) :
    (∀ w, s.dsu.round = .opened w → id = .discovery w.ref →
      s.markGarbled id = s.setRound (.opened { w with garbled := true })) ∧
    ((∀ w, s.dsu.round = .opened w → id ≠ .discovery w.ref) → s.markGarbled id = s) := by
  unfold State.markGarbled
  rcases s.dsu.round with _ | e | w
  · exact ⟨nofun, fun _ => rfl⟩
  · exact ⟨nofun, fun _ => rfl⟩
  · refine ⟨fun w' hw hid => ?_, fun h => if_neg (h w rfl)⟩
    cases hw
    exact if_pos hid

/-- A line bit passes after the garbled mark as before it. -/
theorem State.markGarbled_nextLineBit (id : Interval) : (s.markGarbled id).nextLineBit = s.nextLineBit.markGarbled id := by
  unfold State.markGarbled
  rw [show s.nextLineBit.dsu = s.dsu from rfl]
  rcases s.dsu.round with _ | e | w
  · rfl
  · rfl
  · exact apply_ite State.nextLineBit _ _ _

/-- A garble found by a sample (R119). -/
theorem State.garble_heard (v : Bool) (r : HuntRecord) (id : Interval) :
    ((s.setBrx { s.brx with previous := some v, record := r }).garble id).nextLineBit = garbled s 1 id v :=
  State.markGarbled_nextLineBit _ id

/-! ### The preamble -/

theorem Brx.alternates_iff (b : Brx) (x : Sample) : b.alternates x = true ↔ b.previous = some (!x.value) := by
  unfold Brx.alternates
  rcases b.previous with _ | v
  · simp
  · cases v <;> cases x.value <;> simp

/-- The 32nd alternating sample recognizes the preamble (R113). -/
theorem Brx.preambleSample_recognized {b : Brx} {x : Sample} (hrun : b.run = 31) (hx : b.previous = some (!x.value)) (p : Int) :
    b.preambleSample p x = { b with
      hunt := .delimiter, run := 32, previous := some x.value
      record := { b.record.withPhase x with recognized := p, passed := 0, candidate := none, held := [] } } := by
  unfold Brx.preambleSample
  rw [(b.alternates_iff x).2 hx, hrun]
  rfl

/-- A sample that does not alternate begins the run anew (R113). -/
theorem Brx.preambleSample_restart {b : Brx} {x : Sample} (hx : ¬b.previous = some (!x.value)) (p : Int) :
    b.preambleSample p x = { b with run := 1, previous := some x.value, record := b.record.withPhase x } := by
  unfold Brx.preambleSample
  rw [Bool.eq_false_iff.2 fun h => hx ((b.alternates_iff x).1 h)]
  rfl

/-! ### The delimiter -/

/-- The 128th alternating sample after recognition is a garble (R114). -/
theorem State.seekBreak_limit {x : Sample} (hp : s.brx.record.passed = 127) (hx : s.brx.previous = some (!x.value)) (id : Interval)
    (p : Int) : s.seekBreak id p x = (s.setBrx { s.brx with previous := some x.value }).garble id := by
  unfold State.seekBreak
  dsimp only
  rw [(s.brx.alternates_iff x).2 hx, if_pos rfl, hp]
  exact if_neg (by decide)

/-- The break (R114). -/
theorem State.seekBreak_break {x : Sample} (hx : s.brx.previous = some x.value) (id : Interval) (p : Int) :
    s.seekBreak id p x =
      s.setBrx { s.brx with previous := some x.value, record := (s.brx.record.atBreak p x).withPhase x } := by
  have same : s.brx.alternates x = false := Bool.eq_false_iff.2 fun h => by
    have := hx.symm.trans ((s.brx.alternates_iff x).1 h)
    simp at this
  unfold State.seekBreak
  dsimp only
  rw [same]
  rfl

/-- The sixteenth sample held is compared with both forms (R114). -/
theorem State.compareDelimiter_last {x : Sample} (hl : s.brx.record.held.length = 15) (id : Interval) :
    let held := s.brx.record.held ++ [x.value]
    let h := { s.brx.record with held := held }
    (∀ conv, delimiterConv held = some conv → s.compareDelimiter id x =
      s.setBrx { s.brx with hunt := .body, previous := some x.value, record := h.matched conv }) ∧
    (delimiterConv held = none →
      s.compareDelimiter id x = (s.setBrx { s.brx with previous := some x.value, record := h }).garble id) := by
  have whole : ¬(s.brx.record.held ++ [x.value]).length < 16 := by simp [hl]
  unfold State.compareDelimiter
  dsimp only
  rw [if_neg whole]
  refine ⟨fun conv hc => ?_, fun hc => ?_⟩
  · rw [hc]
    rfl
  · rw [hc]

/-! ### The body -/

/-- The eighth sample makes a byte (R116). -/
theorem State.bodySample_byte {x : Sample} (hl : s.brx.record.bits.length = 7) (id : Interval) :
    s.bodySample id x = (s.setBrx { s.brx with previous := some x.value }).bodyByte id
      (byteOfSamples s.brx.record.conv (s.brx.record.bits ++ [x.value])) := by
  unfold State.bodySample
  dsimp only
  exact if_neg (by simp [hl])

/-- The kind byte (R117). -/
theorem State.bodyByte_kind (h : s.brx.record.expected = none) (id : Interval) (b : Byte) :
    (kindOf b = none → s.bodyByte id b = s.garble id) ∧
    (∀ kind, kindOf b = some kind → s.bodyByte id b = s.setBrx { s.brx with record := { s.brx.record with
      bits := [], bytes := s.brx.record.bytes ++ [b], expected := some (kind.payloadBytes + 2) } }) := by
  unfold State.bodyByte
  dsimp only
  rw [h]
  dsimp only
  refine ⟨fun hk => ?_, fun kind hk => ?_⟩
  · rw [hk]
  · rw [hk]

/-- The last byte of the body (R118). -/
theorem State.bodyByte_last (h : s.brx.record.expected = some 1) (id : Interval) (b : Byte) :
    let body := s.brx.record.bytes ++ [b]
    (kindOf (byteAt body 0) = none → s.bodyByte id b = s.garble id) ∧
    (∀ kind, kindOf (byteAt body 0) = some kind → s.bodyByte id b =
      s.completeBurst id kind { s.brx.record with bits := [], bytes := body, expected := some 1 }) := by
  unfold State.bodyByte
  dsimp only
  rw [h]
  dsimp only
  rw [if_neg (by decide)]
  refine ⟨fun hk => ?_, fun kind hk => ?_⟩
  · rw [hk]
  · rw [hk]

/-! ### Kinds -/

/-- The kind bytes accepted (R117). -/
theorem kindOf_eq_some (b : Byte) (kind : BurstKind) : kindOf b = some kind ↔
    (b.toNat = 16 ∧ kind = .hello) ∨ (b.toNat / 16 = 2 ∧ kind = .echo) ∨ (49 ≤ b.toNat ∧ b.toNat ≤ 51 ∧ kind = .status) := by
  unfold kindOf kindLow
  dsimp only
  split_ifs <;> cases kind <;>
    simp only [reduceCtorEq, Option.some.injEq, and_true, and_false, or_false, false_or, true_iff, false_iff] <;> omega

/-- The bytes that follow an accepted kind byte, its check among them (R117). -/
theorem kindOf_follow (b : Byte) : (kindOf b).map (fun kind => kind.payloadBytes + 2) =
    if b.toNat / 16 = 1 ∧ b.toNat % 16 = 0 then some 13 else if b.toNat / 16 = 2 then some 3
    else if b.toNat / 16 = 3 ∧ 1 ≤ b.toNat % 16 ∧ b.toNat % 16 ≤ 3 then some 6 else none := by
  unfold kindOf kindLow
  dsimp only
  by_cases h1 : b.toNat / 16 = 1
  · by_cases h0 : b.toNat % 16 = 0
    · simp [h1, h0, BurstKind.payloadBytes]
    · simp [h1, h0]
  · by_cases h2 : b.toNat / 16 = 2
    · simp [h2, BurstKind.payloadBytes]
    · by_cases h3 : b.toNat / 16 = 3
      · by_cases hl : 1 ≤ b.toNat % 16 ∧ b.toNat % 16 ≤ 3
        · simp [h3, hl, BurstKind.payloadBytes]
        · simp [h3, hl]
      · simp [h1, h2, h3]

end Sys2Proof.Machine
end

section
set_option Elab.async false
/-! The reception commands at their last sample (R113 to R122). -/

namespace Sys2Proof.Machine

open Sys2Proof.Safety

variable (s : State)

/-! ### The end of an interval -/

/-- Line bits from the start of a cycle (R92). -/
theorem Ltu.since_eq (l : Ltu) (c : Cycle) : l.since c = 160000 * (l.cycle - c).toInt + (l.offset : Int) := rfl

/-- The length of an OPEN window of an identity has run out (R103). -/
theorem State.quietLengthOver_iff (id : Interval) : s.quietLengthOver id = true ↔
    ∃ w, s.ltu.quiet = .opened w ∧ w.interval = id ∧ (w.length : Int) ≤ s.ltu.since w.cq := by
  unfold State.quietLengthOver
  rcases s.ltu.quiet with _ | w | w | w <;> simp

/-- No window has a slot's identity (R112). -/
theorem Window.interval_ne_slot (w : Window) (n : Nat) (ct : Cycle) (j : Nat) (i : RecIx) (o : Owner) :
    w.interval ≠ .slot n ct j i o := by
  unfold Window.interval
  cases w.purpose <;> nofun

/-- The end of an armed interval has come (R103, R105). -/
theorem State.intervalOver_iff (id : Interval) : s.intervalOver id = true ↔
    (∃ n ct j i o, id = .slot n ct j i o ∧ (s.arrivalEnd j : Int) ≤ s.ltu.since ct) ∨
      (∃ w, s.ltu.quiet = .opened w ∧ w.interval = id ∧ (w.length : Int) ≤ s.ltu.since w.cq) := by
  unfold State.intervalOver
  rcases id with cq | ⟨cq, i, a⟩ | ⟨n, ct, j, i, o⟩
  · simp [s.quietLengthOver_iff]
  · simp [s.quietLengthOver_iff]
  · simp [Window.interval_ne_slot]

/-- The arrival end of a slot in line bits, as an integer (R105). -/
theorem State.arrivalEnd_cast (j : Nat) : (s.arrivalEnd j : Int) =
    (s.header.targetLoop.toNat + s.header.spanStart.toNat + (j + 1) * s.header.slotLen.toNat : Int) := by
  unfold State.arrivalEnd State.targetLoop State.spanStart State.slotLen
  push_cast
  rfl

/-! ### The delimiter forms -/

/-- Sixteen samples of either form give its convention (R114). -/
theorem delimiterConv_form {xs : List Bool} (h : xs = straightDelimiter ∨ xs = crossedDelimiter) :
    delimiterConv xs = some (if xs = straightDelimiter then .straight else .crossed) := by
  unfold delimiterConv
  split
  · rfl
  · next hs => exact if_pos (h.resolve_left hs)

/-- Sixteen samples of neither form give none (R114). -/
theorem delimiterConv_none {xs : List Bool} (hs : xs ≠ straightDelimiter) (hc : xs ≠ crossedDelimiter) : delimiterConv xs = none := by
  unfold delimiterConv
  rw [if_neg hs, if_neg hc]

/-! ### The break -/

/-- What the break fixes: the candidate start, the last preamble bit and its phase (R114, R115). -/
theorem HuntRecord.atBreak_fields (h : HuntRecord) (p : Int) (x : Sample) :
    ((h.atBreak p x).withPhase x).candidate = some (if x.value then p - 3 else p) ∧
      ((h.atBreak p x).withPhase x).lineBit = (if x.value then p - 4 else p - 1) ∧
      ((h.atBreak p x).withPhase x).phase = h.phases.getD (if x.value then 3 else 0) 0 := by
  unfold HuntRecord.atBreak HuntRecord.withPhase
  cases x.value <;> exact ⟨rfl, rfl, rfl⟩

/-! ### Complete bursts -/

/-- The check of a complete burst agrees (R118). -/
theorem HuntRecord.checkOk_iff (h : HuntRecord) : h.checkOk = true ↔
    (crc16 (h.bytes.take (h.bytes.length - 2))).toNat = natLE (h.bytes.drop (h.bytes.length - 2)) :=
  decide_eq_true_iff

/-- The response time of a HELLO is in range (R118). -/
theorem respOk_iff (kind : BurstKind) (payload : List Byte) : respOk kind payload = true ↔
    (kind = .hello → 1024 ≤ helloResp payload ∧ helloResp payload ≤ 8191) := by
  unfold respOk
  cases kind <;> simp

/-- A burst that fails its check or its response time is a garble (R118). -/
theorem State.completeBurst_bad {kind : BurstKind} {h : HuntRecord} (hb : h.checkOk = true → respOk kind (h.checked.drop 1) ≠ true)
    (id : Interval) : s.completeBurst id kind h = s.garble id := by
  unfold State.completeBurst
  refine if_neg fun ok => ?_
  obtain ⟨hc, hr⟩ := (Bool.and_eq_true _ _).mp ok
  exact hb hc hr

/-- A burst that passes both ends the hunt and goes to the capture queue (R118). -/
theorem State.completeBurst_good {kind : BurstKind} {h : HuntRecord} (hc : h.checkOk = true) (hr : respOk kind (h.checked.drop 1) = true)
    (id : Interval) : s.completeBurst id kind h = s.rehunt.queueCapture (h.capture kind id) := by
  unfold State.completeBurst
  rw [hc, hr]
  rfl

/-- The sender of a burst is as its interval asks (R121). -/
theorem Interval.senderOk_iff (id : Interval) (line : Nat) :
    id.senderOk line = true ↔ ∀ n ct j i o, id = .slot n ct j i o → line = i.val + 1 := by
  unfold Interval.senderOk
  rcases id with cq | ⟨cq, i, a⟩ | ⟨n, ct, j, i, o⟩
  · simp
  · simp
  · rw [decide_eq_true_eq]
    refine ⟨fun h n' ct' j' i' o' e => ?_, fun h => h n ct j i o rfl⟩
    cases e
    exact h

/-- Where a valid burst goes (R120 to R122). -/
theorem State.queueCapture_cases (c : Capture) :
    let sender := ∀ n ct j i o, c.interval = .slot n ct j i o → (byteAt c.payload 0).toNat = i.val + 1
    (c.kind ≠ c.interval.expects → s.queueCapture c = s.count .strayBursts) ∧
    (c.kind = c.interval.expects → ¬sender → s.queueCapture c = s.count .wrongSender) ∧
    (c.kind = c.interval.expects → sender → 2 ≤ s.brx.queue.length → s.queueCapture c = s.count .captureOverruns) ∧
    (c.kind = c.interval.expects → sender → s.brx.queue.length < 2 →
      s.queueCapture c = s.setBrx { s.brx with queue := s.brx.queue ++ [c] }) := by
  have refused : ∀ {line}, c.interval.senderOk line = false ↔ ¬∀ n ct j i o, c.interval = .slot n ct j i o → line = i.val + 1 :=
    fun {line} => by rw [← Interval.senderOk_iff, Bool.not_eq_true]
  unfold State.queueCapture
  refine ⟨fun hk => if_pos hk, fun hk hs => ?_, fun hk hs hq => ?_, fun hk hs hq => ?_⟩
  · rw [if_neg (not_not.2 hk), if_pos (refused.2 hs)]
  · rw [if_neg (not_not.2 hk), if_neg fun h => refused.1 h hs]
    exact if_neg (Nat.not_lt.2 hq)
  · rw [if_neg (not_not.2 hk), if_neg fun h => refused.1 h hs]
    exact if_pos hq

/-- A line bit passes after a burst is queued as before it. -/
theorem State.queueCapture_nextLineBit (c : Capture) : (s.queueCapture c).nextLineBit = s.nextLineBit.queueCapture c := by
  unfold State.queueCapture
  rw [show s.nextLineBit.brx = s.brx from rfl]
  split
  · rfl
  · split
    · rfl
    · split <;> rfl

/-! ### A command's last sample -/

section Armed

variable {s} {id : Interval} (ha : s.ltu.armed = some id) (ho : s.intervalOver id = false) (x : Sample)
include ha ho

/-- Inside an armed interval a command whose phase the hunt is in takes the sample. -/
theorem State.feed_armed {p : HuntPhase} (hp : s.brx.phase = some p) {ps : List HuntPhase} (hm : ps.contains p = true) :
    State.feed ps [x] s = s.laneSample x :=
  s.feed_one (s.huntsIn_armed ha ho hp hm) x

/-- PREAMBLE_RECOGNIZED, one sample (R113). -/
theorem execPreambleRecognized_one (hh : s.brx.hunt = .preamble) :
    execPreambleRecognized [x] s = .next (heard s 1 (s.brx.preambleSample (s.ltu.since id.ref) x)) :=
  congrArg Host.Outcome.next ((State.feed_armed ha ho x ((s.brx.phase_cases _).2 (.inl ⟨hh, rfl⟩)) (by decide)).trans
    (State.laneSample_preamble ha ho hh x))

/-- NO_DELIMITER and DELIMITER_COMPARED, one sample before the break (R114). -/
theorem State.feed_seeking (hh : s.brx.hunt = .delimiter) (hc : s.brx.record.candidate = none) {ps : List HuntPhase}
    (hm : ps.contains .seeking = true) : State.feed ps [x] s = (s.seekBreak id (s.ltu.since id.ref) x).nextLineBit :=
  (State.feed_armed ha ho x ((s.brx.phase_cases _).2 (.inr (.inl ⟨hh, hc, rfl⟩))) hm).trans (State.laneSample_seeking ha ho hh hc x)

/-- DELIMITER_COMPARED, one sample from the break on (R114). -/
theorem execDelimiterCompared_comparing (hh : s.brx.hunt = .delimiter) (hc : s.brx.record.candidate ≠ none) :
    execDelimiterCompared [x] s = .next (s.compareDelimiter id x).nextLineBit :=
  congrArg Host.Outcome.next ((State.feed_armed ha ho x ((s.brx.phase_cases _).2 (.inr (.inr (.inl ⟨hh, hc, rfl⟩)))) (by decide)).trans
    (State.laneSample_comparing ha ho hh hc x))

/-- KIND_BYTE, its eighth sample (R116, R117). -/
theorem execKindByte_one (hh : s.brx.hunt = .body) (he : s.brx.record.expected = none) (hl : s.brx.record.bits.length = 7) :
    execKindByte [x] s = .next ((s.setBrx { s.brx with previous := some x.value }).bodyByte id
      (byteOfSamples s.brx.record.conv (s.brx.record.bits ++ [x.value]))).nextLineBit := by
  rw [← s.bodySample_byte hl]
  exact congrArg Host.Outcome.next ((State.feed_armed ha ho x ((s.brx.phase_cases _).2 (.inr (.inr (.inr (.inl ⟨hh, he, rfl⟩)))))
    (by decide)).trans (State.laneSample_body ha ho hh x))

/-- BURST_COMPLETE, the eighth sample of a byte (R116, R118). -/
theorem execBurstComplete_one (hh : s.brx.hunt = .body) (he : s.brx.record.expected ≠ none) (hl : s.brx.record.bits.length = 7) :
    execBurstComplete [x] s = .next ((s.setBrx { s.brx with previous := some x.value }).bodyByte id
      (byteOfSamples s.brx.record.conv (s.brx.record.bits ++ [x.value]))).nextLineBit := by
  rw [← s.bodySample_byte hl]
  exact congrArg Host.Outcome.next ((State.feed_armed ha ho x ((s.brx.phase_cases _).2 (.inr (.inr (.inr (.inr ⟨hh, he, rfl⟩)))))
    (by decide)).trans (State.laneSample_body ha ho hh x))

end Armed

/-- A command none of whose phases belongs to the state of the hunt changes nothing (log 17). -/
theorem State.feed_otherHunt {ps : List HuntPhase} (h : ∀ p ∈ ps, s.brx.phase ≠ some p) (xs : List Sample) :
    State.feed ps xs s = s := by
  refine s.feed_idle (s.huntsIn_of_phase fun p hp => ?_) xs
  rw [← Bool.not_eq_true, List.contains_iff_mem]
  exact fun hm => h p hm hp

end Sys2Proof.Machine
end

section
set_option Elab.async false
/-! The last byte of a burst and the reception commands settled (R113 to R122). -/

namespace Sys2Proof.Machine

open Sys2Proof.Safety

variable {s : State} {id : Interval} (ha : s.ltu.armed = some id) (ho : s.intervalOver id = false) (x : Sample)
include ha ho

/-- BURST_COMPLETE at the last check bit, with `h` the hunt record of the complete burst (R118). -/
theorem execBurstComplete_last (hh : s.brx.hunt = .body) (he : s.brx.record.expected = some 1) (hl : s.brx.record.bits.length = 7) :
    let body := s.brx.record.bytes ++ [byteOfSamples s.brx.record.conv (s.brx.record.bits ++ [x.value])]
    let h := { s.brx.record with bits := [], bytes := body, expected := some 1 }
    let u := heard s 1 { s.brx with hunt := .preamble, run := 0, previous := some x.value, record := HuntRecord.empty }
    (h.checkOk ≠ true → execBurstComplete [x] s = .next (garbled s 1 id x.value)) ∧
    (∀ kind, h.checkOk = true → kindOf (byteAt body 0) = some kind →
      (respOk kind (h.checked.drop 1) ≠ true → execBurstComplete [x] s = .next (garbled s 1 id x.value)) ∧
      (respOk kind (h.checked.drop 1) = true → execBurstComplete [x] s = .next (u.queueCapture (h.capture kind id)))) := by
  intro body h u
  have byte := execBurstComplete_one ha ho x hh (by rw [he]; nofun) hl
  obtain ⟨unknown, known⟩ := (s.setBrx { s.brx with previous := some x.value }).bodyByte_last he id
    (byteOfSamples s.brx.record.conv (s.brx.record.bits ++ [x.value]))
  have garble := s.garble_heard x.value s.brx.record id
  have complete : ∀ kind, kindOf (byteAt body 0) = some kind → execBurstComplete [x] s =
      .next (State.completeBurst (s.setBrx { s.brx with previous := some x.value }) id kind h).nextLineBit := fun kind hk =>
    byte.trans (congrArg (fun t : State => Host.Outcome.next t.nextLineBit) (known kind hk))
  refine ⟨fun hc => ?_, fun kind hc hk => ⟨fun hr => ?_, fun hr => ?_⟩⟩
  · rcases hk : kindOf (byteAt body 0) with _ | kind
    · rw [byte, unknown hk, garble]
    · rw [complete kind hk, State.completeBurst_bad _ (fun hc' => absurd hc' hc), garble]
  · rw [complete kind hk, State.completeBurst_bad _ (fun _ => hr), garble]
  · rw [complete kind hk, State.completeBurst_good _ hc hr, State.queueCapture_nextLineBit]
    rfl

end Sys2Proof.Machine

namespace Sys2Proof.Proofs

open Sys2Proof.Machine Sys2Proof.Safety

/-- Settles O42. -/
theorem huntSteps : Obligations.HuntSteps := by
  refine ⟨fun s n id v => ?_, fun s id => ?_, kindOf_eq_some, fun s id x ha ho => ?_, fun s xs ha => ?_⟩
  · obtain ⟨marked, unmarked⟩ := State.markGarbled_cases
      ((heard s n { s.brx with hunt := .preamble, run := 0, previous := some v, record := HuntRecord.empty }).count .garbledBursts) id
    refine ⟨fun w hw hid => congrArg State.dsu (marked w hw hid), fun h => ?_⟩
    have kept := congrArg State.dsu (unmarked h)
    exact kept
  · have ended := s.intervalOver_iff id
    simp only [State.arrivalEnd_cast, Ltu.since_eq] at ended
    exact ended
  · intro h p alternates
    have other : ∀ ps, (∀ q ∈ ps, s.brx.phase ≠ some q) → Host.Outcome.next (State.feed ps [x] s) = (.next s : Result) :=
      fun ps hps => congrArg _ (s.feed_otherHunt hps [x])
    refine ⟨fun hh hrun halt => ?_, fun hh halt => ?_, fun hh hc hp halt => ?_, fun hh hc hprev => ?_, fun hh hc hl => ?_,
      fun hh he hl => ?_, fun hh he hl => ?_, fun hh => ?_, fun hh => ?_, fun hh => ?_⟩
    · refine ⟨_, (execPreambleRecognized_one ha ho x hh).trans
        (congrArg (fun b => Host.Outcome.next (heard s 1 b)) (Brx.preambleSample_recognized hrun halt _)), rfl, rfl, rfl⟩
    · exact ⟨_, (execPreambleRecognized_one ha ho x hh).trans
        (congrArg (fun b => Host.Outcome.next (heard s 1 b)) (Brx.preambleSample_restart halt _))⟩
    · refine congrArg Host.Outcome.next ((State.feed_seeking ha ho x hh hc (by decide)).trans ?_)
      rw [s.seekBreak_limit hp halt]
      exact s.garble_heard x.value s.brx.record id
    · obtain ⟨candidate, lineBit, phase⟩ := h.atBreak_fields p x
      exact ⟨_, congrArg Host.Outcome.next ((State.feed_seeking ha ho x hh hc (by decide)).trans
        (congrArg State.nextLineBit (s.seekBreak_break hprev id _))), candidate, lineBit, phase⟩
    · obtain ⟨form, noForm⟩ := s.compareDelimiter_last hl id
      have compared := execDelimiterCompared_comparing ha ho x hh hc
      refine ⟨fun hform => ?_, fun hs hx => ?_⟩
      · rw [form _ (delimiterConv_form hform)] at compared
        exact ⟨_, compared, rfl, rfl, rfl, rfl⟩
      · rw [noForm (delimiterConv_none hs hx)] at compared
        exact compared.trans (congrArg Host.Outcome.next (s.garble_heard x.value _ id))
    · intro b high low follow
      obtain ⟨unknown, known⟩ := (s.setBrx { s.brx with previous := some x.value }).bodyByte_kind he id b
      have byte := execKindByte_one ha ho x hh he hl
      have follows : (kindOf b).map (fun kind => kind.payloadBytes + 2) = follow := kindOf_follow b
      refine ⟨fun n hn => ?_, fun hn => ?_⟩
      · obtain ⟨kind, hk, hkn⟩ := Option.map_eq_some_iff.1 (follows.trans hn)
        rw [known kind hk, hkn] at byte
        exact byte
      · rw [unknown (Option.map_eq_none_iff.1 (follows.trans hn))] at byte
        exact byte.trans (congrArg Host.Outcome.next (s.garble_heard x.value s.brx.record id))
    · intro body payload resp agrees wanted sender done u
      obtain ⟨bad, good⟩ := execBurstComplete_last ha ho x hh he hl
      refine ⟨fun hno => bad fun hc => hno ((HuntRecord.checkOk_iff _).1 hc), fun kind hyes hk => ?_⟩
      obtain ⟨late, valid⟩ := good kind ((HuntRecord.checkOk_iff _).2 hyes) hk
      refine ⟨fun hello out => late fun hr => ?_, fun hr => ?_⟩
      · obtain ⟨low, high⟩ := (respOk_iff kind payload).1 hr hello
        exact out.elim (fun h => absurd h (Nat.not_lt.2 low)) (fun h => absurd h (Nat.not_lt.2 high))
      · have queued := valid ((respOk_iff kind payload).2 hr)
        obtain ⟨stray, wrong, overrun, kept⟩ := u.queueCapture_cases
          { kind := kind, low := (byteAt body 0).toNat % 16, payload := payload, mark := h.mark, conv := h.conv, interval := id }
        exact ⟨fun hw => queued.trans (congrArg Host.Outcome.next (stray hw)),
          fun hw hs => queued.trans (congrArg Host.Outcome.next (wrong hw hs)),
          fun hw hs hq => queued.trans (congrArg Host.Outcome.next (overrun hw hs hq)),
          fun hw hs hq => queued.trans (congrArg Host.Outcome.next (kept hw hs hq))⟩
    · exact other [.preamble] (by simp [Brx.phase_cases, hh])
    · exact ⟨other [.seeking] (by simp [Brx.phase_cases, hh]), other [.seeking, .comparing] (by simp [Brx.phase_cases, hh])⟩
    · exact ⟨other [.kind] (by simp [Brx.phase_cases, hh]), other [.rest] (by simp [Brx.phase_cases, hh])⟩
  · have idle : ∀ ps, Host.Outcome.next (State.feed ps xs s) = (.next s : Result) := fun ps =>
      congrArg _ (s.feed_idle (s.huntsIn_disarmed ha ps) xs)
    exact ⟨idle _, idle _, idle _, idle _, idle _⟩

end Sys2Proof.Proofs
end

section
set_option Elab.async false
/-! ECHO_TAKE (R57, R66, R103, R123): the echo against the attempt, its sample place, and the window that ends with the last place filled. -/

namespace Sys2Proof.Machine

open Sys2Proof.Safety

variable (s : State)

/-! ### The captures of the Ranging Unit -/

/-- The captures that belong to the RGU (R123). -/
theorem Capture.isRanging_eq :
    Capture.isRanging = fun b => decide (b.kind = .echo ∨ (b.kind = .status ∧ b.low = 3)) := by
  funext b
  rw [Capture.isRanging, Bool.decide_or, Bool.decide_and]

/-- With no capture of an owner waiting, none is the oldest. -/
theorem State.oldestCapture_none {mine : Capture → Bool} (h : ∀ b ∈ s.brx.queue, mine b = false) : s.oldestCapture mine = none :=
  List.find?_eq_none.2 fun b hb => by simp [h b hb]

/-- ECHO_TAKE with no capture of the RGU waiting (log 1). -/
theorem execEchoTake_none (h : ∀ b ∈ s.brx.queue, b.isRanging = false) : execEchoTake s = .next s := by
  unfold execEchoTake
  rw [s.oldestCapture_none h]

/-- ECHO_TAKE with a capture of the RGU waiting (R123). -/
theorem execEchoTake_some {c : Capture} {before after : List Capture} (h : OldestIs s Capture.isRanging c before after) :
    execEchoTake s = if c.kind = .echo then .next ((taken s before after).handleEcho c) else .next s := by
  obtain ⟨found, left⟩ := s.oldestCapture_taken h
  unfold execEchoTake
  rw [found, ← left]

/-! ### The echo against the attempt -/

/-- The window of an attempt is the one a capture names (R112). -/
theorem Attempt.interval_eq_some (a : Attempt) (id : Interval) :
    a.interval = some id ↔ ∃ cq, a.ref = some cq ∧ id = .ranging cq a.index a.ident := by
  unfold Attempt.interval
  simp [eq_comm]

/-- An ECHO that names no open attempt's window is discarded (R66). -/
theorem State.handleEcho_stale {c : Capture} (h : ∀ a, s.rgu.attempt = some a → a.stage = .opened → ∀ cq, a.ref = some cq →
    c.interval ≠ .ranging cq a.index a.ident) : s.handleEcho c = s := by
  unfold State.handleEcho
  split
  · rfl
  · next a ha =>
    refine if_neg fun ⟨hopen, hid⟩ => ?_
    obtain ⟨cq, href, hc⟩ := (a.interval_eq_some _).1 hid
    exact h a ha hopen cq href hc

/-- An ECHO of the open attempt (R57). -/
theorem State.handleEcho_open {c : Capture} {a : Attempt} {cq : Cycle} (ha : s.rgu.attempt = some a) (ho : a.stage = .opened)
    (hr : a.ref = some cq) (hc : c.interval = .ranging cq a.index a.ident) : s.handleEcho c = s.echoInAttempt a c := by
  unfold State.handleEcho
  rw [ha]
  exact if_pos ⟨ho, (a.interval_eq_some _).2 ⟨cq, hr, hc⟩⟩

/-- What a capture makes of its sample place (R57). -/
theorem Place.take_eq (p : Place) (mark : Int) :
    p.take mark = if p.mark = none then { p with mark := some mark } else { p with doubled := true } := by
  unfold Place.take
  rcases p with ⟨_ | m, d⟩ <;> rfl

/-- The attempt with the place of an echo filled or marked doubled (R57). -/
def Attempt.withEcho (a : Attempt) (c : Capture) : Attempt :=
  { a with places := a.places.modify c.low (fun p => p.take c.mark) }

/-- The place of an echo is the one its index names (R57). -/
theorem Attempt.withEcho_eq {a : Attempt} {c : Capture} {p : Place} (hp : a.places[c.low]? = some p) :
    a.withEcho c = { a with
      places := a.places.set c.low (if p.mark = none then { p with mark := some c.mark } else { p with doubled := true }) } := by
  unfold Attempt.withEcho
  rw [List.modify_eq_set_getElem?, hp, ← Place.take_eq]
  rfl

/-- Every sample place of an attempt is filled (R57). -/
theorem Attempt.complete_iff (a : Attempt) : a.complete = true ↔ ∀ q ∈ a.places, q.mark ≠ none := by
  unfold Attempt.complete
  simp [Option.isSome_iff_ne_none]

/-- The checks of an echo in order (R57). -/
theorem State.echoInAttempt_cases (a : Attempt) (c : Capture) :
    let lineRight := (byteAt c.payload 0).toNat = (s.record a.index).line
    (a.count ≤ c.low → s.echoInAttempt a c = s.count .strayBursts) ∧
    (c.low < a.count → ¬lineRight → s.echoInAttempt a c = s.count .wrongSender) ∧
    (c.low < a.count → lineRight → c.conv ≠ (s.record a.index).conv → s.echoInAttempt a c = s) ∧
    (c.low < a.count → lineRight → c.conv = (s.record a.index).conv → s.echoInAttempt a c =
      if (a.withEcho c).complete then (s.setAttempt (some { a.withEcho c with stage := .judging })).endFilled c.interval
      else s.setAttempt (some (a.withEcho c))) := by
  unfold State.echoInAttempt
  refine ⟨fun h => if_pos h, fun h hl => ?_, fun h hl hc => ?_, fun h hl hc => ?_⟩ <;> rw [if_neg (Nat.not_le.2 h)]
  · exact if_pos hl
  · rw [if_neg (not_not.2 hl)]
    exact if_pos hc
  · rw [if_neg (not_not.2 hl), if_neg (not_not.2 hc)]
    rfl

/-! ### The end of a window -/

/-- An OPEN window ends (R103): the arm line drops if it is up for it, and DONE is sent. -/
theorem State.endWindow_eq (w : Window) :
    s.endWindow w = { s with
      ltu := { s.ltu with quiet := .idle, armed := if s.ltu.armed = some w.interval then none else s.ltu.armed }
      brx := if s.ltu.armed = some w.interval then disarmed s.brx else s.brx
      links := { s.links with sched := s.links.sched ++ [.done] } } := by
  unfold State.endWindow State.disarmFor
  split <;> rfl

/-- The window of the filled attempt ends, if it is OPEN (R57, R103). -/
theorem State.endFilled_cases (id : Interval) :
    (∀ w, s.ltu.quiet = .opened w → w.interval = id → s.endFilled id = s.endWindow w) ∧
    ((∀ w, s.ltu.quiet = .opened w → w.interval ≠ id) → s.endFilled id = s) := by
  unfold State.endFilled
  rcases s.ltu.quiet with _ | q | q | q
  · exact ⟨nofun, fun _ => rfl⟩
  · exact ⟨nofun, fun _ => rfl⟩
  · exact ⟨nofun, fun _ => rfl⟩
  · refine ⟨fun w hw hid => ?_, fun h => if_neg (h q rfl)⟩
    cases hw
    exact if_pos hid

end Sys2Proof.Machine

namespace Sys2Proof.Proofs

open Sys2Proof.Machine Sys2Proof.Safety

/-- Settles O48. -/
theorem echoTaken : Obligations.EchoTaken := by
  unfold Obligations.EchoTaken
  intro mine
  have owned : mine = Capture.isRanging := Capture.isRanging_eq.symm
  clear_value mine
  subst owned
  refine ⟨execEchoTake_none, fun s c before after hold => ?_⟩
  intro u
  have handled := execEchoTake_some s hold
  refine ⟨fun hk => handled.trans (if_neg hk), fun hk => ?_⟩
  rw [if_pos hk] at handled
  refine ⟨fun h => handled.trans (congrArg Host.Outcome.next (u.handleEcho_stale h)), fun a cq ha ho hr hc => ?_⟩
  intro r lineRight
  rw [State.handleEcho_open (taken s before after) ha ho hr hc] at handled
  obtain ⟨outside, wrong, discarded, filled⟩ := u.echoInAttempt_cases a c
  refine ⟨fun h => handled.trans (congrArg _ (outside h)), fun h hl => handled.trans (congrArg _ (wrong h hl)),
    fun h hl hv => handled.trans (congrArg _ (discarded h hl hv)), fun p h hl hv hp => ?_⟩
  intro p' a' v
  have echo : a.withEcho c = a' := Attempt.withEcho_eq hp
  have outcome := handled.trans (congrArg Host.Outcome.next (filled h hl hv))
  rw [echo] at outcome
  refine ⟨fun ⟨q, hq, hempty⟩ => ?_, fun hfull => ?_⟩
  · rw [if_neg fun hcomplete => a'.complete_iff.1 hcomplete q hq hempty] at outcome
    exact outcome
  · rw [if_pos (a'.complete_iff.2 hfull)] at outcome
    obtain ⟨ends, stands⟩ := v.endFilled_cases c.interval
    exact ⟨fun w hw hid => outcome.trans (congrArg _ ((ends w hw hid).trans (v.endWindow_eq w))),
      fun hnone => outcome.trans (congrArg _ (stands hnone))⟩

end Sys2Proof.Proofs
end

section
set_option Elab.async false
/-! ATTEMPT_JUDGE (R58 to R65, R123): when an attempt is judged, the loop times of its samples, their spread and average, and the outcome. -/

namespace Sys2Proof.Machine

open Sys2Proof.Safety

variable (s : State)

/-! ### When an attempt is judged -/

/-- The window of an interval is OPEN (R103). -/
theorem State.windowRuns_iff (id : Interval) : s.windowRuns id = true ↔ ∃ w, s.ltu.quiet = .opened w ∧ w.interval = id := by
  unfold State.windowRuns
  rcases s.ltu.quiet with _ | w | w | w <;> simp

/-- The capture queue holds an entry that names an interval (R58). -/
theorem State.captured_iff (id : Interval) : s.captured id = true ↔ ∃ x ∈ s.brx.queue, x.interval = id := by
  unfold State.captured
  simp

/-- An attempt may be judged (R57, R58, R123). -/
theorem State.attemptFinished_iff (a : Attempt) :
    let uncaptured := ∀ cq, a.ref = some cq → ∀ x ∈ s.brx.queue, x.interval ≠ .ranging cq a.index a.ident
    s.attemptFinished a = true ↔ (a.stage = .judging ∧ uncaptured) ∨ (a.stage = .opened ∧ uncaptured ∧ ∃ cq, a.ref = some cq ∧
      ∀ w, s.ltu.quiet = .opened w → w.interval ≠ .ranging cq a.index a.ident) := by
  have waits : ∀ id, s.captured id = false ↔ ∀ x ∈ s.brx.queue, x.interval ≠ id := fun id => by
    rw [← Bool.not_eq_true, s.captured_iff]
    simp
  have runs : ∀ id, s.windowRuns id = false ↔ ∀ w, s.ltu.quiet = .opened w → w.interval ≠ id := fun id => by
    rw [← Bool.not_eq_true, s.windowRuns_iff]
    simp
  unfold State.attemptFinished Attempt.interval
  rcases a.stage with _ | _ | _
  · simp
  · rcases a.ref with _ | cq
    · simp
    · simp [waits, runs, and_comm]
  · rcases a.ref with _ | cq
    · simp
    · simp [waits]

/-- ATTEMPT_JUDGE with no attempt (log 1). -/
theorem execAttemptJudge_none (h : s.rgu.attempt = none) : execAttemptJudge s = .next s := by
  unfold execAttemptJudge
  rw [h]

/-- ATTEMPT_JUDGE with an attempt (R58). -/
theorem execAttemptJudge_some {a : Attempt} (h : s.rgu.attempt = some a) :
    execAttemptJudge s = if s.attemptFinished a then .next (s.judge a) else .next s := by
  unfold execAttemptJudge
  rw [h]

/-! ### Loop times -/

/-- The sample place that holds a mark alone (R57). -/
def Place.marked (m : Int) : Place := { mark := some m, doubled := false }

/-- A place empty or doubled leaves no loop times (R59). -/
theorem loopTimes_none {ps : List Place} (h : ∃ p ∈ ps, p.mark = none ∨ p.doubled = true) : ∀ i, loopTimes i ps = none := by
  obtain ⟨p, hp, hbad⟩ := h
  induction ps with
  | nil => cases hp
  | cons q qs ih =>
    intro i
    unfold loopTimes
    rcases List.mem_cons.1 hp with rfl | hp
    · rcases p with ⟨_ | m, d⟩
      · rfl
      · obtain rfl : d = true := hbad.resolve_left nofun
        rcases loopTimes (i + 1) qs with _ | rest <;> rfl
    · rw [ih hp (i + 1)]
      rcases q.mark with _ | m <;> rfl

/-- The loop times of marks, one for each echo (R59). -/
theorem loopTimes_marked (marks : List Int) : ∀ i, loopTimes i (marks.map Place.marked) =
    some ((marks.zipIdx i).map (fun (m, k) => m - 1024 - 16384 * (k : Int))) := by
  induction marks with
  | nil => exact fun _ => rfl
  | cons m ms ih =>
    intro i
    rw [List.map_cons, loopTimes, ih (i + 1)]
    simp [Place.marked, Config.preambleSixteenths, Config.echoPitch, mul_comm]

/-! ### The spread -/

/-- The spread exceeds a limit where two samples lie farther apart (R60). -/
theorem sampleSpread_exceeds (limit : Nat) (xs : List Int) :
    (limit : Int) < sampleSpread xs ↔ ∃ x ∈ xs, ∃ y ∈ xs, (limit : Int) < x - y := by
  rcases xs with _ | ⟨a, as⟩
  · simp [sampleSpread]
  · obtain ⟨maxMem, maxGe⟩ := List.max?_eq_some_iff.1 (List.max?_cons' (x := a) (xs := as))
    obtain ⟨minMem, minLe⟩ := List.min?_eq_some_iff.1 (List.min?_cons' (x := a) (xs := as))
    refine ⟨fun h => ⟨_, maxMem, _, minMem, h⟩, fun ⟨x, hx, y, hy, h⟩ => ?_⟩
    have hmax := maxGe x hx
    have hmin := minLe y hy
    show (limit : Int) < as.foldl max a - as.foldl min a
    omega

/-! ### The average -/

/-- The averaged loop time is the sum over N, halves rounded up (R61). -/
theorem averageLoop_eq {xs : List Int} (h : xs ≠ []) {l : Int} (lo : (xs.length : Int) * l ≤ xs.sum + (xs.length : Int) / 2)
    (hi : xs.sum + (xs.length : Int) / 2 < (xs.length : Int) * (l + 1)) : averageLoop xs = l := by
  have pos : (0 : Int) < xs.length := by
    have := List.length_pos_iff.2 h
    omega
  unfold averageLoop
  push_cast
  rw [Int.ediv_eq_iff_of_pos pos]
  constructor <;> linarith

/-! ### The outcome -/

/-- The checks of an attempt with every place filled once, in order (R60 to R64). -/
theorem judgeSamples_marked {marks : List Int} (hm : marks ≠ []) (limit target resp : Nat) :
    let loops := marks.zipIdx.map (fun (m, i) => m - 1024 - 16384 * (i : Int))
    let n : Int := marks.length
    let outcome := judgeSamples (marks.map Place.marked) limit (16 * target) resp
    ((∃ x ∈ loops, ∃ y ∈ loops, (limit : Int) < x - y) → outcome = .failed .spread) ∧
    ((∀ x ∈ loops, ∀ y ∈ loops, x - y ≤ (limit : Int)) →
      ∀ l : Int, n * l ≤ loops.sum + n / 2 → loops.sum + n / 2 < n * (l + 1) →
        (16 * (target : Int) < l → outcome = .reach) ∧
        (l ≤ 16 * (target : Int) → l < 16 * (resp : Int) → outcome = .failed .early) ∧
        (l ≤ 16 * (target : Int) → 16 * (resp : Int) ≤ l →
          outcome = .success l.toNat ((16 * (target : Int) - l) / 16).toNat ((16 * (target : Int) - l) % 16).toNat)) := by
  intro loops n outcome
  have times : loopTimes 0 (marks.map Place.marked) = some loops := loopTimes_marked marks 0
  have exceeds := sampleSpread_exceeds limit loops
  have judged : outcome = if (limit : Int) < sampleSpread loops then .failed .spread
      else if ((16 * target : Nat) : Int) < averageLoop loops then .reach
      else if averageLoop loops < 16 * (resp : Int) then .failed .early
      else .success (averageLoop loops).toNat ((16 * target - (averageLoop loops).toNat) / 16)
        ((16 * target - (averageLoop loops).toNat) % 16) := by
    show judgeSamples _ _ _ _ = _
    unfold judgeSamples
    rw [times]
  refine ⟨fun h => judged.trans (if_pos (exceeds.2 h)), fun hspread l lo hi => ?_⟩
  rw [if_neg fun h => by
    obtain ⟨x, hx, y, hy, hxy⟩ := exceeds.1 h
    exact absurd (hspread x hx y hy) (by omega)] at judged
  have len : loops.length = marks.length := by simp [loops]
  have average : averageLoop loops = l := averageLoop_eq (by rw [← List.length_pos_iff, len]; exact List.length_pos_iff.2 hm)
    (by rw [len]; exact lo) (by rw [len]; exact hi)
  rw [average] at judged
  refine ⟨fun h => judged.trans (if_pos (by omega)), fun h hresp => ?_, fun h hresp => ?_⟩ <;> rw [if_neg (by omega)] at judged
  · exact judged.trans (if_pos hresp)
  · rw [judged, if_neg (by omega)]
    congr 1 <;> omega

end Sys2Proof.Machine

namespace Sys2Proof.Proofs

open Sys2Proof.Machine Sys2Proof.Safety

/-- Settles O49. -/
theorem attemptJudge : Obligations.AttemptJudge := by
  intro s
  refine ⟨execAttemptJudge_none s, fun a ha => ?_⟩
  intro uncaptured finished ends target resp
  have ready := s.attemptFinished_iff a
  have judged : exec .attemptJudge s = _ := execAttemptJudge_some s ha
  refine ⟨fun h => judged.trans (if_neg fun hf => h (ready.1 hf)), fun h => ?_⟩
  have closed : ∀ o, judgeSamples a.places s.header.spreadLimit.toNat (16 * s.targetLoop) (s.record a.index).resp = o →
      ends o o.counter := by
    rintro _ rfl
    exact judged.trans (if_pos (ready.2 h))
  refine ⟨fun hmiss => closed (.failed .miss) ?_, fun marks hm hplaces => ?_⟩
  · unfold judgeSamples
    rw [loopTimes_none hmiss]
  · intro loops n
    have outcome := judgeSamples_marked hm s.header.spreadLimit.toNat s.targetLoop (s.record a.index).resp
    rw [show marks.map Place.marked = a.places from hplaces.symm] at outcome
    obtain ⟨spread, within⟩ := outcome
    refine ⟨fun hs => closed (.failed .spread) (spread hs), fun hs l lo hi => ?_⟩
    obtain ⟨reach, early, success⟩ := within hs l lo hi
    exact ⟨fun h => closed .reach (reach h), fun h hr => closed (.failed .early) (early h hr),
      fun h hr => closed (.success _ _ _) (success h hr)⟩

end Sys2Proof.Proofs
end

section
set_option Elab.async false
/-! SETTLE_REPLY (R70, R72, R73, R107, R123): the ask a reply answers, the booking answered, the average deviation and the decision. -/

namespace Sys2Proof.Machine

open Sys2Proof.Safety

variable (s : State)

/-! ### The ask a reply answers -/

/-- SETTLE_REPLY with no capture of the RGU waiting (log 1). -/
theorem execSettleReply_none (h : ∀ b ∈ s.brx.queue, b.isRanging = false) : execSettleReply s = .next s := by
  unfold execSettleReply
  rw [s.oldestCapture_none h]

/-- SETTLE_REPLY with a capture of the RGU waiting (R123): it is an ECHO, or a SETTLE. -/
theorem execSettleReply_some {c : Capture} {before after : List Capture} (h : OldestIs s Capture.isRanging c before after) :
    (c.kind = .echo → execSettleReply s = .next s) ∧
    (c.kind ≠ .echo → execSettleReply s = .next ((taken s before after).handleSettle c)) := by
  obtain ⟨found, left⟩ := s.oldestCapture_taken h
  obtain ⟨-, owned, -⟩ := h
  rw [Capture.isRanging_eq, decide_eq_true_eq] at owned
  unfold execSettleReply
  rw [found, ← left]
  refine ⟨fun hk => if_neg (by simp [hk]), fun hk => ?_⟩
  obtain ⟨hstatus, -⟩ := owned.resolve_left hk
  exact if_pos hstatus

/-- A settle state is OUTSTANDING under an interval identity (R67). -/
def Settle.awaits (x : Settle) (n : Nat) : Prop := ∃ ct j, x.stage = .outstanding ct j n

/-- The lowest record whose ask is OUTSTANDING under an interval identity (R70). -/
theorem State.askOutstanding_eq_some (n : Nat) (i : RecIx) : s.askOutstanding n = some i ↔
    (∃ x, s.settle i = some x ∧ x.awaits n) ∧ ∀ k < i, ∀ y, s.settle k = some y → ¬y.awaits n := by
  have awaiting : ∀ k : RecIx, (match s.settle k with
      | some ⟨_, _, _, .outstanding _ _ m, _⟩ => decide (m = n)
      | _ => false) = true ↔ ∃ x, s.settle k = some x ∧ x.awaits n := fun k => by
    unfold Settle.awaits
    rcases s.settle k with _ | ⟨f, m, t, _ | ⟨ct, j, n'⟩ | _ | _, r⟩ <;> simp
  unfold State.askOutstanding allRecords
  rw [← Fin.find?_eq_find?_finRange]
  refine Fin.find?_eq_some_iff.trans (and_congr (awaiting i) (forall₂_congr fun k _ => ?_))
  rw [← Bool.not_eq_true]
  exact (not_congr (awaiting k)).trans (by simp only [not_exists, not_and])

/-- No ask is OUTSTANDING under an interval identity (R70). -/
theorem State.askOutstanding_eq_none {n : Nat} (h : ∀ k y, s.settle k = some y → ¬y.awaits n) : s.askOutstanding n = none := by
  refine Option.eq_none_iff_forall_ne_some.2 fun i hi => ?_
  obtain ⟨⟨x, hx, hw⟩, -⟩ := (s.askOutstanding_eq_some n i).1 hi
  exact h i x hx hw

/-- A SETTLE whose slot no ask is OUTSTANDING for is a stray (R70). -/
theorem State.handleSettle_stray {c : Capture}
    (h : ∀ n ct j i o, c.interval = .slot n ct j i o → ∀ k y, s.settle k = some y → ¬y.awaits n) :
    s.handleSettle c = s.count .strayBursts := by
  have none : c.slotIdent.bind s.askOutstanding = none := by
    unfold Capture.slotIdent
    rcases hc : c.interval with cq | ⟨cq, i, a⟩ | ⟨n, ct, j, i, o⟩
    · rfl
    · rfl
    · exact s.askOutstanding_eq_none (h n ct j i o hc)
  unfold State.handleSettle
  rw [none]

/-- A SETTLE of an OUTSTANDING ask (R70): one of another convention is discarded, any other answers the booking. -/
theorem State.handleSettle_asked {c : Capture} {n j : Nat} {ct : Cycle} {k i : RecIx} {o : Owner} {x : Settle}
    (hc : c.interval = .slot n ct j k o) (hx : s.settle i = some x) (hs : x.stage = .outstanding ct j n)
    (hlow : ∀ m < i, ∀ y, s.settle m = some y → ¬y.awaits n) :
    s.handleSettle c = if c.conv ≠ (s.record i).conv then s else s.settleReply i x n j c := by
  have asked : c.slotIdent.bind s.askOutstanding = some i := by
    unfold Capture.slotIdent
    rw [hc]
    exact (s.askOutstanding_eq_some n i).2 ⟨⟨x, hx, ct, j, hs⟩, hlow⟩
  unfold State.handleSettle
  rw [asked]
  dsimp only
  rw [hx]
  dsimp only
  rw [hs]

/-! ### The booking answered -/

/-- The booking under an interval identity becomes a void, the arm line dropping if it is up for it (R107). -/
theorem State.voidIdent_eq (n : Nat) : s.voidIdent n = answered s n := by
  have gone : s.armedAmong (fun e => e.hasIdent n) = s.ltu.map.any (fun e => e.hasIdent n && decide (s.ltu.armed = e.interval)) := by
    unfold State.armedAmong
    rcases s.ltu.armed with _ | id
    · refine (List.any_eq_false.2 fun e _ => ?_).symm
      unfold Slot.hasIdent Slot.interval
      rcases e.use with ⟨i, o, m⟩ | _ <;> simp
    · simp only [eq_comm]
  unfold State.voidIdent State.voidSlots
  dsimp only
  rw [gone]
  unfold answered
  cases s.ltu.map.any (fun e => e.hasIdent n && decide (s.ltu.armed = e.interval)) <;> rfl

/-! ### The average and the decision -/

/-- The average deviation is the sum over K, halves rounded away from zero (R72). -/
theorem averageDeviation_eq {total avg : Int} {k : Nat} (habs : avg.natAbs = (total.natAbs + k / 2) / k) (hpos : 0 < total → 0 ≤ avg)
    (hneg : total < 0 → avg ≤ 0) (hzero : total = 0 → avg = 0) : averageDeviation total k = avg := by
  unfold averageDeviation
  rw [← habs]
  obtain h | h | h := lt_trichotomy total 0
  · have := hneg h
    rw [Int.sign_eq_neg_one_of_neg h]
    omega
  · rw [h, hzero h]
    rfl
  · have := hpos h
    rw [Int.sign_eq_one_of_pos h]
    omega

/-- The trimmed equalization is clamped into 0 to its bound, and the clamp acted where it changed it (R73). -/
theorem trimmed_eq (eq16 target16 : Nat) (avg : Int) :
    let x : Int := (eq16 : Int) - avg
    let y : Int := max 0 (min x target16)
    trimmed eq16 avg target16 = (y.toNat, decide (y ≠ x)) := by
  intro x y
  unfold trimmed
  dsimp only
  split_ifs with low high <;> refine Prod.ext ?_ ?_ <;> simp only [true_eq_decide_iff, false_eq_decide_iff] <;> omega

/-- The decision of a settle sequence (R72, R73). -/
theorem decideSettle_cases (avg : Int) (tol : Nat) (trimSent : Bool) (eq16 target16 : Nat) :
    (avg.natAbs ≤ tol → decideSettle avg tol trimSent eq16 target16 = (.pass avg, .decided)) ∧
    (tol < avg.natAbs → avg.natAbs ≤ 4 * tol → trimSent = false →
      let x : Int := (eq16 : Int) - avg
      let y : Int := max 0 (min x target16)
      decideSettle avg tol trimSent eq16 target16 = (.trim avg (y / 16).toNat (y % 16).toNat (decide (y ≠ x)), .trimming)) ∧
    (tol < avg.natAbs → trimSent = true ∨ 4 * tol < avg.natAbs →
      decideSettle avg tol trimSent eq16 target16 = (.reRange (some avg), .decided)) := by
  unfold decideSettle
  refine ⟨fun h => if_pos h, fun h h4 ht => ?_, fun h hr => ?_⟩ <;> rw [if_neg (Nat.not_le.2 h)]
  · intro x y
    have whole : (y.toNat / 16 = (y / 16).toNat) ∧ (y.toNat % 16 = (y % 16).toNat) := by omega
    rw [if_pos ⟨h4, ht⟩, trimmed_eq]
    dsimp only
    rw [whole.1, whole.2]
  · refine if_neg fun ⟨h4, ht⟩ => ?_
    exact hr.elim (fun hs => by rw [hs] at ht; cases ht) (fun hs => absurd h4 (Nat.not_le.2 hs))

/-! ### An accepted reply -/

/-- A settle outcome on its way (R74). -/
theorem State.reportSettle_eq (i : RecIx) (x : Settle) (o : SettleOutcome) (stage : SettleStage) :
    s.reportSettle i x o stage = { s with
      rgu := { s.rgu with
        settles := s.rgu.settles.set i (some { x with stage := stage, report := some o })
        settleReports := s.rgu.settleReports ++ [i] } } := rfl

/-- An accepted SETTLE reply (R70, R72). -/
theorem State.settleReply_cases (i : RecIx) (x : Settle) (n j : Nat) (c : Capture) :
    let got := natLE ((c.payload.drop 2).take 2)
    let x' : Settle := { x with found := x.found + 1, sum := x.sum + (c.mark - 16 * (s.expectedDelimiter j : Int)) }
    let d := decideSettle (averageDeviation x'.sum (s.record i).settleCount.toNat) s.header.tol.toNat (s.record i).trimSent
      (16 * (s.record i).eqCoarse + (s.record i).eqFine) (16 * s.targetLoop)
    (got ≠ s.expectedSum i → s.settleReply i x n j c = (answered s n).reportSettle i x .sumMismatch .decided) ∧
    (got = s.expectedSum i → x.found + 1 < (s.record i).settleCount.toNat →
      s.settleReply i x n j c = (answered s n).askAgain i x') ∧
    (got = s.expectedSum i → (s.record i).settleCount.toNat ≤ x.found + 1 →
      s.settleReply i x n j c = (answered s n).reportSettle i x' d.1 d.2) := by
  intro got x' d
  unfold State.settleReply
  rw [s.voidIdent_eq]
  refine ⟨fun h => if_pos h, fun h hk => ?_, fun h hk => ?_⟩ <;> refine (if_neg (not_not.2 h)).trans ?_
  · exact if_neg (Nat.not_le.2 hk)
  · exact if_pos hk

end Sys2Proof.Machine

namespace Sys2Proof.Proofs

open Sys2Proof.Machine Sys2Proof.Safety

/-- Settles O51. -/
theorem settleReply : Obligations.SettleReply := by
  unfold Obligations.SettleReply
  intro mine
  have owned : mine = Capture.isRanging := Capture.isRanging_eq.symm
  clear_value mine
  subst owned
  refine ⟨execSettleReply_none, fun s c before after hold => ?_⟩
  intro u
  obtain ⟨echo, settle⟩ := execSettleReply_some s hold
  have unasked : ∀ {n : Nat} {y : Settle}, (∀ ct j, y.stage ≠ .outstanding ct j n) → ¬y.awaits n :=
    fun h ⟨ct, j, hs⟩ => h ct j hs
  refine ⟨echo, fun hk h => ?_, fun n ct j k o i x hk hc hx hs hlow => ?_⟩
  · exact (settle hk).trans (congrArg Host.Outcome.next (u.handleSettle_stray fun n ct j i o hc k y hy =>
      unasked fun ct' j' => h n ct j i o hc k y ct' j' hy))
  · intro r v want got due total x' count tol reports
    have handled := settle hk
    rw [State.handleSettle_asked (taken s before after) hc hx hs fun m hm y hy => unasked fun ct' j' => hlow m hm y ct' j' hy] at handled
    refine ⟨fun hv => handled.trans (congrArg _ (if_pos hv)), ?_⟩
    obtain ⟨wrong, again, decided⟩ := u.settleReply_cases i x n j c
    have accepted : c.conv = r.conv → exec .settleReply s = .next (u.settleReply i x n j c) := fun hv =>
      handled.trans (congrArg _ (if_neg (not_not.2 hv)))
    refine ⟨fun hv hw => (accepted hv).trans (congrArg _ (wrong hw)), fun hv hw hf => (accepted hv).trans (congrArg _ (again hw hf)),
      fun hv hw hf avg habs hpos hneg hzero => ?_⟩
    have average : averageDeviation total count = avg := averageDeviation_eq habs hpos hneg hzero
    have reported : ∀ y st, decideSettle avg tol r.trimSent (16 * r.eqCoarse + r.eqFine) (16 * s.targetLoop) = (y, st) →
        reports x' y st := by
      intro y st hd
      rw [← average] at hd
      have stages := congrArg (fun d => (answered u n).reportSettle i x' d.1 d.2) hd
      exact (accepted hv).trans (congrArg _ ((decided hw hf).trans stages))
    obtain ⟨pass, trim, reRange⟩ := decideSettle_cases avg tol r.trimSent (16 * r.eqCoarse + r.eqFine) (16 * s.targetLoop)
    exact ⟨fun h => reported _ _ (pass h), fun h h4 ht => reported _ _ (trim h h4 ht), fun h hr => reported _ _ (reRange h hr)⟩

end Sys2Proof.Proofs
end

section
set_option Elab.async false
/-! SLOT_ARRIVAL_END and SLOT_END_REPORT (R71, R87, R107, R108, R110): the entry of a slot, its freeing, and the owner told. -/

namespace Sys2Proof.Machine

open Sys2Proof.Safety

variable (s : State)

/-! ### The entry of a slot -/

/-- The entry found for a slot is the slot's (R105). -/
theorem State.slotAt_place {ct : Cycle} {j : Nat} {e : Slot} (h : s.slotAt ct j = some e) : e.ct = ct ∧ e.j = j := by
  have place := List.find?_some h
  simpa using place

/-- The arrival end of a slot has passed (R108). -/
theorem State.slotOver_iff (ct : Cycle) (j : Nat) : s.slotOver ct j = true ↔
    (s.header.targetLoop.toNat + s.header.spanStart.toNat + (j + 1) * s.header.slotLen.toNat : Int)
      ≤ 160000 * (s.ltu.cycle - ct).toInt + (s.ltu.offset : Int) := by
  rw [← s.arrivalEnd_cast j, ← Ltu.since_eq]
  exact decide_eq_true_iff

/-- The wait of R108 is over for an entry. -/
theorem State.slotJudged_iff (e : Slot) : s.slotJudged e = true ↔
    s.slotOver e.ct e.j = true ∧ ∀ i o n, e.use = .booked i o n → ∀ x ∈ s.brx.queue, x.interval ≠ .slot n e.ct e.j i o := by
  unfold State.slotJudged Slot.interval
  rw [Bool.and_eq_true]
  refine and_congr_right fun _ => ?_
  rcases e.use with ⟨i, o, n⟩ | _
  · dsimp only
    rw [Bool.not_eq_true', ← Bool.not_eq_true, s.captured_iff]
    refine ⟨fun h i' o' n' he => ?_, fun h ⟨x, hx, hid⟩ => h i o n rfl x hx hid⟩
    cases he
    exact fun x hx hid => h ⟨x, hx, hid⟩
  · simp

/-- SLOT_ARRIVAL_END and SLOT_END_REPORT of a free slot, or before the arrival end (log 1). -/
theorem execSlot_idle {ct : Cycle} {j : Fin 8} (h : s.slotAt ct j.val = none ∨ s.slotOver ct j.val = false) :
    execSlotArrivalEnd ct j s = .next s ∧ execSlotEndReport ct j s = .next s := by
  unfold execSlotArrivalEnd execSlotEndReport
  rcases hat : s.slotAt ct j.val with _ | e
  · exact ⟨rfl, rfl⟩
  · have early : s.slotOver ct j.val = false := h.resolve_left (by rw [hat]; nofun)
    obtain ⟨hct, hj⟩ := s.slotAt_place hat
    dsimp only
    refine ⟨if_neg (by simp [early]), if_neg fun hjudged => ?_⟩
    obtain ⟨ended, -⟩ := (s.slotJudged_iff e).1 hjudged
    rw [hct, hj, early] at ended
    cases ended

/-- SLOT_ARRIVAL_END and SLOT_END_REPORT of an entry past its arrival end (R108). -/
theorem execSlot_over {ct : Cycle} {j : Fin 8} {e : Slot} (hat : s.slotAt ct j.val = some e) (hover : s.slotOver ct j.val = true) :
    execSlotArrivalEnd ct j s = .next (s.slotEnds e) ∧
    execSlotEndReport ct j s = if s.slotJudged e then .next (s.slotUnanswered e) else .next s := by
  unfold execSlotArrivalEnd execSlotEndReport
  rw [hat]
  exact ⟨if_pos hover, rfl⟩

/-- The end of a void, at either step: the slot becomes free (R107, R108). -/
theorem State.slotEnds_void {e : Slot} (h : e.use = .void) :
    s.slotEnds e = s.freeSlot e.ct e.j ∧ s.slotUnanswered e = s.freeSlot e.ct e.j := by
  unfold State.slotEnds State.slotUnanswered Slot.interval
  rw [h]
  exact ⟨rfl, rfl⟩

/-- The arrival end of a booked slot: the arm line drops if it is up for it (R110). -/
theorem State.slotEnds_booked {e : Slot} {i : RecIx} {o : Owner} {n : Nat} (h : e.use = .booked i o n) :
    s.slotEnds e = s.disarmFor (.slot n e.ct e.j i o) := by
  unfold State.slotEnds Slot.interval
  rw [h]

/-! ### A booked slot unanswered -/

/-- The slot of an unanswered booking has become free, the arm line dropping if it is still up for it (R108, R110). -/
theorem State.disarmFor_freeSlot (id : Interval) (ct : Cycle) (j : Nat) : (s.disarmFor id).freeSlot ct j = { s with
    ltu := { s.ltu with
      map := s.ltu.map.filter (fun e => !(decide (e.ct = ct) && decide (e.j = j)))
      armed := if s.ltu.armed = some id then none else s.ltu.armed }
    brx := if s.ltu.armed = some id then disarmed s.brx else s.brx } := by
  unfold State.disarmFor
  split <;> rfl

/-- The booked slot of an OUTSTANDING ask unanswered (R71). -/
theorem State.slotUnanswered_ask {e : Slot} {i : RecIx} {n : Nat} (h : e.use = .booked i .rgu n) :
    let s1 := (s.disarmFor (.slot n e.ct e.j i .rgu)).freeSlot e.ct e.j
    s1.askOutstanding n = some i → s.slotUnanswered e = s1.settleMiss i := by
  unfold State.slotUnanswered
  rw [h]
  exact fun ha => if_pos ha

/-- The booked slot of a SENT block unanswered (R87). -/
theorem State.slotUnanswered_block {e : Slot} {i : RecIx} {ch : ChanIx} {n : Nat} (h : e.use = .booked i (.channel ch) n) :
    let s1 := (s.disarmFor (.slot n e.ct e.j i (.channel ch))).freeSlot e.ct e.j
    s1.channelSent n = some ch → s.slotUnanswered e = s1.negativeOutcome ch := by
  unfold State.slotUnanswered
  rw [h]
  exact fun hc => if_pos hc

/-- A settle slot missed: the ask is queued again below K misses, the sequence ends in re-range at K (R71). -/
theorem State.settleMiss_cases {i : RecIx} {x : Settle} (hx : s.settle i = some x) :
    (x.missed + 1 < (s.record i).settleCount.toNat → s.settleMiss i = s.askAgain i { x with missed := x.missed + 1 }) ∧
    ((s.record i).settleCount.toNat ≤ x.missed + 1 →
      s.settleMiss i = s.reportSettle i { x with missed := x.missed + 1 } (.reRange none) .decided) := by
  unfold State.settleMiss
  rw [hx]
  exact ⟨fun h => if_pos h, fun h => if_neg (Nat.not_lt.2 h)⟩

/-- The lowest channel SENT under an interval identity (R86). -/
theorem State.channelSent_eq_some (n : Nat) (ch : ChanIx) : s.channelSent n = some ch ↔
    (∃ ct j, (s.chan ch).stage = .sent ct j n) ∧ ∀ k < ch, ∀ ct j, (s.chan k).stage ≠ .sent ct j n := by
  have sent : ∀ k : ChanIx, (match (s.chan k).stage with
      | .sent _ _ m => decide (m = n)
      | _ => false) = true ↔ ∃ ct j, (s.chan k).stage = .sent ct j n := fun k => by
    rcases (s.chan k).stage with _ | _ | _ | _ | ⟨ct, j, m⟩ | o <;> simp
  unfold State.channelSent allChannels
  rw [← Fin.find?_eq_find?_finRange]
  refine Fin.find?_eq_some_iff.trans (and_congr (sent ch) (forall₂_congr fun k _ => ?_))
  rw [← Bool.not_eq_true]
  exact (not_congr (sent k)).trans (by simp only [not_exists])

/-- A negative outcome of a channel: its block is offered again below BlockRetries, its push fails at it (R87). -/
theorem State.negativeOutcome_cases (ch : ChanIx) :
    let x := s.chan ch
    let r := s.record x.index
    (x.retries + 1 < s.header.blockRetries.toNat → s.negativeOutcome ch = { s with
      pex := { s.pex with chans := s.pex.chans.set ch { x with retries := x.retries + 1, stage := .ready } }
      records := s.records.set x.index { r with
        retriesTotal := if r.retriesTotal < 65535 then r.retriesTotal + 1 else r.retriesTotal }
      dsq := { s.dsq with reply := s.dsq.reply ++ [{ index := x.index, kind := .profileBlock }] } }) ∧
    (s.header.blockRetries.toNat ≤ x.retries + 1 → s.negativeOutcome ch = { s with
      pex := { s.pex with
        chans := s.pex.chans.set ch { x with retries := x.retries + 1, stage := .reported .profileFailed }
        reports := s.pex.reports ++ [{ index := x.index, chan := ch }] } }) := by
  intro x r
  have counted : (s.setChan ch { x with retries := x.retries + 1 }).chan ch = { x with retries := x.retries + 1 } :=
    (State.chan_setChan s ch ch _).trans (if_pos rfl)
  unfold State.negativeOutcome
  refine ⟨fun h => (if_pos h).trans ?_, fun h => (if_neg (Nat.not_lt.2 h)).trans ?_⟩
  · unfold State.offerAgain
    rw [State.chan_onRecord, counted]
    simp only [State.setChan, State.onRecord, State.setRecord, State.appendReply, Vector.set_set]
    rfl
  · unfold State.reportPush
    rw [counted]
    simp only [State.setChan, Vector.set_set]

end Sys2Proof.Machine

namespace Sys2Proof.Proofs

open Sys2Proof.Machine Sys2Proof.Safety

/-- Settles O35. -/
theorem slotEnds : Obligations.SlotEnds := by
  intro s ct j past freed
  have ended : s.slotOver ct j.val = true ↔ past := s.slotOver_iff ct j.val
  refine ⟨fun h => execSlot_idle s (h.imp_right fun hn => ?_), fun e hat hpast => ?_⟩
  · rwa [← ended, Bool.not_eq_true] at hn
  · obtain ⟨arrival, report⟩ := execSlot_over s hat (ended.2 hpast)
    have judged := s.slotJudged_iff e
    obtain ⟨hct, hj⟩ := s.slotAt_place hat
    rw [hct, hj, ended] at judged
    refine ⟨fun hvoid => ?_, fun i o n hbooked => ?_⟩
    · obtain ⟨ends, unanswered⟩ := s.slotEnds_void hvoid
      rw [hct, hj] at ends unanswered
      have free : s.slotJudged e = true := judged.2 ⟨hpast, fun i o n hb => by rw [hvoid] at hb; cases hb⟩
      exact ⟨arrival.trans (congrArg _ ends), (report.trans (if_pos free)).trans (congrArg _ unanswered)⟩
    · intro id u
      have drops : s.slotEnds e = s.disarmFor id := by rw [s.slotEnds_booked hbooked, hct, hj]
      have freed_eq : (s.disarmFor id).freeSlot ct j.val = u := s.disarmFor_freeSlot id ct j.val
      refine ⟨fun harm => ?_, fun harm => ?_, fun ⟨x, hx, hid⟩ => ?_, fun hnone => ?_⟩
      · exact arrival.trans (congrArg _ (drops.trans (if_pos harm)))
      · exact arrival.trans (congrArg _ (drops.trans (if_neg harm)))
      · refine report.trans (if_neg fun hjudged => ?_)
        obtain ⟨-, uncaptured⟩ := judged.1 hjudged
        exact uncaptured i o n hbooked x hx hid
      · have free : s.slotJudged e = true := judged.2 ⟨hpast, fun i' o' n' hb => by
          rw [hbooked] at hb
          cases hb
          exact hnone⟩
        have told := report.trans (if_pos free)
        refine ⟨fun x ho hx hs hlow => ?_, fun ch ho hs hlow => ?_⟩
        · subst ho
          have asked : u.askOutstanding n = some i := (u.askOutstanding_eq_some n i).2
            ⟨⟨x, hx, ct, j.val, hs⟩, fun k hk y hy ⟨c', j', hy'⟩ => hlow k hk y c' j' hy hy'⟩
          have missed := s.slotUnanswered_ask hbooked
          rw [hct, hj, freed_eq] at missed
          obtain ⟨again, reRange⟩ := u.settleMiss_cases hx
          exact ⟨fun h => told.trans (congrArg _ ((missed asked).trans (again h))),
            fun h => told.trans (congrArg _ ((missed asked).trans (reRange h)))⟩
        · subst ho
          have sent : u.channelSent n = some ch := (u.channelSent_eq_some n ch).2 ⟨⟨ct, j.val, hs⟩, hlow⟩
          have negative := s.slotUnanswered_block hbooked
          rw [hct, hj, freed_eq] at negative
          obtain ⟨again, failed⟩ := u.negativeOutcome_cases ch
          exact ⟨fun h => told.trans (congrArg _ ((negative sent).trans (again h))),
            fun h => told.trans (congrArg _ ((negative sent).trans (failed h)))⟩

end Sys2Proof.Proofs
end

section
set_option Elab.async false
/-! The FETCH that takes a reply-bearing message (R68, R84, R105, R106, R131, R132): usable slots, owners, the first usable slot and the
booking. -/

namespace Sys2Proof.Machine

open Sys2Proof.Safety

variable (s : State)

/-! ### Usable slots -/

/-- A slot is free where the map has no entry for it (R105). -/
theorem State.slotAt_isNone (ct : Cycle) (j : Nat) : (s.slotAt ct j).isNone = true ↔ ∀ e ∈ s.ltu.map, ¬(e.ct = ct ∧ e.j = j) := by
  unfold State.slotAt
  simp

/-- What the quiet state allows (R106). -/
theorem State.quietAllows_iff (ct : Cycle) (j : Nat) :
    let start : Int := s.header.targetLoop.toNat + s.header.spanStart.toNat + j * s.header.slotLen.toNat
    let arrives := fun w : Window => 160000 * (ct - w.cq).toInt + start
    s.quietAllows ct j = true ↔
      (∀ w, s.ltu.quiet = .asked w → start + s.header.slotLen.toNat ≤ 160000 * (w.notBefore - ct).toInt) ∧
        (∀ w, s.ltu.quiet = .given w ∨ s.ltu.quiet = .opened w →
          w.length ≤ arrives w ∨ arrives w + s.header.slotLen.toNat ≤ 0) := by
  intro start arrives
  have starts : (s.arrivalStart j : Int) = start := by
    unfold State.arrivalStart State.targetLoop State.spanStart State.slotLen
    push_cast
    rfl
  have ends : (s.arrivalEnd j : Int) = start + s.header.slotLen.toNat := by
    rw [s.arrivalEnd_cast]
    ring
  have apart : ∀ w : Window, (!(decide (160000 * (ct - w.cq).toInt + (s.arrivalStart j : Int) < w.length) &&
      decide (0 < 160000 * (ct - w.cq).toInt + (s.arrivalEnd j : Int)))) = true ↔
      w.length ≤ arrives w ∨ arrives w + s.header.slotLen.toNat ≤ 0 := fun w => by
    rw [starts, ends, Bool.not_eq_true', ← Bool.not_eq_true, Bool.and_eq_true, decide_eq_true_eq, decide_eq_true_eq, not_and_or,
      not_lt, not_lt]
    exact or_congr_right (iff_of_eq (congrArg (· ≤ (0 : Int)) (add_assoc _ _ _).symm))
  unfold State.quietAllows
  rcases s.ltu.quiet with _ | w | w | w
  · simp
  · refine decide_eq_true_iff.trans ?_
    rw [ends]
    simp [cyclesFrom, Config.cycleBits]
  · refine (apart w).trans ?_
    simp
  · refine (apart w).trans ?_
    simp

/-- Record `i` holds a booking where an entry is booked for it (R106). -/
theorem State.holdsBooking_iff (i : RecIx) : s.holdsBooking i = true ↔ ∃ e ∈ s.ltu.map, ∃ o n, e.use = .booked i o n := by
  have booked : ∀ e : Slot, e.isFor i = true ↔ ∃ o n, e.use = .booked i o n := fun e => by
    unfold Slot.isFor
    rcases e.use with ⟨k, o, n⟩ | _ <;> simp
  unfold State.holdsBooking
  rw [List.any_eq_true]
  exact exists_congr fun e => and_congr_right fun _ => booked e

/-! ### The owner of a reply-bearing entry -/

/-- The lowest channel that serves record `i` (R80). -/
theorem State.channelOf_eq_some (i : RecIx) (ch : ChanIx) : s.channelOf i = some ch ↔
    (s.chan ch).stage ≠ .free ∧ (s.chan ch).index = i ∧ ∀ m < ch, ¬((s.chan m).stage ≠ .free ∧ (s.chan m).index = i) := by
  unfold State.channelOf allChannels
  rw [← Fin.find?_eq_find?_finRange, Fin.find?_eq_some_iff]
  simp [and_assoc]

/-- A CONFIRM-ASK is the RGU's, of a record with a settle sequence (R68). -/
theorem State.replyOwner_confirmAsk {b : ReplyEntry} (h : b.kind = .confirmAsk) :
    s.replyOwner b = if s.settle b.index = none then none else some .rgu := by
  unfold State.replyOwner
  rw [h]
  rcases s.settle b.index with _ | x <;> rfl

/-- A PROFILE-BLOCK is the READY channel's (R84). -/
theorem State.replyOwner_profileBlock {b : ReplyEntry} (h : b.kind = .profileBlock) (o : Owner) : s.replyOwner b = some o ↔
    ∃ ch, s.channelOf b.index = some ch ∧ (s.chan ch).stage = .ready ∧ o = .channel ch := by
  unfold State.replyOwner
  rw [h]
  simp only [Option.bind_eq_some_iff, Option.ite_none_right_eq_some, Option.some.injEq, eq_comm (b := o)]

/-! ### The first usable slot -/

/-- The first of a list that a test picks is the one with none picked before it in the list's order. -/
theorem find?_of_pairwise {α : Type} {r : α → α → Prop} {p : α → Bool} {x : α} {l : List α} (hl : l.Pairwise r) (hx : x ∈ l)
    (hp : p x = true) (h : ∀ y ∈ l, r y x → p y = false) : l.find? p = some x := by
  induction l with
  | nil => cases hx
  | cons a l ih =>
    obtain ⟨first, rest⟩ := List.pairwise_cons.1 hl
    rcases List.mem_cons.1 hx with rfl | hx
    · exact List.find?_cons_of_pos hp
    · rw [List.find?_cons_of_neg (by simp [h a List.mem_cons_self (first x hx)])]
      exact ih rest hx fun y hy => h y (List.mem_cons_of_mem a hy)

/-- The order of the scan at a fetch: by cycle delta, within it by slot index (R106). -/
def scanBefore (f g : Nat × Nat) : Prop := f.1 < g.1 ∨ (f.1 = g.1 ∧ f.2 < g.2)

/-- The reply fields scanned (R106). -/
theorem State.mem_replyFields (d j : Nat) :
    (d, j) ∈ s.replyFields ↔ s.header.replyLead.toNat ≤ d ∧ d ≤ 15 ∧ j < s.header.slotCount.toNat := by
  unfold State.replyFields Config.lastDelta
  simp only [List.mem_flatMap, List.mem_filter, List.mem_range, List.mem_map, decide_eq_true_eq, Prod.mk.injEq]
  constructor
  · rintro ⟨d', ⟨hd, hlead⟩, j', hj, rfl, rfl⟩
    exact ⟨hlead, Nat.lt_succ_iff.1 hd, hj⟩
  · rintro ⟨hlead, hd, hj⟩
    exact ⟨d, ⟨Nat.lt_succ_iff.2 hd, hlead⟩, j, hj, rfl, rfl⟩

/-- The reply fields stand in the order of the scan (R106). -/
theorem State.replyFields_pairwise : s.replyFields.Pairwise scanBefore := by
  unfold State.replyFields
  refine List.pairwise_flatMap.2 ⟨fun d _ => ?_, ?_⟩
  · exact List.pairwise_map.2 (List.pairwise_lt_range.imp fun h => .inr ⟨rfl, h⟩)
  · refine (List.pairwise_lt_range.filter _).imp fun hd f hf g hg => .inl ?_
    obtain ⟨j, -, rfl⟩ := List.mem_map.1 hf
    obtain ⟨k, -, rfl⟩ := List.mem_map.1 hg
    exact hd

/-- The first usable slot of a fetch (R106). -/
theorem State.findSlot_eq_some {c : Cycle} {d j : Nat} (hlead : s.header.replyLead.toNat ≤ d) (hd : d ≤ 15)
    (hj : j < s.header.slotCount.toNat) (hu : s.usable (c + BitVec.ofNat 32 d) j = true)
    (hfirst : ∀ d' j', s.header.replyLead.toNat ≤ d' → j' < s.header.slotCount.toNat → (d' < d ∨ (d' = d ∧ j' < j)) →
      s.usable (c + BitVec.ofNat 32 d') j' = false) : s.findSlot c = some (d, j) := by
  refine find?_of_pairwise s.replyFields_pairwise ((s.mem_replyFields d j).2 ⟨hlead, hd, hj⟩) hu fun ⟨d', j'⟩ hmem hbefore => ?_
  obtain ⟨hlead', -, hj'⟩ := (s.mem_replyFields d' j').1 hmem
  exact hfirst d' j' hlead' hj' hbefore

/-! ### The choice -/

/-- The first entry that a slot can be asked for (R106, R132). -/
theorem State.findSome?_replyWants {before after : List ReplyEntry} {e : ReplyEntry} {o : Owner}
    (hbefore : ∀ b ∈ before, s.holdsBooking b.index = true ∨ s.replyOwner b = none) (hb : s.holdsBooking e.index = false)
    (ho : s.replyOwner e = some o) : (before ++ e :: after).findSome? s.replyWants = some (e, o) := by
  have passed : before.findSome? s.replyWants = none := by
    refine List.findSome?_eq_none_iff.2 fun b hmem => ?_
    unfold State.replyWants
    obtain h | h := hbefore b hmem
    · exact if_pos h
    · rw [h]
      exact ite_self _
  have wanted : s.replyWants e = some (e, o) := by
    unfold State.replyWants
    rw [hb, ho]
    rfl
  rw [List.findSome?_append, passed, Option.none_or, List.findSome?_cons, wanted]

/-- With the lists before it empty, the reply-bearing list is drawn on (R131, R132). -/
theorem State.choose_reply {c : Cycle} {e : ReplyEntry} {o : Owner} {d j : Nat} (hl : s.ltu.lineUp = true) (hp : s.pct.port = .running)
    (hw : NoWindowFor s c) (hu : s.dsq.urgent = []) (hc : s.dsq.control = []) (hq : s.dsu.parks = [])
    (he : s.dsq.reply.findSome? s.replyWants = some (e, o)) (hs : s.findSlot c = some (d, j)) : s.choose c = .reply e o d j := by
  unfold State.choose
  rw [if_neg (by simp [hl]), hp]
  dsimp only
  rw [s.chooseAll_noWindow hw]
  unfold State.chooseLists State.chooseReply
  rw [hu, hc, hq, he, hs]

/-! ### The taking -/

/-- The entry taken leaves the reply-bearing list and its slot is booked under a fresh identity (R106, R132). -/
def State.replyBooked (ct : Cycle) (j : Nat) (i : RecIx) (o : Owner) (left : List ReplyEntry) : State :=
  { s with
    dsq := { s.dsq with reply := left }
    ltu := { s.ltu with
      map := s.ltu.map ++ [{ ct := ct, j := j, use := .booked i o s.ltu.nextIdent }], nextIdent := s.ltu.nextIdent + 1 } }

section Taken

variable {s} {before after : List ReplyEntry} {e : ReplyEntry} (hr : s.dsq.reply = before ++ e :: after) (he : e ∉ before)
  (c : Cycle) (d j : Nat)
include hr he

/-- A CONFIRM-ASK taken (R68). -/
theorem State.replyTaken_rgu {x : Settle} (hx : s.settle e.index = some x) :
    s.replyTaken c e .rgu d j = (s.replyBooked (c + BitVec.ofNat 32 d) j e.index .rgu (before ++ after)).setSettle e.index
      (some { x with stage := .outstanding (c + BitVec.ofNat 32 d) j s.ltu.nextIdent }) := by
  have left : s.dsq.reply.erase e = before ++ after := by rw [hr, List.erase_append_right _ he, List.erase_cons_head]
  unfold State.replyTaken
  dsimp only
  rw [left, show ∀ m, State.settle (State.book { s with dsq := m } _ j e.index .rgu) e.index = some x from fun _ => hx]
  rfl

/-- A PROFILE-BLOCK taken (R84). -/
theorem State.replyTaken_channel (ch : ChanIx) :
    s.replyTaken c e (.channel ch) d j =
      (s.replyBooked (c + BitVec.ofNat 32 d) j e.index (.channel ch) (before ++ after)).setChan ch
        { s.chan ch with stage := .sent (c + BitVec.ofNat 32 d) j s.ltu.nextIdent } := by
  have left : s.dsq.reply.erase e = before ++ after := by rw [hr, List.erase_append_right _ he, List.erase_cons_head]
  unfold State.replyTaken
  dsimp only
  rw [left]
  rfl

end Taken

/-- The bytes of a PROFILE-BLOCK whose buffer is FULL (R84). -/
theorem State.blockBytes_full {i : RecIx} {ch : ChanIx} {k : Nat} {last : Bool} {bytes : List Byte} (hi : (s.chan ch).index = i)
    (hb : (s.chan ch).buffer (s.chan ch).current = .full k last bytes) (d j : Nat) :
    s.blockBytes ch d j = messageBytes 7 (BitVec.ofNat 8 (s.record i).line) (BitVec.ofNat 8 (16 * d + j))
      (BitVec.ofNat 8 (s.chan ch).current) (bytes ++ [if last then 1 else 0]) := by
  unfold State.blockBytes Channel.currentBlock
  dsimp only
  rw [hb, hi]
  rfl

end Sys2Proof.Machine

namespace Sys2Proof.Proofs

open Sys2Proof.Machine Sys2Proof.Safety

/-- Settles O41. -/
theorem fetchReply : Obligations.FetchReply := by
  refine ⟨fun s => ⟨fun ct j => ?_, s.holdsBooking_iff, s.channelOf_eq_some, fun b => ⟨s.replyOwner_confirmAsk, s.replyOwner_profileBlock⟩⟩,
    fun s c before after e d j hf hp hw hu hc hq hr he hbefore hb hlead hd hj hus hfirst => ?_⟩
  · intro start arrives
    have usable : s.usable ct j = true ↔ (s.slotAt ct j).isNone = true ∧ s.quietAllows ct j = true := Bool.and_eq_true_iff
    exact usable.trans (and_congr (s.slotAt_isNone ct j) (s.quietAllows_iff ct j))
  · intro ct n line u
    have hl : (s.recordFetch c).ltu.lineUp = true := by
      obtain ⟨-, -, -, hl⟩ := hf
      exact hl
    have slot : (s.recordFetch c).findSlot c = some (d, j) := (s.recordFetch c).findSlot_eq_some hlead hd hj hus hfirst
    have taken : ∀ o, s.replyOwner e = some o → exec (.fetch c) s = .next (((s.recordFetch c).replyTaken c e o d j).answerFetch
        (.message ((s.recordFetch c).replyBytes e o d j))) := by
      intro o ho
      have wants : (s.recordFetch c).dsq.reply.findSome? (s.recordFetch c).replyWants = some (e, o) := by
        rw [show (s.recordFetch c).dsq.reply = before ++ e :: after from hr]
        exact (s.recordFetch c).findSome?_replyWants hbefore hb ho
      have choice := (s.recordFetch c).choose_reply hl hp hw hu hc hq wants slot
      have fetch := s.takeFetch_valid hf
      rw [choice] at fetch
      exact congrArg Host.Outcome.next fetch
    refine ⟨fun x hk hx => ?_, fun ch k last bytes hk hch hs hfull => ?_⟩
    · have owner : s.replyOwner e = some .rgu := (s.replyOwner_confirmAsk hk).trans (if_neg (by rw [hx]; nofun))
      exact (taken _ owner).trans (congrArg (fun t : State => Host.Outcome.next (t.answerFetch _))
        (State.replyTaken_rgu (s := s.recordFetch c) hr he c d j hx))
    · have owner : s.replyOwner e = some (.channel ch) := (s.replyOwner_profileBlock hk _).2 ⟨ch, hch, hs, rfl⟩
      obtain ⟨-, hi, -⟩ := (s.channelOf_eq_some e.index ch).1 hch
      have bytes_eq : (s.recordFetch c).replyBytes e (.channel ch) d j = _ := s.blockBytes_full hi hfull d j
      rw [taken _ owner, bytes_eq]
      exact congrArg (fun t : State => Host.Outcome.next (t.answerFetch _))
        (State.replyTaken_channel (s := s.recordFetch c) hr he c d j ch)

end Sys2Proof.Proofs
end

section
set_option Elab.async false
/-! The samples of a burst (11.9): the alternating bits, the delimiters, and the bytes as the receiver forms them (R113, R114, R116). -/

namespace Sys2Proof.Machine

/-! ### Levels and samples -/

/-- Levels as samples of one phase. -/
def sampled (phase : BitVec 4) (levels : List Bool) : List Sample := levels.map (fun v => { value := v, phase := phase })

theorem sampled_append (phase : BitVec 4) (l m : List Bool) : sampled phase (l ++ m) = sampled phase l ++ sampled phase m :=
  List.map_append

/-- Alternating levels, `v` the first of them (R113). -/
def alternating : Bool → Nat → List Bool
  | _, 0 => []
  | v, n + 1 => v :: alternating (!v) n

/-- The 64 bits of the preamble are two runs of 32 alternating ones, the delimiter behind them (11.9). -/
theorem preamble_delimiter (conv : Conv) :
    (List.range 64).map (fun k => decide (k % 2 = 0)) ++ delimiterOf conv = alternating true 32 ++
      (alternating true 32 ++ delimiterOf conv) := by
  cases conv <;> decide

/-- The straight form breaks the alternating bits at its fourth sample (R114). -/
theorem straight_break : alternating true 32 ++ straightDelimiter = alternating true 35 ++ true :: straightDelimiter.drop 4 := by
  decide

/-- The crossed form breaks them at its first (R114). -/
theorem crossed_break : alternating true 32 ++ crossedDelimiter = alternating true 32 ++ false :: crossedDelimiter.drop 1 := by
  decide

/-- A byte is sent in eight samples (R116). -/
theorem length_levelsOfByte (conv : Conv) (b : Byte) : (levelsOfByte conv b).length = 8 := by
  cases conv <;> simp [levelsOfByte]

/-- The parts of a list of four, by the lengths of the first three. -/
theorem take_drop_parts {α : Type} {l a b c d : List α} (h : l = a ++ (b ++ (c ++ d))) :
    l.take a.length = a ∧ (l.drop a.length).take b.length = b ∧ (l.drop (a.length + b.length)).take c.length = c ∧
      l.drop (a.length + b.length + c.length) = d := by
  subst h
  have first : (a ++ (b ++ (c ++ d))).drop a.length = b ++ (c ++ d) := List.drop_left
  have second : (a ++ (b ++ (c ++ d))).drop (a.length + b.length) = c ++ d := by rw [← List.drop_drop, first, List.drop_left]
  refine ⟨List.take_left, ?_, ?_, ?_⟩
  · rw [first, List.take_left]
  · rw [second, List.take_left]
  · rw [← List.drop_drop, second, List.drop_left]

/-- The samples a reception step takes are those of its part of the burst (11.9). -/
theorem burstSamples_parts (conv : Conv) (phase : BitVec 4) (kindByte : Byte) (payload : List Byte) :
    let xs := burstSamples conv phase (kindByte :: payload)
    xs.take 32 = sampled phase (alternating true 32) ∧
    (xs.drop 32).take 48 = sampled phase (alternating true 32 ++ delimiterOf conv) ∧
    (xs.drop 80).take 8 = sampled phase (levelsOfByte conv kindByte) ∧
    xs.drop 88 = sampled phase ((payload ++ bytesLE 2 (crc16 (kindByte :: payload)).toNat).flatMap (levelsOfByte conv)) ∧
    xs.length = 80 + 8 * (payload.length + 3) := by
  intro xs
  have split : xs = sampled phase (alternating true 32) ++ (sampled phase (alternating true 32 ++ delimiterOf conv) ++
      (sampled phase (levelsOfByte conv kindByte) ++
        sampled phase ((payload ++ bytesLE 2 (crc16 (kindByte :: payload)).toNat).flatMap (levelsOfByte conv)))) := by
    show sampled phase (burstLevels conv (kindByte :: payload)) = _
    unfold burstLevels
    rw [preamble_delimiter, List.cons_append, List.flatMap_cons]
    simp only [sampled_append, List.append_assoc]
  have first : (sampled phase (alternating true 32)).length = 32 := rfl
  have second : (sampled phase (alternating true 32 ++ delimiterOf conv)).length = 48 := by
    cases conv <;> rfl
  have third : (sampled phase (levelsOfByte conv kindByte)).length = 8 :=
    (List.length_map _).trans (length_levelsOfByte conv kindByte)
  have last : (sampled phase ((payload ++ bytesLE 2 (crc16 (kindByte :: payload)).toNat).flatMap (levelsOfByte conv))).length =
      8 * (payload.length + 2) := by
    refine (List.length_map _).trans ?_
    rw [List.length_flatMap]
    simp [length_levelsOfByte, bytesLE]
    ring
  obtain ⟨preamble, delimiter, kind, rest⟩ := take_drop_parts split
  simp only [first, second, third, Nat.reduceAdd] at preamble delimiter kind rest
  refine ⟨preamble, delimiter, kind, rest, ?_⟩
  rw [split]
  simp only [List.length_append, first, second, third, last]
  ring

/-! ### Bytes -/

/-- The bits of the number whose bits are given least significant first. -/
theorem testBit_natOfBits (bs : List Bool) : ∀ i, (natOfBits bs).testBit i = bs.getD i false := by
  induction bs with
  | nil => exact fun i => Nat.zero_testBit i
  | cons b bs ih =>
    have cons : natOfBits (b :: bs) = Nat.bit b (natOfBits bs) := by
      rw [Nat.bit_val, natOfBits, Nat.add_comm]
    intro i
    rw [cons]
    cases i with
    | zero => exact Nat.testBit_bit_zero _ _
    | succ i => exact (Nat.testBit_bit_succ _ _ _).trans (ih i)

/-- The number of a byte's bits is the byte. -/
theorem ofNat_natOfBits (b : Byte) : BitVec.ofNat 8 (natOfBits ((List.range 8).map (fun k => b.getLsbD k))) = b := by
  refine BitVec.eq_of_getLsbD_eq fun i hi => ?_
  rw [BitVec.getLsbD_ofNat, testBit_natOfBits]
  simp [hi]

/-- A byte sent in a convention is received as the byte (R116). -/
theorem byteOfSamples_levelsOfByte (conv : Conv) (b : Byte) : byteOfSamples conv (levelsOfByte conv b) = b := by
  cases conv
  case crossed =>
    refine Eq.trans ?_ (ofNat_natOfBits b)
    simp [byteOfSamples, levelsOfByte, Function.comp_def]
  case straight => exact ofNat_natOfBits b
  case unknown => exact ofNat_natOfBits b

/-- The check as sent is the check (R118). -/
theorem natLE_bytesLE_two {n : Nat} (h : n < 65536) : natLE (bytesLE 2 n) = n := by
  simp only [bytesLE, natLE, BitVec.toNat_ofNat]
  omega

end Sys2Proof.Machine
end

section
set_option Elab.async false
/-! A burst through the Burst Receiver, part by part (R112 to R117): the preamble recognized, the break found, the delimiter matched. -/

namespace Sys2Proof.Machine

open Sys2Proof.Safety

/-! ### Samples inside an interval -/

/-- The next `N` line bits lie inside the armed interval `id` (R112). -/
structure Inside (s : State) (id : Interval) (N : Nat) : Prop where
  armed : s.ltu.armed = some id
  within : ∀ k, k < N → (heard s k s.brx).intervalOver id = false

/-- A sample is taken where the hunt is in one of the command's phases. -/
theorem State.feed_taken {s : State} {ps : List HuntPhase} (h : s.huntsIn ps = true) (x : Sample) (xs : List Sample) :
    State.feed ps (x :: xs) s = State.feed ps xs (s.laneSample x) := if_pos h

/-- Samples given in two lists are taken one list after the other. -/
theorem State.feed_append (ps : List HuntPhase) (xs ys : List Sample) : ∀ s : State,
    State.feed ps (xs ++ ys) s = State.feed ps ys (State.feed ps xs s) := by
  induction xs with
  | nil => exact fun _ => rfl
  | cons x xs ih =>
    intro s
    rcases h : s.huntsIn ps with _ | _
    · rw [s.feed_idle h, s.feed_idle h, s.feed_idle h]
    · rw [List.cons_append, State.feed_taken h, State.feed_taken h, ih]

section

variable {s : State} {id : Interval} {N : Nat} (inside : Inside s id N) {k : Nat} (hk : k < N) {b : Brx}
include inside hk

/-- The next line bit lies inside the interval, whatever the hunt has come to. -/
theorem Inside.intervalOver : (heard s k b).intervalOver id = false := inside.within k hk

/-- A sample inside the interval is taken where the hunt is in one of the command's phases. -/
theorem Inside.feed_cons {p : HuntPhase} {ps : List HuntPhase} (hp : b.phase = some p) (hm : ps.contains p = true) (x : Sample)
    (xs : List Sample) : State.feed ps (x :: xs) (heard s k b) = State.feed ps xs ((heard s k b).laneSample x) :=
  State.feed_taken ((heard s k b).huntsIn_armed inside.armed (inside.intervalOver hk) hp hm) x xs

/-- A sample in PREAMBLE. -/
theorem Inside.preamble_sample (hh : b.hunt = .preamble) (x : Sample) :
    (heard s k b).laneSample x = heard s (k + 1) (b.preambleSample ((heard s k b).ltu.since id.ref) x) :=
  State.laneSample_preamble (s := heard s k b) inside.armed (inside.intervalOver hk) hh x

/-- A sample before the break. -/
theorem Inside.seeking_sample (hh : b.hunt = .delimiter) (hc : b.record.candidate = none) (x : Sample) {b' : Brx}
    (h : (heard s k b).seekBreak id ((heard s k b).ltu.since id.ref) x = (heard s k b).setBrx b') :
    (heard s k b).laneSample x = heard s (k + 1) b' :=
  (State.laneSample_seeking (s := heard s k b) inside.armed (inside.intervalOver hk) hh hc x).trans (congrArg State.nextLineBit h)

/-- A sample from the break on. -/
theorem Inside.comparing_sample (hh : b.hunt = .delimiter) (hc : b.record.candidate ≠ none) (x : Sample) {b' : Brx}
    (h : (heard s k b).compareDelimiter id x = (heard s k b).setBrx b') : (heard s k b).laneSample x = heard s (k + 1) b' :=
  (State.laneSample_comparing (s := heard s k b) inside.armed (inside.intervalOver hk) hh hc x).trans (congrArg State.nextLineBit h)

/-- A sample of the body. -/
theorem Inside.body_sample (hh : b.hunt = .body) (x : Sample) {b' : Brx}
    (h : (heard s k b).bodySample id x = (heard s k b).setBrx b') : (heard s k b).laneSample x = heard s (k + 1) b' :=
  (State.laneSample_body (s := heard s k b) inside.armed (inside.intervalOver hk) hh x).trans (congrArg State.nextLineBit h)

end

/-! ### The preamble -/

/-- An alternating sample below the 32nd grows the run (R113). -/
theorem Brx.preambleSample_grows {b : Brx} {x : Sample} (hrun : b.run < 31) (hx : b.previous = some (!x.value)) (p : Int) :
    b.preambleSample p x = { b with run := b.run + 1, previous := some x.value, record := b.record.withPhase x } := by
  unfold Brx.preambleSample
  dsimp only
  rw [(b.alternates_iff x).2 hx, if_pos rfl]
  exact if_neg (Nat.not_le.2 (Nat.add_lt_add_right hrun 1))

/-- The latest samples, up to `c` of those kept, have the phase `φ`. -/
def HuntRecord.Phased (h : HuntRecord) (φ : BitVec 4) (c : Nat) : Prop := ∀ i, i < c → i < 4 → h.phases.getD i 0 = φ

/-- A sample of the phase adds to them. -/
theorem HuntRecord.Phased.withPhase {h : HuntRecord} {φ : BitVec 4} {c : Nat} (hp : h.Phased φ c) (v : Bool) :
    (h.withPhase { value := v, phase := φ }).Phased φ (c + 1) := by
  intro i hi h4
  have kept : ∀ l : List (BitVec 4), (l.take 4).getD i 0 = l.getD i 0 := fun l => by
    rw [List.getD_eq_getElem?_getD, List.getD_eq_getElem?_getD, List.getElem?_take_of_lt h4]
  refine (kept _).trans ?_
  cases i with
  | zero => rfl
  | succ i => exact hp i (Nat.lt_of_succ_lt_succ hi) (Nat.lt_of_succ_lt h4)

/-- The preamble is recognized and the break not found (R113, R114): the samples go on alternating with `v`, the latest `c` of them of
the phase `φ`; the captures are `q`. -/
structure Brx.Seeks (b : Brx) (φ : BitVec 4) (c : Nat) (v : Bool) (q : List Capture) : Prop where
  hunt : b.hunt = .delimiter
  candidate : b.record.candidate = none
  previous : b.previous = some (!v)
  phases : b.record.Phased φ c
  queue : b.queue = q

variable {s : State} {id : Interval} {N : Nat} (inside : Inside s id N) {φ : BitVec 4}
include inside

/-- PREAMBLE_RECOGNIZED over the alternating bits that complete a run of 32 (R113). -/
theorem Inside.feed_run (n : Nat) : ∀ (v : Bool) (k : Nat) (b : Brx), b.hunt = .preamble → b.run + (n + 1) = 32 →
    b.previous = some (!v) → k + (n + 1) ≤ N →
    ∃ b', State.feed [.preamble] (sampled φ (alternating v (n + 1))) (heard s k b) = heard s (k + (n + 1)) b' ∧
      b'.Seeks φ 0 (not^[n + 1] v) b.queue ∧ b'.record.passed = 0 := by
  induction n with
  | zero =>
    intro v k b hh hrun hp hk
    refine ⟨_, (inside.feed_cons hk ((b.phase_cases _).2 (.inl ⟨hh, rfl⟩)) rfl { value := v, phase := φ } []).trans
      ((inside.preamble_sample hk hh _).trans (congrArg (heard s (k + 1))
        (Brx.preambleSample_recognized (Nat.succ.inj hrun) hp _))), ⟨rfl, rfl, ?_, nofun, rfl⟩, rfl⟩
    exact congrArg some (Bool.not_not v).symm
  | succ n ih =>
    intro v k b hh hrun hp hk
    obtain ⟨b', fed, seeks, passed⟩ := ih (!v) (k + 1)
      { b with run := b.run + 1, previous := some v, record := b.record.withPhase { value := v, phase := φ } } hh
      (by dsimp only; omega) (congrArg some (Bool.not_not v).symm) (by omega)
    refine ⟨b', ?_, seeks, passed⟩
    have sample := (inside.preamble_sample (k := k) (by omega) hh { value := v, phase := φ }).trans (congrArg (heard s (k + 1))
      (Brx.preambleSample_grows (by omega) hp _))
    refine (inside.feed_cons (by omega) ((b.phase_cases _).2 (.inl ⟨hh, rfl⟩)) rfl _ _).trans ?_
    rw [sample, show k + (n + 1 + 1) = k + 1 + (n + 1) by omega]
    exact fed

/-- PREAMBLE_RECOGNIZED over the first 32 bits of a burst, hunting afresh (R112, R113). -/
theorem Inside.feed_preamble {b : Brx} (hh : b.hunt = .preamble) (hp : b.previous = none) (hN : 32 ≤ N) :
    ∃ b', State.feed [.preamble] (sampled φ (alternating true 32)) (heard s 0 b) = heard s 32 b' ∧ b'.Seeks φ 0 true b.queue ∧
      b'.record.passed = 0 := by
  have sample := (inside.preamble_sample (k := 0) (by omega) hh { value := true, phase := φ }).trans (congrArg (heard s 1)
    (Brx.preambleSample_restart (by rw [hp]; nofun) _))
  obtain ⟨b', fed, seeks, passed⟩ := inside.feed_run (φ := φ) 30 false 1
    { b with run := 1, previous := some true, record := b.record.withPhase { value := true, phase := φ } } hh rfl rfl (by omega)
  refine ⟨b', ?_, seeks, passed⟩
  refine (inside.feed_cons (by omega) ((b.phase_cases _).2 (.inl ⟨hh, rfl⟩)) rfl _ _).trans ?_
  rw [sample]
  exact fed

/-! ### The break -/

omit inside in
/-- An alternating sample among the first 127 after recognition is passed (R114). -/
theorem State.seekBreak_passes (t : State) {x : Sample} (hp : t.brx.record.passed + 1 < 128)
    (hx : t.brx.previous = some (!x.value)) (i : Interval) (p : Int) : t.seekBreak i p x = t.setBrx { t.brx with
      previous := some x.value, record := { t.brx.record.withPhase x with passed := t.brx.record.passed + 1 } } := by
  unfold State.seekBreak
  dsimp only
  rw [(t.brx.alternates_iff x).2 hx, if_pos rfl]
  exact if_pos hp

/-- DELIMITER_COMPARED over alternating bits before the break (R114). -/
theorem Inside.feed_alternating (n : Nat) : ∀ (v : Bool) (k c : Nat) (b : Brx) (q : List Capture), b.Seeks φ c v q →
    b.record.passed + n < 128 → k + n ≤ N →
    ∃ b', State.feed [.seeking, .comparing] (sampled φ (alternating v n)) (heard s k b) = heard s (k + n) b' ∧
      b'.Seeks φ (c + n) (not^[n] v) q := by
  induction n with
  | zero => exact fun v k c b q h _ _ => ⟨b, rfl, h⟩
  | succ n ih =>
    intro v k c b q h hp hk
    obtain ⟨b', fed, seeks⟩ := ih (!v) (k + 1) (c + 1)
      { b with
        previous := some v
        record := { b.record.withPhase { value := v, phase := φ } with passed := b.record.passed + 1 } } q
      ⟨h.hunt, h.candidate, congrArg some (Bool.not_not v).symm, h.phases.withPhase v, h.queue⟩ (by dsimp only; omega) (by omega)
    have sample := inside.seeking_sample (k := k) (by omega) h.hunt h.candidate { value := v, phase := φ }
      ((heard s k b).seekBreak_passes (x := { value := v, phase := φ }) (by show b.record.passed + 1 < 128; omega) h.previous _ _)
    refine ⟨b', ?_, ?_⟩
    · refine (inside.feed_cons (by omega) ((b.phase_cases _).2 (.inr (.inl ⟨h.hunt, h.candidate, rfl⟩))) rfl _ _).trans ?_
      rw [sample, show k + (n + 1) = k + 1 + n by omega]
      exact fed
    · rw [show c + (n + 1) = c + 1 + n by omega]
      exact seeks

/-- The break is found (R114, R115): the samples `held` stand from the candidate start, the last preamble bit at line bit `p` with phase
`φ`; the captures are `q`. -/
structure Brx.Compares (b : Brx) (φ : BitVec 4) (p : Int) (held : List Bool) (q : List Capture) : Prop where
  hunt : b.hunt = .delimiter
  candidate : b.record.candidate ≠ none
  held : b.record.held = held
  lineBit : b.record.lineBit = p
  phase : b.record.phase = φ
  queue : b.queue = q

/-- DELIMITER_COMPARED at the break (R114, R115). -/
theorem Inside.feed_break {v : Bool} {k c : Nat} {b : Brx} {q : List Capture} (h : b.Seeks φ c (!v) q) (hc : 4 ≤ c) (hk : k < N)
    (xs : List Sample) : ∃ b', State.feed [.seeking, .comparing] ({ value := v, phase := φ } :: xs) (heard s k b) =
      State.feed [.seeking, .comparing] xs (heard s (k + 1) b') ∧
      b'.Compares φ ((heard s k b).ltu.since id.ref - if v then 4 else 1) (if v then [true, false, true, true] else [false]) q := by
  have same : b.previous = some v := h.previous.trans (congrArg some (Bool.not_not v))
  have sample := inside.seeking_sample hk h.hunt h.candidate { value := v, phase := φ }
    ((heard s k b).seekBreak_break (x := { value := v, phase := φ }) same id _)
  refine ⟨_, (inside.feed_cons hk ((b.phase_cases _).2 (.inr (.inl ⟨h.hunt, h.candidate, rfl⟩))) rfl _ _).trans
    (congrArg _ sample), ?_⟩
  cases v
  · exact ⟨h.hunt, nofun, rfl, rfl, h.phases 0 (by omega) (by omega), h.queue⟩
  · exact ⟨h.hunt, nofun, rfl, rfl, h.phases 3 (by omega) (by omega), h.queue⟩

/-! ### The delimiter -/

/-- The delimiter is matched and the body has begun (R114 to R117): convention, mark, the bytes so far, what is still to come, the samples of
the byte in progress; the captures are `q`. -/
structure Brx.InBody (b : Brx) (conv : Conv) (mark : Int) (bytes : List Byte) (expected : Option Nat) (bits : List Bool)
    (q : List Capture) : Prop where
  hunt : b.hunt = .body
  conv : b.record.conv = conv
  mark : b.record.mark = mark
  bytes : b.record.bytes = bytes
  expected : b.record.expected = expected
  bits : b.record.bits = bits
  queue : b.queue = q

omit inside in
/-- A sample from the break on, below the sixteenth, is held (R114). -/
theorem State.compareDelimiter_holds (t : State) {x : Sample} (hl : t.brx.record.held.length < 15) (i : Interval) :
    t.compareDelimiter i x = t.setBrx { t.brx with
      previous := some x.value, record := { t.brx.record with held := t.brx.record.held ++ [x.value] } } := by
  unfold State.compareDelimiter
  dsimp only
  exact if_pos (by simp; omega)

/-- DELIMITER_COMPARED over the rest of a delimiter (R114, R115). -/
theorem Inside.feed_delimiter {p : Int} {conv : Conv} (ys : List Bool) : ∀ (y : Bool) (held : List Bool) (k : Nat) (b : Brx)
    (q : List Capture), b.Compares φ p held q → delimiterConv (held ++ y :: ys) = some conv → (held ++ y :: ys).length = 16 →
    k + (ys.length + 1) ≤ N →
    ∃ b', State.feed [.seeking, .comparing] (sampled φ (y :: ys)) (heard s k b) = heard s (k + (ys.length + 1)) b' ∧
      b'.InBody conv (arrivalMark p φ) [] none [] q := by
  induction ys with
  | nil =>
    intro y held k b q h hform hlen hk
    obtain ⟨form, -⟩ := (heard s k b).compareDelimiter_last (x := { value := y, phase := φ })
      (by show b.record.held.length = 15; rw [h.held]; simpa using hlen) id
    have sample := inside.comparing_sample hk h.hunt h.candidate _ (form conv (by
      show delimiterConv (b.record.held ++ [y]) = _
      rw [h.held, hform]))
    refine ⟨_, (inside.feed_cons hk ((b.phase_cases _).2 (.inr (.inr (.inl ⟨h.hunt, h.candidate, rfl⟩)))) rfl _ _).trans sample,
      ⟨rfl, rfl, ?_, rfl, rfl, rfl, h.queue⟩⟩
    show arrivalMark b.record.lineBit b.record.phase = _
    rw [h.lineBit, h.phase]
  | cons z zs ih =>
    intro y held k b q h hform hlen hk
    have short : b.record.held.length < 15 := by
      rw [h.held]
      simp only [List.length_append, List.length_cons] at hlen
      omega
    have sample := inside.comparing_sample (by omega) h.hunt h.candidate _
      ((heard s k b).compareDelimiter_holds (x := { value := y, phase := φ }) short id)
    obtain ⟨b', fed, body⟩ := ih z (held ++ [y]) (k + 1) _ q
      (show Brx.Compares { b with previous := some y, record := { b.record with held := b.record.held ++ [y] } } φ p (held ++ [y]) q from
        ⟨h.hunt, h.candidate, by rw [h.held], h.lineBit, h.phase, h.queue⟩)
      (by rwa [List.append_assoc]) (by rwa [List.append_assoc]) (by rw [List.length_cons] at hk; omega)
    refine ⟨b', ?_, body⟩
    refine (inside.feed_cons (by omega) ((b.phase_cases _).2 (.inr (.inr (.inl ⟨h.hunt, h.candidate, rfl⟩)))) rfl _ _).trans ?_
    rw [sample, List.length_cons, show k + (zs.length + 1 + 1) = k + 1 + (zs.length + 1) by omega]
    exact fed

end Sys2Proof.Machine
end

section
set_option Elab.async false
/-! A burst through the Burst Receiver: the delimiter of either convention, the bytes of the body, and the whole burst (R114 to R122). -/

namespace Sys2Proof.Machine

open Sys2Proof.Safety

/-- Line bits from a reference after `k` samples more (R92). -/
theorem since_heard (s : State) (k : Nat) (b : Brx) (c : Cycle) : (heard s k b).ltu.since c = s.ltu.since c + k := by
  rw [Ltu.since_eq, Ltu.since_eq]
  show 160000 * (s.ltu.cycle - c).toInt + ((s.ltu.offset + k : Nat) : Int) = _
  push_cast
  ring

section

variable {s : State} {id : Interval} {N : Nat} (inside : Inside s id N) {φ : BitVec 4}
include inside

/-- DELIMITER_COMPARED over the second half of the preamble and the delimiter (R114, R115). -/
theorem Inside.feed_delimiterCompared {b : Brx} {q : List Capture} (h : b.Seeks φ 0 true q) (hp : b.record.passed = 0) {conv : Conv}
    (hconv : conv ≠ .unknown) (hN : 80 ≤ N) :
    ∃ b', State.feed [.seeking, .comparing] (sampled φ (alternating true 32 ++ delimiterOf conv)) (heard s 32 b) = heard s 80 b' ∧
      b'.InBody conv (arrivalMark (s.ltu.since id.ref + 63) φ) [] none [] q := by
  have mark : ∀ (k : Nat) (b₁ : Brx) (e : Int), (k : Int) - e = 63 →
      (heard s k b₁).ltu.since id.ref - e = s.ltu.since id.ref + 63 := fun k b₁ e he => by
    rw [since_heard, add_sub_assoc, he]
  cases conv
  case unknown => exact absurd rfl hconv
  case straight =>
    obtain ⟨b₁, alternated, seeks⟩ := inside.feed_alternating 35 true 32 0 b q h (by omega) (by omega)
    obtain ⟨b₂, broken, compares⟩ := inside.feed_break (v := true) (k := 67) seeks (by omega) (by omega) (sampled φ (straightDelimiter.drop 4))
    have last : b₂.Compares φ (s.ltu.since id.ref + 63) _ q := mark 67 b₁ 4 rfl ▸ compares
    obtain ⟨b₃, compared, body⟩ := inside.feed_delimiter (straightDelimiter.drop 5) false _ 68 b₂ q last
      (by decide : delimiterConv _ = some .straight) rfl hN
    refine ⟨b₃, ?_, body⟩
    rw [delimiterOf, straight_break, sampled_append, State.feed_append, alternated]
    exact broken.trans compared
  case crossed =>
    obtain ⟨b₁, alternated, seeks⟩ := inside.feed_alternating 32 true 32 0 b q h (by omega) (by omega)
    obtain ⟨b₂, broken, compares⟩ := inside.feed_break (v := false) (k := 64) seeks (by omega) (by omega) (sampled φ (crossedDelimiter.drop 1))
    have last : b₂.Compares φ (s.ltu.since id.ref + 63) _ q := mark 64 b₁ 1 rfl ▸ compares
    obtain ⟨b₃, compared, body⟩ := inside.feed_delimiter (crossedDelimiter.drop 2) true _ 65 b₂ q last
      (by decide : delimiterConv _ = some .crossed) rfl hN
    refine ⟨b₃, ?_, body⟩
    rw [delimiterOf, crossed_break, sampled_append, State.feed_append, alternated]
    exact broken.trans compared

end

/-! ### The bytes of the body -/

/-- The phase of the hunt in the body (R117). -/
def bodyPhase (expected : Option Nat) : HuntPhase := if expected = none then .kind else .rest

/-- In the body the hunt is at the kind byte until the kind is known, and in the rest from then on. -/
theorem Brx.InBody.phase {b : Brx} {conv : Conv} {mark : Int} {bytes : List Byte} {expected : Option Nat} {bits : List Bool}
    {q : List Capture} (h : b.InBody conv mark bytes expected bits q) : b.phase = some (bodyPhase expected) := by
  unfold bodyPhase
  rw [← h.expected]
  split
  · next he => exact (b.phase_cases _).2 (.inr (.inr (.inr (.inl ⟨h.hunt, he, rfl⟩))))
  · next he => exact (b.phase_cases _).2 (.inr (.inr (.inr (.inr ⟨h.hunt, he, rfl⟩))))

/-- A sample below the eighth of its byte is held (R116). -/
theorem State.bodySample_holds (t : State) {x : Sample} (hl : t.brx.record.bits.length < 7) (i : Interval) :
    t.bodySample i x = t.setBrx { t.brx with
      previous := some x.value, record := { t.brx.record with bits := t.brx.record.bits ++ [x.value] } } := by
  unfold State.bodySample
  dsimp only
  exact if_pos (by simp; omega)

/-- A byte with more to come (R118). -/
theorem State.bodyByte_more (t : State) {n : Nat} (h : t.brx.record.expected = some (n + 2)) (i : Interval) (x : Byte) :
    t.bodyByte i x = t.setBrx { t.brx with
      record := { t.brx.record with bits := [], bytes := t.brx.record.bytes ++ [x], expected := some (n + 1) } } := by
  unfold State.bodyByte
  dsimp only
  rw [h]
  exact if_pos (by omega)

section

variable {s : State} {id : Interval} {N : Nat} (inside : Inside s id N) {φ : BitVec 4} {conv : Conv} {mark : Int} {q : List Capture}
include inside

/-- The first seven samples of a byte (R116). -/
theorem Inside.feed_bits {bytes : List Byte} {expected : Option Nat} (ys : List Bool) : ∀ (bits : List Bool) (k : Nat) (b : Brx),
    b.InBody conv mark bytes expected bits q → (bits ++ ys).length ≤ 7 → k + ys.length ≤ N →
    ∃ b', State.feed [bodyPhase expected] (sampled φ ys) (heard s k b) = heard s (k + ys.length) b' ∧
      b'.InBody conv mark bytes expected (bits ++ ys) q := by
  induction ys with
  | nil =>
    intro bits k b h _ _
    rw [List.append_nil]
    exact ⟨b, rfl, h⟩
  | cons y ys ih =>
    intro bits k b h hlen hk
    rw [List.length_cons] at hk
    have short : b.record.bits.length < 7 := by
      rw [h.bits]
      simp only [List.length_append, List.length_cons] at hlen
      omega
    have sample := inside.body_sample (by omega) h.hunt _
      ((heard s k b).bodySample_holds (x := { value := y, phase := φ }) short id)
    obtain ⟨b', fed, body⟩ := ih (bits ++ [y]) (k + 1) _
      (show Brx.InBody { b with previous := some y, record := { b.record with bits := b.record.bits ++ [y] } } conv mark bytes expected
        (bits ++ [y]) q from ⟨h.hunt, h.conv, h.mark, h.bytes, h.expected, by rw [h.bits], h.queue⟩)
      (by rwa [List.append_assoc]) (by omega)
    refine ⟨b', ?_, by rwa [List.append_assoc] at body⟩
    refine (inside.feed_cons (by omega) h.phase (by simp) _ _).trans ?_
    rw [sample, List.length_cons, show k + (ys.length + 1) = k + 1 + ys.length by omega]
    exact fed

/-- The samples of a byte up to its last (R116): with that one the byte is whole. -/
theorem Inside.feed_toLastBit {bytes : List Byte} {expected : Option Nat} {k : Nat} {b : Brx}
    (h : b.InBody conv mark bytes expected [] q) (x : Byte) (hk : k + 8 ≤ N) :
    ∃ y b' bits, State.feed [bodyPhase expected] (sampled φ (levelsOfByte conv x)) (heard s k b) =
        State.feed [bodyPhase expected] [{ value := y, phase := φ }] (heard s (k + 7) b') ∧
      b'.InBody conv mark bytes expected bits q ∧ bits.length = 7 ∧ byteOfSamples conv (bits ++ [y]) = x := by
  have long := length_levelsOfByte conv x
  have nonempty : levelsOfByte conv x ≠ [] := fun h => by rw [h] at long; cases long
  have split := List.dropLast_append_getLast nonempty
  have seven : (levelsOfByte conv x).dropLast.length = 7 := by rw [List.length_dropLast, long]
  obtain ⟨b', fed, body⟩ := inside.feed_bits (φ := φ) (levelsOfByte conv x).dropLast [] k b h
    (by rw [List.nil_append, seven]) (by omega)
  refine ⟨(levelsOfByte conv x).getLast nonempty, b', _, ?_, body, seven, ?_⟩
  · conv_lhs => rw [← split]
    rw [sampled_append, State.feed_append, fed, seven]
    rfl
  · rw [List.nil_append, split, byteOfSamples_levelsOfByte]

/-- A byte before the last (R117, R118), `step` saying what it makes of the body. -/
theorem Inside.feed_byte {bytes : List Byte} {expected expected' : Option Nat} {k : Nat} {b : Brx}
    (h : b.InBody conv mark bytes expected [] q) (x : Byte) (hk : k + 8 ≤ N)
    (step : ∀ t : State, t.brx.record.expected = expected → t.bodyByte id x = t.setBrx { t.brx with
      record := { t.brx.record with bits := [], bytes := t.brx.record.bytes ++ [x], expected := expected' } }) :
    ∃ b', State.feed [bodyPhase expected] (sampled φ (levelsOfByte conv x)) (heard s k b) = heard s (k + 8) b' ∧
      b'.InBody conv mark (bytes ++ [x]) expected' [] q := by
  obtain ⟨y, b₁, bits, fed, body, seven, whole⟩ := inside.feed_toLastBit (φ := φ) h x hk
  have byte : byteOfSamples b₁.record.conv (b₁.record.bits ++ [y]) = x := by rw [body.conv, body.bits, whole]
  have taken := ((heard s (k + 7) b₁).bodySample_byte (x := { value := y, phase := φ })
    (by show b₁.record.bits.length = 7; rw [body.bits, seven]) id).trans
      ((congrArg (State.bodyByte _ id) byte).trans (step _ body.expected))
  refine ⟨{ b₁ with previous := some y, record := { b₁.record with bits := [], bytes := b₁.record.bytes ++ [x], expected := expected' } },
    ?_, ⟨body.hunt, body.conv, body.mark, ?_, rfl, rfl, body.queue⟩⟩
  · refine fed.trans ((inside.feed_cons (by omega) body.phase (by simp) _ _).trans ?_)
    exact congrArg (State.feed [bodyPhase expected] []) (inside.body_sample (by omega) body.hunt _ taken)
  · show b₁.record.bytes ++ [x] = _
    rw [body.bytes]

/-- KIND_BYTE over an accepted kind byte (R117). -/
theorem Inside.feed_kindByte {k : Nat} {b : Brx} (h : b.InBody conv mark [] none [] q) {x : Byte} {kind : BurstKind}
    (hx : kindOf x = some kind) (hk : k + 8 ≤ N) :
    ∃ b', State.feed [.kind] (sampled φ (levelsOfByte conv x)) (heard s k b) = heard s (k + 8) b' ∧
      b'.InBody conv mark [x] (some (kind.payloadBytes + 2)) [] q :=
  inside.feed_byte h x hk fun t ht => by
    obtain ⟨-, known⟩ := t.bodyByte_kind ht id x
    exact known kind hx

/-- BURST_COMPLETE over the bytes before the last (R118). -/
theorem Inside.feed_bytes (l : List Byte) : ∀ (bytes : List Byte) (k : Nat) (b : Brx),
    b.InBody conv mark bytes (some (l.length + 1)) [] q → k + 8 * l.length ≤ N →
    ∃ b', State.feed [.rest] (sampled φ (l.flatMap (levelsOfByte conv))) (heard s k b) = heard s (k + 8 * l.length) b' ∧
      b'.InBody conv mark (bytes ++ l) (some 1) [] q := by
  induction l with
  | nil =>
    intro bytes k b h _
    rw [List.append_nil]
    exact ⟨b, rfl, h⟩
  | cons x l ih =>
    intro bytes k b h hk
    rw [List.length_cons] at hk
    obtain ⟨b₁, first, body⟩ := inside.feed_byte (φ := φ) (k := k) h x (by omega) fun t ht => t.bodyByte_more ht id x
    obtain ⟨b', fed, rest⟩ := ih (bytes ++ [x]) (k + 8) b₁ body (by omega)
    refine ⟨b', ?_, by rwa [List.append_assoc] at rest⟩
    rw [List.flatMap_cons, sampled_append, State.feed_append, List.length_cons,
      show k + 8 * (l.length + 1) = k + 8 + 8 * l.length by omega, ← fed]
    exact congrArg _ first

/-! ### The whole burst -/

omit inside in
/-- The hunt record of a complete burst whose check agrees (R118), and its capture (R122). -/
theorem HuntRecord.burst_parts {h : HuntRecord} {kindByte : Byte} {payload check : List Byte}
    (hb : h.bytes = (kindByte :: payload) ++ check) (hlen : check.length = 2)
    (hcheck : natLE check = (crc16 (kindByte :: payload)).toNat) (kind : BurstKind) (i : Interval) :
    h.checkOk = true ∧ byteAt h.bytes 0 = kindByte ∧ h.checked.drop 1 = payload ∧ h.capture kind i =
      { kind := kind, low := kindByte.toNat % 16, payload := payload, mark := h.mark, conv := h.conv, interval := i } := by
  have cut : h.bytes.length - 2 = (kindByte :: payload).length := by rw [hb, List.length_append, hlen, Nat.add_sub_cancel]
  have checked : h.checked = kindByte :: payload := by
    unfold HuntRecord.checked
    rw [cut, hb, List.take_left]
  have field : h.checkField = natLE check := by
    unfold HuntRecord.checkField
    rw [cut, hb, List.drop_left]
  have first : byteAt h.bytes 0 = kindByte := by
    rw [hb]
    rfl
  refine ⟨decide_eq_true (by rw [checked, field, hcheck]), first, by rw [checked]; rfl, ?_⟩
  unfold HuntRecord.capture kindLow
  rw [first, checked]
  rfl

/-- BURST_COMPLETE at the last byte of a valid burst with room for its capture (R118, R120 to R122). -/
theorem Inside.feed_lastByte {bytes : List Byte} {k : Nat} {b : Brx} (h : b.InBody conv mark bytes (some 1) [] q) {x kindByte : Byte}
    {payload check : List Byte} (hsplit : bytes ++ [x] = (kindByte :: payload) ++ check) (hk : k + 8 ≤ N) {kind : BurstKind}
    (hkind : kindOf kindByte = some kind) (hlen : check.length = 2) (hcheck : natLE check = (crc16 (kindByte :: payload)).toNat)
    (hresp : respOk kind payload = true) (hexpects : kind = id.expects)
    (hsender : ∀ n ct j i o, id = .slot n ct j i o → (byteAt payload 0).toNat = i.val + 1) (hq : q.length < 2) :
    ∃ b', State.feed [.rest] (sampled φ (levelsOfByte conv x)) (heard s k b) = heard s (k + 8) b' ∧
      b'.hunt = .preamble ∧ b'.run = 0 ∧ b'.queue = q ++
        [{ kind := kind, low := kindByte.toNat % 16, payload := payload, mark := mark, conv := conv, interval := id }] := by
  obtain ⟨y, b₁, bits, fed, body, seven, whole⟩ := inside.feed_toLastBit (φ := φ) h x hk
  have bytesAll : b₁.record.bytes ++ [byteOfSamples b₁.record.conv (b₁.record.bits ++ [y])] = (kindByte :: payload) ++ check := by
    rw [body.bytes, body.conv, body.bits, whole, hsplit]
  let r : HuntRecord := { b₁.record with
    bits := [], bytes := b₁.record.bytes ++ [byteOfSamples b₁.record.conv (b₁.record.bits ++ [y])], expected := some 1 }
  obtain ⟨agrees, first, carried, capture⟩ := HuntRecord.burst_parts (h := r) bytesAll hlen hcheck kind id
  rw [show r.mark = mark from body.mark, show r.conv = conv from body.conv] at capture
  rw [← first] at hkind
  rw [← carried] at hresp
  obtain ⟨-, good⟩ := execBurstComplete_last (s := heard s (k + 7) b₁) inside.armed (inside.intervalOver (by omega))
    { value := y, phase := φ } body.hunt body.expected (by show b₁.record.bits.length = 7; rw [body.bits, seven])
  obtain ⟨-, valid⟩ := good kind agrees hkind
  obtain ⟨-, -, -, kept⟩ := (heard s (k + 8)
    { b₁ with hunt := .preamble, run := 0, previous := some y, record := HuntRecord.empty }).queueCapture_cases
    { kind := kind, low := kindByte.toNat % 16, payload := payload, mark := mark, conv := conv, interval := id }
  have room : b₁.queue.length < 2 := by rw [body.queue]; exact hq
  refine ⟨_, fed.trans ((Host.Outcome.next.inj (valid hresp)).trans ((congrArg _ capture).trans (kept hexpects hsender room))), rfl, rfl, ?_⟩
  exact congrArg (· ++ _) body.queue

end

end Sys2Proof.Machine
end

section
set_option Elab.async false
/-! A burst as a terminal sends it, received whole (R112 to R122). -/

namespace Sys2Proof.Machine

open Sys2Proof.Safety

/-- BURST_COMPLETE over the payload and the check of a valid burst with room for its capture (R116 to R122). -/
theorem Inside.feed_rest {s : State} {id : Interval} {N : Nat} (inside : Inside s id N) {φ : BitVec 4} {conv : Conv} {mark : Int}
    {q : List Capture} {k : Nat} {b : Brx} {kindByte : Byte} {payload : List Byte} {kind : BurstKind}
    (h : b.InBody conv mark [kindByte] (some (kind.payloadBytes + 2)) [] q) (hkind : kindOf kindByte = some kind)
    (hlen : payload.length = kind.payloadBytes) (hresp : respOk kind payload = true) (hexpects : kind = id.expects)
    (hsender : ∀ n ct j i o, id = .slot n ct j i o → (byteAt payload 0).toNat = i.val + 1) (hq : q.length < 2)
    (hk : k + 8 * (payload.length + 2) ≤ N) :
    ∃ b', State.feed [.rest] (sampled φ ((payload ++ bytesLE 2 (crc16 (kindByte :: payload)).toNat).flatMap (levelsOfByte conv)))
        (heard s k b) = heard s (k + 8 * (payload.length + 2)) b' ∧ b'.hunt = .preamble ∧ b'.run = 0 ∧ b'.queue = q ++
          [{ kind := kind, low := kindByte.toNat % 16, payload := payload, mark := mark, conv := conv, interval := id }] := by
  obtain ⟨c0, c1, check⟩ : ∃ c0 c1, bytesLE 2 (crc16 (kindByte :: payload)).toNat = [c0, c1] := ⟨_, _, rfl⟩
  have agrees : natLE [c0, c1] = (crc16 (kindByte :: payload)).toNat := by
    rw [← check, natLE_bytesLE_two (crc16 (kindByte :: payload)).isLt]
  have long : (payload ++ [c0]).length = kind.payloadBytes + 1 := by rw [List.length_append, hlen]; rfl
  obtain ⟨b₁, before, body⟩ := inside.feed_bytes (φ := φ) (payload ++ [c0]) [kindByte] k b (by rw [long]; exact h) (by omega)
  obtain ⟨b', last, done⟩ := inside.feed_lastByte (φ := φ) (k := k + 8 * (payload ++ [c0]).length) body
    (show ([kindByte] ++ (payload ++ [c0])) ++ [c1] = (kindByte :: payload) ++ [c0, c1] by simp) (by omega) hkind rfl agrees hresp
    hexpects hsender hq
  refine ⟨b', ?_, done⟩
  rw [check, show payload ++ [c0, c1] = (payload ++ [c0]) ++ [c1] by simp, List.flatMap_append, sampled_append, State.feed_append,
    before, List.flatMap_singleton, last, show k + 8 * (payload ++ [c0]).length + 8 = k + 8 * (payload.length + 2) by omega]

end Sys2Proof.Machine

namespace Sys2Proof.Proofs

open Sys2Proof.Machine Sys2Proof.Safety

/-- Settles O43. -/
theorem burstReceived : Obligations.BurstReceived := by
  intro s id conv phase kindByte payload kind ha hh _ hp hconv hkind hlen hexpects hresp hsender hq xs hin
  obtain ⟨preamble, delimiter, kindPart, rest, long⟩ := burstSamples_parts conv phase kindByte payload
  have inside : Inside s id xs.length := ⟨ha, hin⟩
  have room : 80 + 8 * (payload.length + 3) = xs.length := long.symm
  obtain ⟨b₁, recognized, seeks, passed⟩ := inside.feed_preamble (φ := phase) hh hp (by omega)
  obtain ⟨b₂, compared, body⟩ := inside.feed_delimiterCompared seeks passed hconv (by omega)
  obtain ⟨b₃, accepted, kindTaken⟩ := inside.feed_kindByte (φ := phase) (k := 80) body hkind (by omega)
  obtain ⟨b₄, complete, hunt, run, queue⟩ := inside.feed_rest (φ := phase) (k := 88) kindTaken hkind hlen
    ((respOk_iff kind payload).2 hresp) hexpects hsender hq (by omega)
  rw [show 88 + 8 * (payload.length + 2) = xs.length by omega] at complete
  have fed : ∀ {ps l m t u}, l = m → State.feed ps m t = u → Host.Outcome.next (State.feed ps l t) = (.next u : Result) := by
    rintro _ _ _ _ _ rfl rfl
    rfl
  refine ⟨_, _, _, heard s xs.length b₄, fed preamble recognized, fed delimiter compared, fed kindPart accepted, fed rest complete, rfl,
    hunt, run, ?_⟩
  have mark : arrivalMark (s.ltu.since id.ref + 63) phase =
      16 * (160000 * (s.ltu.cycle - id.ref).toInt + (s.ltu.offset : Int)) + (phase.toNat : Int) + 1024 := by
    rw [← Ltu.since_eq]
    unfold arrivalMark
    ring
  rw [← mark]
  exact queue

end Sys2Proof.Proofs
end

section
set_option Elab.async false
/-! IMAGE_WRITE (R90, R91, R142, R143): the channels whose image a write touches, and the restart of each. -/

namespace Sys2Proof.Machine

open Sys2Proof.Safety

variable (s : State)

/-! ### Reads placed and marked -/

theorem State.chanRequests_set_self (ch : ChanIx) : s.bpt.chanRequests.set ch (s.chanRequest ch) = s.bpt.chanRequests :=
  Vector.set_getElem_self _

theorem State.setRequest_self {ch : ChanIx} {r : Option ReadRequest} (h : s.chanRequest ch = r) : s.setRequest ch r = s := by
  unfold State.setRequest
  rw [← h, State.chanRequests_set_self]

/-- A channel places its read unless one still waits (R148). -/
theorem State.placeRead_eq (ch : ChanIx) :
    s.placeRead ch = s.setRequest ch (some ((s.chanRequest ch).getD (readAt (s.chan ch).pos))) := by
  rcases h : s.chanRequest ch with _ | r
  · exact s.placeRead_of_none h
  · unfold State.placeRead
    rw [h]
    exact (s.setRequest_self h).symm

/-- A read still queued is marked for discard (R90). -/
theorem State.dropRead_eq (ch : ChanIx) : s.dropRead ch = s.setRequest ch (droppedRead (s.chanRequest ch)) := by
  unfold State.dropRead
  rcases h : s.chanRequest ch with _ | r
  · exact (s.setRequest_self h).symm
  · rfl

/-! ### A pre-scan begun again -/

/-- A channel that pre-scans entry `e` from its first byte, or has found its range outside the image area (R78, R91). -/
def Channel.rescanned (c : Channel) (e : DirEntry) : Channel :=
  { c with
    stage := if e.inImageArea then .scanning else .reported .imageFailed
    blocks := 0, current := 0, retries := 0, bufA := .empty, bufB := .empty, pos := e.offset.toNat
    item := .idle, next := 0, scanLen := 0, scanSum := 0 }

/-- The pre-scan of an entry that is not empty (R78): its read is placed, or the push ends at once. -/
theorem State.startScan_eq {ch : ChanIx} {e : DirEntry} (he : s.dirEntry (s.chan ch).dir = e) (h0 : e.length ≠ 0) :
    s.startScan ch = { s with
      pex := { s.pex with
        chans := s.pex.chans.set ch ((s.chan ch).rescanned e)
        reports := if e.inImageArea then s.pex.reports else s.pex.reports ++ [{ index := (s.chan ch).index, chan := ch }] }
      bpt := { s.bpt with
        chanRequests := s.bpt.chanRequests.set ch
          (if e.inImageArea then some ((s.chanRequest ch).getD (readAt e.offset.toNat)) else s.chanRequest ch) } } := by
  unfold State.startScan
  dsimp only
  rw [he, if_neg h0]
  cases ha : e.inImageArea
  · rw [if_neg Bool.false_ne_true]
    unfold State.reportPush
    rw [State.chan_setChan_same]
    simp [State.setChan, Channel.rescanned, ha, State.chanRequests_set_self]
  · rw [if_pos rfl, State.placeRead_eq, State.chan_setChan_same]
    simp [State.setChan, Channel.rescanned, ha, State.setRequest]
    rfl

/-! ### A channel restarted -/

/-- The IMAGE event of a channel (R91). -/
def State.imageEvent (ch : ChanIx) : Raise :=
  { kind := .image, index := BitVec.ofNat 8 (s.chan ch).index.val, detail0 := BitVec.ofNat 8 (s.chan ch).dir.val
    detail1 := 0, value := (s.record (s.chan ch).index).tag }

/-- `s` with the booking of channel `ch`, if its block is SENT, a void (R91, R107). -/
def State.bookingDropped (ch : ChanIx) : State :=
  match (s.chan ch).stage with
  | .sent _ _ n => answered s n
  | _ => s

theorem State.bookingDropped_sent {ch : ChanIx} {ct : Cycle} {j n : Nat} (h : (s.chan ch).stage = .sent ct j n) :
    s.bookingDropped ch = answered s n := by
  unfold State.bookingDropped
  rw [h]

theorem State.bookingDropped_unsent {ch : ChanIx} (h : ∀ ct j n, (s.chan ch).stage ≠ .sent ct j n) : s.bookingDropped ch = s := by
  unfold State.bookingDropped
  split
  · next ct j n hs => exact absurd hs (h ct j n)
  · rfl

/-- What a restart has done before its pre-scan begins (R90, R91). -/
def State.pushDropped (ch : ChanIx) : State :=
  { s with
    evw := (s.raise (s.imageEvent ch)).evw
    counters := (s.raise (s.imageEvent ch)).counters
    dsq := { s.dsq with
      reply := s.dsq.reply.filter (fun m => !(decide (m.index = (s.chan ch).index) && decide (m.kind = .profileBlock))) }
    ltu := (s.bookingDropped ch).ltu
    brx := (s.bookingDropped ch).brx
    records := s.records.set (s.chan ch).index { s.record (s.chan ch).index with blocksAcked := 0 }
    bpt := { s.bpt with chanRequests := s.bpt.chanRequests.set ch (droppedRead (s.chanRequest ch)) } }

theorem State.restartChannel_eq (ch : ChanIx) : s.restartChannel ch = (s.pushDropped ch).startScan ch := by
  unfold State.restartChannel
  dsimp only
  rw [State.dropRead_eq]
  refine congrArg (State.startScan · ch) ?_
  rw [State.raise_eq]
  unfold State.pushDropped
  by_cases hs : ∃ ct j n, (s.chan ch).stage = .sent ct j n
  · obtain ⟨ct, j, n, hs⟩ := hs
    rw [s.bookingDropped_sent hs, hs]
    dsimp only
    rw [State.voidIdent_eq]
    rfl
  · rw [s.bookingDropped_unsent fun ct j n h => hs ⟨ct, j, n, h⟩]
    split
    · next ct j n h => exact absurd ⟨ct, j, n, h⟩ hs
    · rfl

/-- A range within the image area, its bounds written out (R78). -/
theorem DirEntry.inImageArea_iff (e : DirEntry) :
    e.inImageArea = true ↔ 13312 ≤ e.offset.toNat ∧ e.offset.toNat + e.length.toNat ≤ 65536 := by
  unfold DirEntry.inImageArea DirEntry.past
  rw [Bool.and_eq_true, decide_eq_true_eq, decide_eq_true_eq]

/-- A rescanned channel is SCANNING exactly where its range lies in the image area. -/
theorem Channel.rescanned_scanning (c : Channel) (e : DirEntry) : (c.rescanned e).stage = .scanning ↔ e.inImageArea = true := by
  unfold Channel.rescanned
  cases e.inImageArea <;> simp

/-- A channel whose entry is not empty restarts as R90 and R91 say. -/
theorem State.restartChannel_restarted {ch : ChanIx} (h0 : (s.dirEntry (s.chan ch).dir).length ≠ 0) :
    Restarted s (s.restartChannel ch) ch := by
  have heq := (s.restartChannel_eq ch).trans (State.startScan_eq (s.pushDropped ch) (e := s.dirEntry (s.chan ch).dir) rfl h0)
  have left : (s.pushDropped ch).chanRequest ch = droppedRead (s.chanRequest ch) := Vector.getElem_set_self _
  have chan : (s.restartChannel ch).chan ch = (s.chan ch).rescanned (s.dirEntry (s.chan ch).dir) := by
    rw [heq]
    exact Vector.getElem_set_self _
  have request : (s.restartChannel ch).chanRequest ch = if (s.dirEntry (s.chan ch).dir).inImageArea then
      some ((droppedRead (s.chanRequest ch)).getD (readAt (s.dirEntry (s.chan ch).dir).offset.toNat))
      else droppedRead (s.chanRequest ch) := by
    rw [heq, ← left]
    exact Vector.getElem_set_self _
  have ltu : (s.restartChannel ch).ltu = (s.bookingDropped ch).ltu := by rw [heq]; rfl
  have brx : (s.restartChannel ch).brx = (s.bookingDropped ch).brx := by rw [heq]; rfl
  exact {
    event := by rw [heq]; exact ⟨rfl, rfl⟩
    dsq := by rw [heq]; rfl
    records := by rw [heq]; rfl
    sent := fun ct j n hs => by
      rw [ltu, brx, s.bookingDropped_sent hs]
      exact ⟨rfl, rfl⟩
    unsent := fun hs => by
      rw [ltu, brx, s.bookingDropped_unsent hs]
      exact ⟨rfl, rfl⟩
    channel := by
      rw [chan]
      simp only [Channel.rescanned, DirEntry.inImageArea_iff]
    others := fun k hk => by
      have hne : ch.val ≠ k.val := fun e => hk (Fin.ext e.symm)
      have below := ch.isLt
      rw [heq]
      exact ⟨Vector.getElem_set_ne below k.isLt hne,
        (Vector.getElem_set_ne below k.isLt hne).trans (Vector.getElem_set_ne below k.isLt hne)⟩
    queued := fun r hr => by
      rw [request, hr]
      exact ite_self _
    placed := fun hr => by
      rw [request, chan, hr]
      simp only [Channel.rescanned_scanning]
      rfl
    reports := by
      rw [chan]
      simp only [Channel.rescanned_scanning]
      rw [heq]
      rfl
    kept := by rw [heq]; exact ⟨rfl, rfl, rfl, rfl, rfl, rfl, rfl, rfl, rfl⟩ }

/-! ### The channels a write touches -/

/-- A write enables a byte of an entry's image range (R91). -/
theorem DirEntry.touchedBy_iff (e : DirEntry) (w : WinWord) (be : Enables) : e.touchedBy w be = true ↔
    ∃ k < 4, be.getLsbD k = true ∧ e.offset.toNat ≤ 4 * w.toNat + k ∧ 4 * w.toNat + k < e.offset.toNat + e.length.toNat := by
  unfold DirEntry.touchedBy
  rw [show [0, 1, 2, 3] = List.range 4 from rfl, List.any_eq_true]
  simp only [List.mem_range, Bool.and_eq_true, decide_eq_true_eq, and_assoc]
  rfl

/-- Channel `ch` uses an entry whose image range the write touches (R91). -/
def State.touches (w : WinWord) (be : Enables) (ch : ChanIx) : Bool :=
  (s.chan ch).uses (s.chan ch).dir && (s.dirEntry (s.chan ch).dir).touchedBy w be

theorem State.touches_iff (w : WinWord) (be : Enables) (ch : ChanIx) : s.touches w be ch = true ↔
    (s.chan ch).stage ≠ .free ∧ ∃ k < 4, be.getLsbD k = true ∧ (s.dirEntry (s.chan ch).dir).offset.toNat ≤ 4 * w.toNat + k ∧
      4 * w.toNat + k < (s.dirEntry (s.chan ch).dir).offset.toNat + (s.dirEntry (s.chan ch).dir).length.toNat := by
  unfold State.touches Channel.uses
  rw [Bool.and_eq_true, DirEntry.touchedBy_iff]
  simp

/-- An entry with a byte in its range is not empty. -/
theorem State.length_ne_zero_of_touches {w : WinWord} {be : Enables} {ch : ChanIx} (h : s.touches w be ch = true) :
    (s.dirEntry (s.chan ch).dir).length ≠ 0 := by
  obtain ⟨-, k, -, -, low, high⟩ := (s.touches_iff w be ch).1 h
  intro h0
  rw [h0] at high
  simp at high
  omega

/-- A restart leaves it as it was whether a write touches another channel. -/
theorem touches_of_restarted {s t : State} {ch k : ChanIx} (h : Restarted s t ch) (hk : k ≠ ch) (w : WinWord) (be : Enables) :
    t.touches w be k = s.touches w be k := by
  obtain ⟨dir, -⟩ := h.kept
  obtain ⟨chan, -⟩ := h.others k hk
  unfold State.touches State.dirEntry
  rw [chan, dir]

/-- Along a list of channels without repeats those touched restart, one after another (R91). -/
theorem restartedAll_foldl (w : WinWord) (be : Enables) (l : List ChanIx) (hl : l.Nodup) : ∀ s : State,
    RestartedAll (l.filter (s.touches w be)) s
      (l.foldl (fun t ch => if t.touches w be ch then t.restartChannel ch else t) s) := by
  induction l with
  | nil => exact fun s => rfl
  | cons ch l ih =>
    intro s
    obtain ⟨hch, hl⟩ := List.nodup_cons.1 hl
    rw [List.foldl_cons, List.filter_cons]
    cases ht : s.touches w be ch with
    | false => exact ih hl s
    | true =>
      have restarted := s.restartChannel_restarted (s.length_ne_zero_of_touches ht)
      have same : l.filter ((s.restartChannel ch).touches w be) = l.filter (s.touches w be) :=
        List.filter_congr fun k hk => touches_of_restarted restarted (fun e => hch (e ▸ hk)) w be
      exact ⟨s.restartChannel ch, restarted, same ▸ ih hl (s.restartChannel ch)⟩

theorem State.imageTouched_restarts {w : WinWord} {be : Enables} {chs : List ChanIx} (hsort : chs.Pairwise (fun a b => a < b))
    (hmem : ∀ ch, ch ∈ chs ↔ s.touches w be ch = true) : RestartedAll chs s (s.imageTouched w be) := by
  have all : chs = allChannels.filter (s.touches w be) :=
    hsort.eq_of_mem_iff ((List.pairwise_lt_finRange 4).filter _) fun ch => by
      rw [hmem, List.mem_filter]
      exact (and_iff_right (List.mem_finRange ch)).symm
  rw [all]
  exact restartedAll_foldl w be allChannels (List.nodup_finRange 4) s

/-! ### The access -/

/-- No word of the image area is one that the part holds (R140) or that the load reads (R160). -/
theorem image_beyond {w : WinWord} (hw : 3328 ≤ w.toNat) :
    decide (w.toNat < 128) = false ∧ isRecordWord w = false ∧ loadStep w.toNat = none := by
  refine ⟨decide_eq_false (by omega), ?_, ?_⟩
  · unfold isRecordWord
    rw [decide_eq_false (show ¬w.toNat < 2304 by omega), Bool.and_false]
  · unfold loadStep
    rw [if_neg (by omega), if_neg (by omega), if_neg (by omega), if_neg (by omega), if_neg (by omega)]

/-- An image word written ends no snapshot (R145, R146). -/
theorem State.endSnapshots_image {w : WinWord} (hw : 3328 ≤ w.toNat) : s.endSnapshots w = s := by
  obtain ⟨header, record, -⟩ := image_beyond hw
  unfold State.endSnapshots
  rw [header, record]
  simp only [Bool.not_false, Bool.and_true, Bool.false_and]

/-- A write that enables no byte is offered to nobody (R142). -/
theorem State.offerWrite_disabled (w : WinWord) (data : Word) : s.offerWrite w data 0 = s := by
  unfold State.offerWrite
  exact if_pos rfl

/-- An image word written with some byte enabled is offered to the channels (R91, R142). -/
theorem State.offerWrite_image {w : WinWord} (hw : 3328 ≤ w.toNat) (data : Word) {be : Enables} (hbe : be ≠ 0) :
    s.offerWrite w data be = s.imageTouched w be := by
  unfold State.offerWrite
  dsimp only
  rw [if_neg hbe, if_neg (by omega), if_neg (by omega), if_neg (by omega), if_neg (by omega), if_neg (by omega), if_neg (by omega)]

/-- A write that enables no byte touches no channel. -/
theorem State.touches_none (w : WinWord) (ch : ChanIx) : s.touches w 0 ch = false := by
  rw [← Bool.not_eq_true, State.touches_iff]
  rintro ⟨-, k, -, hb, -⟩
  simp at hb

theorem State.offerWrite_restarts {w : WinWord} (hw : 3328 ≤ w.toNat) (data : Word) {be : Enables} {chs : List ChanIx}
    (hsort : chs.Pairwise (fun a b => a < b)) (hmem : ∀ ch, ch ∈ chs ↔ s.touches w be ch = true) :
    RestartedAll chs s (s.offerWrite w data be) := by
  by_cases hbe : be = 0
  · subst hbe
    obtain rfl : chs = [] := List.eq_nil_iff_forall_not_mem.2 fun ch hch => by
      rw [hmem, State.touches_none] at hch
      cases hch
    exact (s.offerWrite_disabled w data).symm
  · rw [s.offerWrite_image hw data hbe]
    exact s.imageTouched_restarts hsort hmem

/-- In OFF and LOADING a write of an image word passes to SRAM alone (R143). -/
theorem State.imageWrite_plain {w : WinWord} (hw : 3328 ≤ w.toNat) (data : Word) (be : Enables) (hold : s.holdDue = false)
    (ho : s.pct.port.overlay = false) : s.accessWord w data be = written s (s.busAddr w) data be := by
  obtain ⟨-, -, unread⟩ := image_beyond hw
  have untaken : (written s (s.busAddr w) data be).loadHasRead w = false := by
    unfold State.loadHasRead
    rw [unread]
    rcases (written s (s.busAddr w) data be).pct.load <;> rfl
  rw [s.accessWord_eq w data be hold]
  unfold State.windowWrite
  rw [show (written s (s.busAddr w) data be).pct.port.overlay = false from ho, untaken]
  rfl

theorem State.imageWrite_overlay {w : WinWord} (hw : 3328 ≤ w.toNat) (data : Word) (be : Enables) (hold : s.holdDue = false)
    (ho : s.pct.port.overlay = true) : s.accessWord w data be = (written s (s.busAddr w) data be).offerWrite w data be := by
  rw [s.accessWord_eq w data be hold, State.windowWrite_overlay (written s _ _ _) w data be ho, State.endSnapshots_image _ hw]

end Sys2Proof.Machine

namespace Sys2Proof.Proofs

open Sys2Proof.Machine Sys2Proof.Safety

/-- Settles O22. -/
theorem imageWrite : Obligations.ImageWrite := by
  intro s w data be hold hw touched
  have restarts : ∀ chs : List ChanIx, s.pct.port ≠ .off → s.pct.port ≠ .loading → chs.Pairwise (fun a b => a < b) →
      (∀ ch, ch ∈ chs ↔ touched ch) →
      ∃ t, exec (.imageWrite w data be) s = .next t ∧ RestartedAll chs (written s (s.busAddr w) data be) t :=
    fun chs h1 h2 hsort hmem =>
      ⟨_, congrArg Host.Outcome.next (s.imageWrite_overlay hw data be hold (PortState.overlay_of_ne ⟨h1, h2⟩)),
      State.offerWrite_restarts _ hw data hsort fun ch => (hmem ch).trans (s.touches_iff w be ch).symm⟩
  refine ⟨fun h => ?_, restarts⟩
  by_cases hport : s.pct.port = .off ∨ s.pct.port = .loading
  · exact congrArg Host.Outcome.next (s.imageWrite_plain hw data be hold (by rcases hport with h | h <;> rw [h] <;> rfl))
  · obtain ⟨h1, h2⟩ := not_or.1 hport
    have untouched : ∀ ch, ¬touched ch := (h.resolve_left h1).resolve_left h2
    obtain ⟨t, ht, rfl⟩ := restarts [] h1 h2 List.Pairwise.nil fun ch => iff_of_false List.not_mem_nil (untouched ch)
    exact ht

end Sys2Proof.Proofs
end

section
set_option Elab.async false
/-! The expander of a channel at a refill (R83): what a run of it keeps, and what it does with no image byte at hand. -/

namespace Sys2Proof.Machine

open Sys2Proof.Safety

namespace Channel

variable {c : Channel} {past : Nat} {bs bytes : List Byte}

/-! ### What a run of the expander keeps -/

theorem buffer_of_parity (c : Channel) {j k : Nat} (h : j % 2 = k % 2) : c.buffer j = c.buffer k := by
  unfold buffer
  rw [h]

theorem buffer_setBuffer_other (c : Channel) {j k : Nat} (b : Buffer) (h : j % 2 ≠ k % 2) : (c.setBuffer k b).buffer j = c.buffer j := by
  rcases Nat.mod_two_eq_zero_or_one k with hk | hk
  · exact (buffer_of_parity _ (show j % 2 = (k + 1) % 2 by omega)).trans
      ((c.buffer_setBuffer_succ k b).trans (c.buffer_of_parity (by omega)))
  · obtain ⟨k, rfl⟩ : ∃ m, k = m + 1 := ⟨k - 1, by omega⟩
    exact (buffer_of_parity _ (show j % 2 = k % 2 by omega)).trans
      ((c.buffer_setBuffer_pred k b).trans (c.buffer_of_parity (by omega)))

/-- What a step of the expander is (R83): it stops, or it changes the next buffer, which is not FULL, cutting its block or not. -/
inductive StepKind (c : Channel) : FillStep → Prop where
  | stop (w : Bool) : StepKind c (.stop c w)
  | fills (p : Nat) (it : ImageItem) (b : Buffer) (rest : List Byte) (h : (c.buffer c.next).isFull = false) :
    StepKind c (.go (c.advance p it c.next b) rest)
  | cuts (xs rest : List Byte) (h : (c.buffer c.next).isFull = false) : StepKind c (.go (c.cutAt c.pos c.item xs) rest)

theorem stepKind (c : Channel) (past : Nat) (bytes : List Byte) : c.StepKind (c.fillStep past bytes) := by
  cases hb : c.buffer c.next with
  | full k last xs => exact c.fillStep_full hb ▸ .stop false
  | empty =>
    rw [fillStep_empty hb]
    split
    · exact .fills _ _ _ _ (by rw [hb]; rfl)
    · exact .stop false
  | filling xs =>
    have unfull : (c.buffer c.next).isFull = false := by rw [hb]; rfl
    unfold fillStep
    rw [hb]
    dsimp only
    split
    · exact c.cut_eq_cutAt xs ▸ .cuts xs bytes unfull
    · cases c.item with
      | repeating v n =>
        dsimp only
        rw [emit_eq_advance]
        exact .fills _ _ _ _ unfull
      | literal n =>
        cases bytes with
        | nil => exact .stop true
        | cons b rest =>
          dsimp only
          rw [emit_eq_advance]
          exact .fills (c.pos + 1) _ _ rest unfull
      | awaitValue n =>
        cases bytes with
        | nil => exact .stop true
        | cons b rest =>
          dsimp only
          rw [advance_of_filling hb]
          exact .fills _ _ _ _ unfull
      | idle =>
        dsimp only
        split
        · exact c.cut_eq_cutAt xs ▸ .cuts xs bytes unfull
        · cases bytes with
          | nil => exact .stop true
          | cons b rest =>
            dsimp only
            rw [advance_of_filling hb]
            exact .fills _ _ _ _ unfull

/-- What a run of the expander keeps (R83): the channel's work and stage, and every buffer that is FULL. -/
structure Expanded (c c' : Channel) : Prop where
  same : SameWork c c'
  stage : c'.stage = c.stage
  full : ∀ k, (c.buffer k).isFull = true → c'.buffer k = c.buffer k

theorem expanded_refl (c : Channel) : Expanded c c := ⟨rfl, rfl, fun _ _ => rfl⟩

theorem Expanded.trans {a b d : Channel} (h : Expanded a b) (k : Expanded b d) : Expanded a d :=
  ⟨h.same.trans k.same, k.stage.trans h.stage, fun j hj =>
    have hb := h.full j hj
    (k.full j (hb ▸ hj)).trans hb⟩

/-- A buffer changed that is not FULL leaves the FULL ones. -/
theorem expanded_advance (h : (c.buffer c.next).isFull = false) (p : Nat) (it : ImageItem) (b : Buffer) :
    Expanded c (c.advance p it c.next b) :=
  ⟨c.sameWork_advance _ _ _ _, c.advance_stage _ _ _ _, fun k hk => c.buffer_setBuffer_other b fun e => by
    rw [c.buffer_of_parity e, h] at hk
    cases hk⟩

theorem expanded_cutAt (h : (c.buffer c.next).isFull = false) (p : Nat) (it : ImageItem) (xs : List Byte) : Expanded c (c.cutAt p it xs) :=
  ⟨c.sameWork_cutAt _ _ _, c.cutAt_stage _ _ _, (expanded_advance h p it (fullBlock c.blocks c.next xs)).full⟩

theorem fill_expanded (past fuel : Nat) (c : Channel) (bytes : List Byte) : Expanded c (c.fill past fuel bytes).1 := by
  induction fuel generalizing c bytes with
  | zero => exact c.expanded_refl
  | succ fuel ih =>
    have kind := c.stepKind past bytes
    rw [fill_succ]
    generalize c.fillStep past bytes = step at kind
    cases kind with
    | stop w => exact c.expanded_refl
    | fills p it b rest h => exact (expanded_advance h p it b).trans (ih _ rest)
    | cuts xs rest h => exact (expanded_cutAt h _ _ xs).trans (ih _ rest)

/-! ### No image byte at hand -/

theorem advance_buffer_next (c : Channel) (p : Nat) (it : ImageItem) (b : Buffer) :
    (c.advance p it c.next b).buffer (c.advance p it c.next b).next = b := by
  rw [advance_next, advance_buffer_same]

/-- What is left of a repeat of `v` with `n` bytes still to emit: nothing where `n` is 0 (R77). -/
def repeatLeft (v : Byte) (n : Nat) : ImageItem := if n = 0 then .idle else .repeating v n

theorem fillStep_repeatLeft {v : Byte} {n : Nat} (hb : c.buffer c.next = .filling bs) (hlen : bs.length < 16)
    (hi : c.item = repeatLeft v (n + 1)) :
    c.fillStep past bytes = .go (c.advance c.pos (repeatLeft v n) c.next (.filling (bs ++ [v]))) bytes := by
  have left : (if n + 1 ≤ 1 then .idle else .repeating v n) = repeatLeft v n := by
    unfold repeatLeft
    by_cases h : n = 0 <;> simp [h]
  rw [repeatLeft, if_neg (Nat.succ_ne_zero n)] at hi
  unfold fillStep
  rw [hb, hi]
  dsimp only
  rw [if_neg (Nat.not_le.2 hlen), Nat.add_sub_cancel, left, emit_eq_advance]

/-- A repeat gives `k` bytes to a buffer that has room for them. -/
theorem fill_repeatLeft {v : Byte} {n fuel : Nat} (k : Nat) (hb : c.buffer c.next = .filling bs) (hlen : bs.length + k ≤ 16)
    (hi : c.item = repeatLeft v (n + k)) :
    c.fill past (fuel + k) bytes =
      (c.advance c.pos (repeatLeft v n) c.next (.filling (bs ++ List.replicate k v))).fill past fuel bytes := by
  induction k generalizing c bs with
  | zero =>
    rw [Nat.add_zero] at hi
    rw [List.replicate_zero, List.append_nil, ← hi, ← hb, advance_self, Nat.add_zero]
  | succ k ih =>
    rw [← Nat.add_assoc] at hi ⊢
    rw [fill_of_go (fillStep_repeatLeft hb (by omega) hi), ih (c.advance_buffer_next _ _ _) (by simp; omega) (c.advance_item _ _ _ _),
      advance_next, advance_advance, List.append_assoc]
    rfl

/-- A buffer that holds 16 bytes, or the last of the image, is cut, and the expander stops at the FULL buffer after it (R83). -/
theorem fill_cut {fuel : Nat} (hb : c.buffer c.next = .filling bs) (hend : 16 ≤ bs.length ∨ (c.item = .idle ∧ past ≤ c.pos))
    (hother : (c.buffer (c.next + 1)).isFull = true) : c.fill past (fuel + 2) bytes = (c.cutAt c.pos c.item bs, false) := by
  have hstep : c.fillStep past bytes = .go (c.cutAt c.pos c.item bs) bytes := by
    rw [← cut_eq_cutAt]
    unfold fillStep
    rw [hb]
    dsimp only
    by_cases hlen : 16 ≤ bs.length
    · rw [if_pos hlen]
    · obtain ⟨hi, hp⟩ := hend.resolve_left hlen
      rw [if_neg hlen, hi]
      exact if_pos hp
  obtain ⟨k, last, xs, hfull⟩ : ∃ k last xs, c.buffer (c.next + 1) = .full k last xs := by
    generalize c.buffer (c.next + 1) = b at hother
    cases b with
    | full k last xs => exact ⟨k, last, xs, rfl⟩
    | empty => cases hother
    | filling xs => cases hother
  rw [fill_of_go hstep]
  exact fill_of_stop (Nat.succ_pos _) (fillStep_full ((c.cutAt_buffer_succ _ _ _).trans hfull))

/-! ### A refill -/

section Refill

variable (hempty : c.buffer c.next = .empty) (hother : (c.buffer (c.next + 1)).isFull = true)

include hempty

/-- With no block left to cut the expander stays where it is. -/
theorem refill_none {fuel : Nat} (h : c.blocks ≤ c.next) : c.fill past (fuel + 1) [] = (c, false) :=
  fill_of_stop fuel.succ_pos (fillStep_unfilled (.inr ⟨hempty, h⟩))

/-- With a block left to cut the buffer begins to fill. -/
theorem refill_begins {fuel : Nat} (h : c.next < c.blocks) :
    c.fill past (fuel + 1) [] = (c.advance c.pos c.item c.next (.filling [])).fill past fuel [] := by
  have hstep := fillStep_empty (past := past) hempty []
  rw [if_pos h] at hstep
  exact fill_of_go hstep

/-- An item that needs an image byte wants the word of it. -/
theorem refill_wants {fuel : Nat} (h : c.next < c.blocks) (hrep : ∀ v n, c.item ≠ .repeating v n)
    (hidle : c.item = .idle → c.pos < past) :
    c.fill past (fuel + 2) [] = (c.advance c.pos c.item c.next (.filling []), true) := by
  rw [refill_begins hempty h]
  exact fill_of_stop fuel.succ_pos (fillStep_starved (c.advance_buffer_next _ _ _) (by decide) hrep hidle)

/-- A repeat gives `k` of its bytes at once. -/
theorem refill_gives {fuel : Nat} (h : c.next < c.blocks) {v : Byte} {n k : Nat} (hk : k ≤ 16) (hi : c.item = repeatLeft v (n + k)) :
    c.fill past (fuel + k + 1) [] =
      (c.advance c.pos (repeatLeft v n) c.next (.filling (List.replicate k v))).fill past fuel [] := by
  rw [refill_begins hempty h, fill_repeatLeft k (c.advance_buffer_next _ _ _) (by simpa using hk) hi, advance_next, advance_advance,
    advance_pos, List.nil_append]

/-- A repeat whose bytes do not fill the block leaves it wanting the next image byte, where the image has one. -/
theorem refill_gives_wants {fuel : Nat} (h : c.next < c.blocks) {v : Byte} {k : Nat} (hk : k < 16) (hi : c.item = repeatLeft v k)
    (hpos : c.pos < past) (hfuel : k + 2 ≤ fuel) :
    c.fill past fuel [] = (c.advance c.pos .idle c.next (.filling (List.replicate k v)), true) := by
  obtain ⟨fuel, rfl⟩ : ∃ m, fuel = m + 1 + k + 1 := ⟨fuel - k - 2, by omega⟩
  rw [refill_gives hempty h hk.le ((Nat.zero_add k).symm ▸ hi)]
  exact fill_of_stop fuel.succ_pos (fillStep_starved (c.advance_buffer_next _ _ _) (by simpa using hk) (fun v n => ImageItem.noConfusion)
    fun _ => hpos)

include hother

/-- A repeat that fills the block, or with which the image ends, has it cut, and the expander stops at the FULL buffer after it. -/
theorem refill_gives_cut {fuel : Nat} (h : c.next < c.blocks) {v : Byte} {n k : Nat} (hk : k ≤ 16) (hi : c.item = repeatLeft v (n + k))
    (hend : k = 16 ∨ (n = 0 ∧ past ≤ c.pos)) (hfuel : k + 3 ≤ fuel) :
    c.fill past fuel [] = (c.cutAt c.pos (repeatLeft v n) (List.replicate k v), false) := by
  obtain ⟨fuel, rfl⟩ : ∃ m, fuel = m + 2 + k + 1 := ⟨fuel - k - 3, by omega⟩
  have room : 16 ≤ (List.replicate k v).length ∨ (repeatLeft v n = .idle ∧ past ≤ c.pos) :=
    hend.imp (fun h => by simp [h]) fun ⟨h0, hp⟩ => ⟨if_pos h0, hp⟩
  have cut := fill_cut (c := c.advance c.pos (repeatLeft v n) c.next (.filling (List.replicate k v))) (fuel := fuel) (bytes := [])
    (c.advance_buffer_next _ _ _) room (by rwa [advance_next, advance_buffer_succ])
  rw [refill_gives hempty h hk hi, cut, advance_cutAt]
  rfl

end Refill

end Channel

end Sys2Proof.Machine
end

section
set_option Elab.async false
/-! BLOCK_REPLY (R83, R86, R87, R89, R107, R123): the channel a reply answers, the block acknowledged, and the refill of its buffer. -/

namespace Sys2Proof.Machine

open Sys2Proof.Safety

variable (s : State)

/-! ### The channel a reply answers -/

theorem Capture.isBlockReply_eq : Capture.isBlockReply = fun b => decide (b.kind = .status ∧ (b.low = 1 ∨ b.low = 2)) := by
  funext b
  unfold Capture.isBlockReply
  rw [← Bool.decide_or, ← Bool.decide_and]

/-- BLOCK_REPLY with no ACK or NAK waiting (log 1). -/
theorem execBlockReply_none (h : ∀ b ∈ s.brx.queue, b.isBlockReply = false) : execBlockReply s = .next s := by
  unfold execBlockReply
  rw [s.oldestCapture_none h]

/-- BLOCK_REPLY with an ACK or NAK waiting (R123). -/
theorem execBlockReply_some {c : Capture} {before after : List Capture} (h : OldestIs s Capture.isBlockReply c before after) :
    execBlockReply s = .next ((taken s before after).handleBlockReply c) := by
  obtain ⟨found, left⟩ := s.oldestCapture_taken h
  unfold execBlockReply
  rw [found, ← left]

/-- A reply whose slot no channel is SENT in is a stray (R86). -/
theorem State.handleBlockReply_stray {c : Capture}
    (h : ∀ n ct j i o, c.interval = .slot n ct j i o → ∀ ch ct' j', (s.chan ch).stage ≠ .sent ct' j' n) :
    s.handleBlockReply c = s.count .strayBursts := by
  unfold State.handleBlockReply Capture.slotIdent
  rcases hc : c.interval with cq | ⟨cq, i, a⟩ | ⟨n, ct, j, i, o⟩
  · rfl
  · rfl
  · have none : s.channelSent n = none := Option.eq_none_iff_forall_ne_some.2 fun ch hch => by
      obtain ⟨⟨ct', j', hs⟩, -⟩ := (s.channelSent_eq_some n ch).1 hch
      exact h n ct j i o hc ch ct' j' hs
    dsimp only
    rw [none]

/-- A reply in the slot of a SENT channel (R86): one of another convention is discarded, one of another sequence is stale, any other answers
the booking. -/
theorem State.handleBlockReply_sent {c : Capture} {n j : Nat} {ct : Cycle} {i : RecIx} {o : Owner} {ch : ChanIx}
    (hc : c.interval = .slot n ct j i o) (hsent : s.channelSent n = some ch) :
    s.handleBlockReply c =
      if c.conv ≠ (s.record (s.chan ch).index).conv then s
      else if (byteAt c.payload 1).toNat ≠ (s.chan ch).current then s.count .staleReplies
      else if c.low = 2 then (answered s n).negativeOutcome ch else (answered s n).ackBlock ch := by
  unfold State.handleBlockReply Capture.slotIdent
  rw [hc]
  dsimp only
  rw [hsent]
  dsimp only
  rw [s.voidIdent_eq]

/-! ### A run of the expander -/

/-- `s` with channel `ch` at `c'`, its PROFILE-BLOCK queued where `offered` (R84). -/
def State.channelAt (ch : ChanIx) (c' : Channel) (offered : Prop) [Decidable offered] : State :=
  { s with
    pex := { s.pex with chans := s.pex.chans.set ch c' }
    dsq := { s.dsq with reply := s.dsq.reply ++ if offered then [{ index := c'.index, kind := .profileBlock }] else [] } }

theorem State.chan_channelAt (ch : ChanIx) (c' : Channel) (offered : Prop) [Decidable offered] :
    (s.channelAt ch c' offered).chan ch = c' := Vector.getElem_set_self _

theorem State.appendReply_setChan (ch : ChanIx) (c' : Channel) (offered : Prop) [Decidable offered] :
    (if offered then (s.setChan ch c').appendReply c'.index .profileBlock else s.setChan ch c') = s.channelAt ch c' offered := by
  unfold State.channelAt
  split
  · rfl
  · rw [List.append_nil]
    rfl

/-- A run of the expander (R83, R84): the channel as it leaves it, offered as it turns READY, its read placed where it wants a word. -/
theorem State.runFill_eq {ch : ChanIx} {bytes : List Byte} {c1 : Channel} {w : Bool}
    (h : (s.chan ch).fill (s.dirEntry (s.chan ch).dir).past 64 bytes = (c1, w)) :
    s.runFill ch bytes = (s.channelAt ch c1.turnReady ((s.chan ch).stage = .filling ∧ c1.turnReady.stage = .ready)).setRequest ch
      (if w then some ((s.chanRequest ch).getD (readAt c1.pos)) else s.chanRequest ch) := by
  have stage : c1.stage = (s.chan ch).stage := by
    have kept := (Channel.fill_expanded (s.dirEntry (s.chan ch).dir).past 64 (s.chan ch) bytes).stage
    rwa [h] at kept
  have ready := c1.turnReady_ready_iff
  rw [stage] at ready
  unfold State.runFill
  simp only [h, ready, State.appendReply_setChan]
  cases w with
  | false => exact (State.setRequest_self _ rfl).symm
  | true =>
    refine (State.placeRead_eq _ ch).trans ?_
    rw [State.chan_channelAt, Channel.turnReady_pos]
    rfl

/-! ### A block acknowledged -/

/-- A channel with the next block current and the acknowledged block's buffer released (R83, R86). -/
def Channel.acknowledged (c : Channel) : Channel :=
  { c.setBuffer c.current .empty with stage := .filling, current := c.current + 1, retries := 0 }

/-- What a released buffer leaves of a channel. -/
theorem Channel.acknowledged_keeps (c : Channel) : c.acknowledged.index = c.index ∧ c.acknowledged.dir = c.dir ∧
    c.acknowledged.blocks = c.blocks ∧ c.acknowledged.pos = c.pos ∧ c.acknowledged.item = c.item ∧ c.acknowledged.next = c.next := by
  unfold Channel.acknowledged Channel.setBuffer
  split <;> exact ⟨rfl, rfl, rfl, rfl, rfl, rfl⟩

theorem Channel.acknowledged_released (c : Channel) : c.acknowledged.buffer c.current = .empty := c.buffer_setBuffer_same _ _

theorem Channel.acknowledged_ahead (c : Channel) : c.acknowledged.buffer (c.current + 1) = c.buffer (c.current + 1) :=
  c.buffer_setBuffer_succ _ _

/-- `s` with a block of channel `ch` counted as acknowledged (R86). -/
def State.blockAcked (ch : ChanIx) : State :=
  { s with
    records := s.records.set (s.chan ch).index
      { s.record (s.chan ch).index with blocksAcked := (s.record (s.chan ch).index).blocksAcked + 1 } }

theorem State.onRecord_blockAcked (ch : ChanIx) :
    s.onRecord (s.chan ch).index (fun r => { r with blocksAcked := r.blocksAcked + 1 }) = s.blockAcked ch := rfl

/-- The last block acknowledged (R89). -/
theorem State.ackBlock_last {ch : ChanIx} (h : (s.chan ch).blocks ≤ (s.chan ch).current + 1) :
    s.ackBlock ch = (s.blockAcked ch).reportPush ch .complete := by
  unfold State.ackBlock
  dsimp only
  rw [if_pos h, State.onRecord_blockAcked]

/-- `s` with a block acknowledged and the next one current, the channel's expander having run to `c1` and wanting a word or not (R83). -/
def State.blockPassed (ch : ChanIx) (c1 : Channel) (w : Bool) : State :=
  ((s.blockAcked ch).channelAt ch c1.turnReady (c1.turnReady.stage = .ready)).setRequest ch
    (if w then some ((s.chanRequest ch).getD (readAt c1.pos)) else s.chanRequest ch)

/-- A block acknowledged that is not the last (R83, R86): the expander runs on the channel with its buffer released. -/
theorem State.ackBlock_more {ch : ChanIx} (h : (s.chan ch).current + 1 < (s.chan ch).blocks) {c1 : Channel} {w : Bool}
    (hfill : (s.chan ch).acknowledged.fill (s.dirEntry (s.chan ch).dir).past 64 [] = (c1, w)) :
    s.ackBlock ch = s.blockPassed ch c1 w := by
  obtain ⟨-, dir, -⟩ := (s.chan ch).acknowledged_keeps
  have ran := State.runFill_eq (ch := ch) (bytes := []) (c1 := c1) (w := w) ((s.blockAcked ch).setChan ch (s.chan ch).acknowledged) (by
    rw [State.chan_setChan_same, dir]
    exact hfill)
  have stage : (s.chan ch).acknowledged.stage = .filling := rfl
  unfold State.ackBlock
  dsimp only
  rw [if_neg (Nat.not_le.2 h), State.onRecord_blockAcked]
  refine ran.trans ?_
  rw [State.chan_setChan_same]
  unfold State.blockPassed
  simp only [stage, true_and, State.setChan, State.channelAt, Vector.set_set]
  rfl

/-! ### The next block, and the buffer released -/

namespace Channel

variable {c c' : Channel}

theorem turnReady_buffer (c : Channel) (k : Nat) : c.turnReady.buffer k = c.buffer k := by
  rw [turnReady_eq]
  rfl

/-- What the expander leaves of a channel's work, the channel READY or not (R83). -/
theorem Expanded.turnReady_keeps (h : Expanded c c') : c'.turnReady.index = c.index ∧ c'.turnReady.dir = c.dir ∧
    c'.turnReady.blocks = c.blocks ∧ c'.turnReady.current = c.current ∧ c'.turnReady.retries = c.retries := by
  have same := h.same
  unfold SameWork at same
  rw [turnReady_eq, same]
  exact ⟨rfl, rfl, rfl, rfl, rfl⟩

/-- Once a block is acknowledged the channel is READY where the next block's buffer is FULL, and FILLING where it is not (R83, R86). -/
theorem Expanded.acknowledged_stage (h : Expanded c.acknowledged c') :
    c'.turnReady.stage = if (c'.buffer (c.current + 1)).isFull = true then .ready else .filling := by
  have stage := h.same.turnReady_stage h.stage
  rw [turnReady_buffer] at stage
  rw [stage]
  simp only [show c.acknowledged.stage = .filling from rfl, true_and]
  rfl

/-- The released buffer is that of the block after the next one, the next block's buffer the one after it. -/
theorem acknowledged_refills (hnext : c.next = c.current + 2) : c.acknowledged.buffer c.acknowledged.next = .empty ∧
    c.acknowledged.buffer (c.acknowledged.next + 1) = c.buffer (c.current + 1) := by
  obtain ⟨-, -, -, -, -, next⟩ := c.acknowledged_keeps
  rw [next, hnext]
  exact ⟨(buffer_add_two _ _).trans c.acknowledged_released, (buffer_add_two _ (c.current + 1)).trans c.acknowledged_ahead⟩

/-- A refill of the released buffer of `c` ends with `bs` in it and the next image byte wanted (R83). -/
def RefillAsks (c : Channel) (bs : List Byte) (r : Channel × Bool) : Prop :=
  r.1.buffer c.next = .filling bs ∧ r.1.pos = c.pos ∧ r.2 = true

/-- A refill of the released buffer of `c` ends with its block cut from `bs` and no byte wanted (R83). -/
def RefillCuts (c : Channel) (bs : List Byte) (r : Channel × Bool) : Prop :=
  r.1.buffer c.next = fullBlock c.blocks c.next bs ∧ r.2 = false

theorem refillAsks_advance (c : Channel) (it : ImageItem) (bs : List Byte) :
    c.RefillAsks bs (c.acknowledged.advance c.acknowledged.pos it c.acknowledged.next (.filling bs), true) := by
  obtain ⟨-, -, -, pos, -, next⟩ := c.acknowledged_keeps
  rw [next]
  exact ⟨advance_buffer_same .., pos, rfl⟩

theorem refillCuts_cutAt (c : Channel) (it : ImageItem) (bs : List Byte) :
    c.RefillCuts bs (c.acknowledged.cutAt c.acknowledged.pos it bs, false) := by
  obtain ⟨-, -, blocks, -, -, next⟩ := c.acknowledged_keeps
  have cut := c.acknowledged.cutAt_buffer_same c.acknowledged.pos it bs
  rw [next, blocks] at cut
  exact ⟨cut, rfl⟩

section Refill

variable (hnext : c.next = c.current + 2) (past : Nat)

include hnext

/-- With no block left to cut the released buffer stays EMPTY. -/
theorem acknowledged_fill_none (h : c.blocks ≤ c.next) :
    (c.acknowledged.fill past 64 []).1.buffer c.next = .empty ∧ (c.acknowledged.fill past 64 []).2 = false := by
  obtain ⟨hempty, -⟩ := acknowledged_refills hnext
  obtain ⟨-, -, blocks, -, -, next⟩ := c.acknowledged_keeps
  rw [refill_none (fuel := 63) hempty (by rwa [blocks, next]), ← next]
  exact ⟨hempty, rfl⟩

/-- An item that needs an image byte asks for it at once. -/
theorem acknowledged_fill_needs (h : c.next < c.blocks) (hneeds : (∃ n, c.item = .literal n) ∨ ∃ n, c.item = .awaitValue n) :
    c.RefillAsks [] (c.acknowledged.fill past 64 []) := by
  obtain ⟨hempty, -⟩ := acknowledged_refills hnext
  obtain ⟨-, -, blocks, -, item, next⟩ := c.acknowledged_keeps
  have needs : (∀ v n, c.item ≠ .repeating v n) ∧ c.item ≠ .idle := by
    obtain ⟨n, hi⟩ | ⟨n, hi⟩ := hneeds <;> rw [hi] <;> exact ⟨fun _ _ => ImageItem.noConfusion, ImageItem.noConfusion⟩
  obtain ⟨hrep, hidle⟩ := needs
  rw [← item] at hrep hidle
  rw [refill_wants (fuel := 62) hempty (by rwa [blocks, next]) hrep fun hi => absurd hi hidle]
  exact c.refillAsks_advance _ _

/-- A repeat gives its bytes at once (R83): it fills the block, or the next image byte is asked for, or the image ends and the block is cut.
With no byte to give it is the state between two items. -/
theorem acknowledged_fill_repeats (hahead : (c.buffer (c.current + 1)).isFull = true) (h : c.next < c.blocks) {v : Byte} {n : Nat}
    (hi : c.item = repeatLeft v n) :
    (16 ≤ n → c.RefillCuts (List.replicate 16 v) (c.acknowledged.fill past 64 [])) ∧
    (n < 16 → c.pos < past → c.RefillAsks (List.replicate n v) (c.acknowledged.fill past 64 [])) ∧
    (n < 16 → past ≤ c.pos → c.RefillCuts (List.replicate n v) (c.acknowledged.fill past 64 [])) := by
  obtain ⟨hempty, other⟩ := acknowledged_refills hnext
  obtain ⟨-, -, blocks, pos, item, next⟩ := c.acknowledged_keeps
  rw [← other] at hahead
  rw [← blocks, ← next] at h
  rw [← pos]
  replace hi := item.trans hi
  refine ⟨fun hlong => ?_, fun hshort hp => ?_, fun hshort hp => ?_⟩
  · rw [← Nat.sub_add_cancel hlong] at hi
    rw [refill_gives_cut hempty hahead h le_rfl hi (.inl rfl) (by decide)]
    exact c.refillCuts_cutAt _ _
  · rw [refill_gives_wants hempty h hshort hi hp (by omega)]
    exact c.refillAsks_advance _ _
  · rw [← Nat.zero_add n] at hi
    rw [refill_gives_cut hempty hahead h hshort.le hi (.inr ⟨rfl, hp⟩) (by omega)]
    exact c.refillCuts_cutAt _ _

end Refill

end Channel

/-! ### The state with a block passed -/

section Passed

variable (ch : ChanIx) (c1 : Channel) (w : Bool)

theorem State.blockPassed_chan : (s.blockPassed ch c1 w).chan ch = c1.turnReady := Vector.getElem_set_self _

theorem State.blockPassed_request : (s.blockPassed ch c1 w).chanRequest ch =
    if w then some ((s.chanRequest ch).getD (readAt c1.pos)) else s.chanRequest ch := State.chanRequest_setRequest_same _ ch _

theorem State.blockPassed_others {m : ChanIx} (h : m ≠ ch) :
    (s.blockPassed ch c1 w).chan m = s.chan m ∧ (s.blockPassed ch c1 w).chanRequest m = s.chanRequest m := by
  have hne : ch.val ≠ m.val := fun e => h (Fin.ext e.symm)
  exact ⟨Vector.getElem_set_ne ch.isLt m.isLt hne, State.chanRequest_setRequest_other _ _ h⟩

variable {ch c1 w}

/-- A refill that wants a byte has its read placed, unless one still waits (R83, R148). -/
theorem State.blockPassed_asks {bs : List Byte} (h : (s.chan ch).RefillAsks bs (c1, w)) :
    ((s.blockPassed ch c1 w).chan ch).buffer (s.chan ch).next = .filling bs ∧
      (s.blockPassed ch c1 w).chanRequest ch = some ((s.chanRequest ch).getD (readAt (s.chan ch).pos)) := by
  obtain ⟨buffer, pos, rfl⟩ := h
  rw [State.blockPassed_chan, State.blockPassed_request, Channel.turnReady_buffer, ← pos]
  exact ⟨buffer, rfl⟩

/-- A refill that wants no byte leaves the reads as they were. -/
theorem State.blockPassed_stays {b : Buffer} (h : c1.buffer (s.chan ch).next = b ∧ w = false) :
    ((s.blockPassed ch c1 w).chan ch).buffer (s.chan ch).next = b ∧ (s.blockPassed ch c1 w).chanRequest ch = s.chanRequest ch := by
  obtain ⟨buffer, rfl⟩ := h
  rw [State.blockPassed_chan, State.blockPassed_request, Channel.turnReady_buffer]
  exact ⟨buffer, rfl⟩

variable (ran : Channel.Expanded (s.chan ch).acknowledged c1)

include ran

/-- The channel still serves its record, with the next block current and its retries 0 (R86). -/
theorem State.blockPassed_work : ((s.blockPassed ch c1 w).chan ch).index = (s.chan ch).index ∧
    ((s.blockPassed ch c1 w).chan ch).dir = (s.chan ch).dir ∧ ((s.blockPassed ch c1 w).chan ch).blocks = (s.chan ch).blocks ∧
    ((s.blockPassed ch c1 w).chan ch).current = (s.chan ch).current + 1 ∧ ((s.blockPassed ch c1 w).chan ch).retries = 0 := by
  obtain ⟨index, dir, blocks, current, retries⟩ := ran.turnReady_keeps
  obtain ⟨index', dir', blocks', -⟩ := (s.chan ch).acknowledged_keeps
  rw [State.blockPassed_chan]
  exact ⟨index.trans index', dir.trans dir', blocks.trans blocks', current, retries⟩

/-- The channel is READY with its PROFILE-BLOCK queued, or FILLING (R83, R84). -/
theorem State.blockPassed_offered :
    (((s.blockPassed ch c1 w).chan ch).stage = .ready ∧
      (s.blockPassed ch c1 w).dsq.reply = s.dsq.reply ++ [{ index := (s.chan ch).index, kind := .profileBlock }]) ∨
    (((s.blockPassed ch c1 w).chan ch).stage = .filling ∧ (s.blockPassed ch c1 w).dsq.reply = s.dsq.reply) := by
  obtain ⟨index, -⟩ := ran.turnReady_keeps
  obtain ⟨index', -⟩ := (s.chan ch).acknowledged_keeps
  have stage := ran.acknowledged_stage
  have reply : (s.blockPassed ch c1 w).dsq.reply = s.dsq.reply ++
      if c1.turnReady.stage = .ready then [{ index := c1.turnReady.index, kind := .profileBlock }] else [] := rfl
  rw [State.blockPassed_chan, reply, stage, index.trans index']
  split
  · exact .inl ⟨rfl, congrArg _ (if_pos rfl)⟩
  · exact .inr ⟨rfl, (congrArg _ (if_neg ChanStage.noConfusion)).trans (List.append_nil _)⟩

/-- The next block, its buffer FULL, is offered as it stands (R83). -/
theorem State.blockPassed_ahead {k : Nat} {last : Bool} {bytes : List Byte}
    (h : (s.chan ch).buffer ((s.chan ch).current + 1) = .full k last bytes) :
    ((s.blockPassed ch c1 w).chan ch).stage = .ready ∧
      ((s.blockPassed ch c1 w).chan ch).buffer ((s.chan ch).current + 1) = .full k last bytes := by
  have ahead := (s.chan ch).acknowledged_ahead.trans h
  have stays := (ran.full _ (by rw [ahead]; rfl)).trans ahead
  rw [State.blockPassed_chan, ran.acknowledged_stage, Channel.turnReady_buffer, stays]
  exact ⟨rfl, rfl⟩

end Passed

end Sys2Proof.Machine

namespace Sys2Proof.Proofs

open Sys2Proof.Machine Sys2Proof.Safety

/-- Settles O53. -/
theorem blockReply : Obligations.BlockReply := by
  unfold Obligations.BlockReply
  intro mine
  have owned : mine = Capture.isBlockReply := Capture.isBlockReply_eq.symm
  clear_value mine
  subst owned
  refine ⟨execBlockReply_none, fun s c before after hold => ?_⟩
  intro u
  have goes : ∀ {t : State}, u.handleBlockReply c = t → exec .blockReply s = .next t := fun h =>
    (execBlockReply_some s hold).trans (congrArg _ h)
  refine ⟨fun h => goes (u.handleBlockReply_stray h), fun n ct j i o ch hc hs hlow => ?_⟩
  intro x r v own up acked
  have sent := u.handleBlockReply_sent hc ((u.channelSent_eq_some n ch).2 ⟨⟨ct, j, hs⟩, hlow⟩)
  refine ⟨fun hconv => ?_, fun hconv hown => ?_, fun hconv hown hnak hretry => ?_, fun hconv hown hnak hfail => ?_,
    fun hconv hown hack hlast => ?_, fun hconv hown hack hmore => ?_⟩
  · exact goes (sent.trans (if_pos hconv))
  all_goals have kept := sent.trans (if_neg (not_not.2 hconv))
  · exact goes (kept.trans (if_pos hown))
  all_goals have mine := kept.trans (if_neg (not_not.2 hown))
  · obtain ⟨again, -⟩ := v.negativeOutcome_cases ch
    exact goes (mine.trans ((if_pos hnak).trans (again hretry)))
  · obtain ⟨-, failed⟩ := v.negativeOutcome_cases ch
    exact goes (mine.trans ((if_pos hnak).trans (failed hfail)))
  all_goals have acks : u.handleBlockReply c = v.ackBlock ch := mine.trans (if_neg (by rw [hack]; decide))
  · exact goes (acks.trans (v.ackBlock_last hlast))
  · obtain ⟨c1, w, hfill⟩ : ∃ c1 w, x.acknowledged.fill (s.dirEntry x.dir).past 64 [] = (c1, w) := ⟨_, _, rfl⟩
    have ran : Channel.Expanded x.acknowledged c1 := by
      have expanded := Channel.fill_expanded (s.dirEntry x.dir).past 64 x.acknowledged []
      rwa [hfill] at expanded
    obtain ⟨index, dir, blocks, current, retries⟩ := v.blockPassed_work ran
    refine ⟨v.blockPassed ch c1 w, goes (acks.trans (v.ackBlock_more hmore hfill)), rfl, fun m hm => v.blockPassed_others ch c1 w hm,
      index, dir, blocks, current, retries, v.blockPassed_offered ran, fun k last bytes hfull => v.blockPassed_ahead ran hfull,
      fun k last bytes hnext hfull => ?_⟩
    intro past refilled cut wants still
    have ends : x.acknowledged.fill past 64 [] = (c1, w) := hfill
    have ahead : (x.buffer (x.current + 1)).isFull = true := by
      rw [hfull]
      rfl
    have unfilled := Channel.acknowledged_fill_none hnext past
    have needs := Channel.acknowledged_fill_needs hnext past
    have repeats := @Channel.acknowledged_fill_repeats x hnext past ahead
    rw [ends] at unfilled needs repeats
    refine ⟨fun hnone => v.blockPassed_stays (unfilled hnone), fun hsome hlit hawait hrep => ?_,
      fun hsome hneeds => v.blockPassed_asks (needs hsome hneeds), fun v' n' hsome hi hn => ?_⟩
    · have idle : x.item = .idle := by
        cases hi : x.item with
        | idle => rfl
        | literal n => exact absurd hi (hlit n)
        | awaitValue n => exact absurd hi (hawait n)
        | repeating v n => exact absurd hi (hrep v n)
      obtain ⟨-, more, final⟩ := repeats hsome (v := 0) (n := 0) idle
      exact ⟨fun hp => v.blockPassed_asks (more (by decide) hp), fun hp => v.blockPassed_stays (final (by decide) hp)⟩
    · have left : x.item = Channel.repeatLeft v' n' := hi.trans (if_neg (Nat.one_le_iff_ne_zero.1 hn)).symm
      obtain ⟨fills, more, final⟩ := repeats hsome left
      exact ⟨fun hlong => v.blockPassed_stays (fills hlong), fun hshort hp => v.blockPassed_asks (more hshort hp),
        fun hshort hp => v.blockPassed_stays (final hshort hp)⟩

end Sys2Proof.Proofs
end

section
set_option Elab.async false
/-! What the shared operations leave of the span slot map (R105): as it stands, with bookings voided (R107), with slots freed (R108), or
empty. -/

namespace Sys2Proof.Machine

open Sys2Proof.Safety

/-- The map with the bookings that `p` picks voided (R107). -/
def voidWhere (p : Slot → Bool) (m : List Slot) : List Slot := m.map (fun e => if p e then e.voided else e)

variable (s : State)

/-! ### The arm line and the quiet resource beside the map -/

@[simp] theorem State.setMap_map (m : List Slot) : (s.setMap m).ltu.map = m := rfl
@[simp] theorem State.setQuiet_map (q : Quiet) : (s.setQuiet q).ltu.map = s.ltu.map := rfl
@[simp] theorem State.arm_map (id : Interval) : (s.arm id).ltu.map = s.ltu.map := rfl
@[simp] theorem State.disarm_map : s.disarm.ltu.map = s.ltu.map := rfl
@[simp] theorem State.startCycle_map (c : Cycle) : (s.startCycle c).ltu.map = s.ltu.map := rfl
@[simp] theorem State.recordFetch_map (c : Cycle) : (s.recordFetch c).ltu.map = s.ltu.map := rfl
@[simp] theorem State.nextLineBit_map : s.nextLineBit.ltu.map = s.ltu.map := rfl

@[simp] theorem State.disarmFor_map (id : Interval) : (s.disarmFor id).ltu.map = s.ltu.map := by
  unfold State.disarmFor
  split <;> rfl

@[simp] theorem State.endWindow_map (w : Window) : (s.endWindow w).ltu.map = s.ltu.map := by simp [State.endWindow]

@[simp] theorem State.endQuiet_map : s.endQuiet.ltu.map = s.ltu.map := by
  obtain ⟨hl, -⟩ := s.endQuiet_spec
  rw [hl]

@[simp] theorem State.dropRanging_map (i : RecIx) : (s.dropRanging i).ltu.map = s.ltu.map := by
  obtain ⟨-, -, -, hl, -⟩ := s.dropRanging_spec i
  rw [hl]

@[simp] theorem State.endFilled_map (id : Interval) : (s.endFilled id).ltu.map = s.ltu.map := by
  unfold State.endFilled
  split
  · split <;> simp
  all_goals rfl

@[simp] theorem State.handleEcho_map (c : Capture) : (s.handleEcho c).ltu.map = s.ltu.map := by
  unfold State.handleEcho
  split
  · rfl
  · split
    · unfold State.echoInAttempt
      dsimp only
      (repeat' split) <;> simp
    · rfl

@[simp] theorem State.startInterval_map : s.startInterval.ltu.map = s.ltu.map := by
  unfold State.startInterval
  split
  · rfl
  · split <;> rfl

@[simp] theorem State.windowRunsOut_map : s.windowRunsOut.ltu.map = s.ltu.map := by
  unfold State.windowRunsOut
  split
  · split <;> simp
  all_goals rfl

@[simp] theorem State.laneSample_map (x : Sample) : (s.laneSample x).ltu.map = s.ltu.map := by simp [State.laneSample]

/-! ### Asks and answers beside the map -/

@[simp] theorem State.ask_map (p : Purpose) (n : Nat) : (s.ask p n).ltu.map = s.ltu.map := rfl

@[simp] theorem State.grantRanging_map (i : RecIx) : (s.grantRanging i).ltu.map = s.ltu.map := by simp [State.grantRanging]

@[simp] theorem State.grantDiscovery_map : s.grantDiscovery.ltu.map = s.ltu.map := rfl

@[simp] theorem State.arbitrate_map : s.arbitrate.ltu.map = s.ltu.map := by
  unfold State.arbitrate
  split
  · split
    · split
      · split <;> simp
      · simp
    · split <;> simp
  · rfl

@[simp] theorem State.advanceQuiet_map : s.advanceQuiet.ltu.map = s.ltu.map := by
  unfold State.advanceQuiet
  split
  · rfl
  · split
    · simp [State.missWindow]
    · rfl
  · rfl
  · simp

@[simp] theorem State.takeGive_map (cq : Cycle) : (s.takeGive cq).ltu.map = s.ltu.map := by
  unfold State.takeGive
  split
  · split
    · simp
    · simp [State.lateGive]
  all_goals simp

@[simp] theorem State.takeDeny_map : s.takeDeny.ltu.map = s.ltu.map := by
  unfold State.takeDeny
  split <;> simp

@[simp] theorem State.takeRevoke_map : s.takeRevoke.ltu.map = s.ltu.map := by
  unfold State.takeRevoke
  split <;> simp

@[simp] theorem State.timeOutAsk_map : s.timeOutAsk.ltu.map = s.ltu.map := by
  unfold State.timeOutAsk
  split
  · split <;> simp
  all_goals rfl

@[simp] theorem State.windowTaken_map (m : BoundMessage) : (s.windowTaken m).ltu.map = s.ltu.map := by
  unfold State.windowTaken
  dsimp only
  split <;> split <;> simp

@[simp] theorem State.passFetch_map (c : Cycle) : (s.passFetch c).ltu.map = s.ltu.map := by
  unfold State.passFetch
  split <;> rfl

@[simp] theorem State.lineRises_map : s.lineRises.ltu.map = s.ltu.map := by
  unfold State.lineRises
  split <;> simp

/-! ### Voids, freed slots and the cleared map -/

@[simp] theorem State.voidSlots_map (p : Slot → Bool) : (s.voidSlots p).ltu.map = voidWhere p s.ltu.map := by
  obtain ⟨hl, -⟩ := s.voidSlots_spec p
  rw [hl]
  rfl

@[simp] theorem State.voidIdent_map (n : Nat) : (s.voidIdent n).ltu.map = voidWhere (fun e => e.hasIdent n) s.ltu.map := s.voidSlots_map _

@[simp] theorem State.abandonWork_map (i : RecIx) : (s.abandonWork i).ltu.map = voidWhere (fun e => e.isFor i) s.ltu.map := by
  obtain ⟨work, -⟩ := s.abandonWork_spec i
  rw [work.bookings]
  rfl

@[simp] theorem State.release_map (i : RecIx) (d : RelDest) (why : ChangeReason) (f : Option FailReason) :
    (s.release i d why f).ltu.map = voidWhere (fun e => e.isFor i) s.ltu.map := by simp [State.release]

@[simp] theorem State.fail_map (i : RecIx) (f : FailReason) : (s.fail i f).ltu.map = voidWhere (fun e => e.isFor i) s.ltu.map :=
  s.release_map i _ _ _

@[simp] theorem State.reappear_map (i : RecIx) (conv : Conv) (resp : Nat) :
    (s.reappear i conv resp).ltu.map = voidWhere (fun e => e.isFor i) s.ltu.map := by simp [State.reappear]

@[simp] theorem State.portReturn_map : s.portReturn.ltu.map = voidWhere (fun _ => true) s.ltu.map := by
  obtain ⟨-, -, ended, -⟩ := s.portReturn_spec
  rw [ended.1]
  rfl

@[simp] theorem State.freeSlot_map (ct : Cycle) (j : Nat) :
    (s.freeSlot ct j).ltu.map = s.ltu.map.filter (fun e => !(decide (e.ct = ct) && decide (e.j = j))) := rfl

@[simp] theorem State.dropTimeline_map : s.dropTimeline.ltu.map = [] := rfl

@[simp] theorem State.slip_map : s.slip.ltu.map = [] := by simp [State.slip]

@[simp] theorem State.enterConfig_map : s.enterConfig.ltu.map = [] := by simp [State.enterConfig]

end Sys2Proof.Machine
end

section
set_option Elab.async false
/-! The span slot map kept (R105, R106): one entry per slot and one booking per record, operation by operation. -/

namespace Sys2Proof.Safety

open Sys2Proof.Machine

/-- A voided booking is no record's (R107). -/
theorem isFor_voided {q : Slot → Bool} {e : Slot} {i : RecIx} (h : (if q e then e.voided else e).isFor i = true) : e.isFor i = true := by
  split at h
  · cases h
  · exact h

/-- A slot that a fetch may book is free, and its record holds no booking (R106). -/
structure Bookable (s : State) (ct : Cycle) (j : Nat) (i : RecIx) : Prop where
  free : s.slotAt ct j = none
  unbooked : s.holdsBooking i = false

/-- What the steps of a fold keep, the fold keeps. -/
theorem MapSound.foldl {α : Type} (f : State → α → State) (hf : ∀ t a, MapSound t → MapSound (f t a)) (l : List α) :
    ∀ s, MapSound s → MapSound (l.foldl f s) := by
  induction l with
  | nil => exact fun _ h => h
  | cons a l ih => exact fun s h => ih _ (hf s a h)

/-! ### What may become of the map -/

/-- An empty map has no two entries. -/
theorem MapSound.cleared {t : State} (hm : t.ltu.map = [] := by simp) : MapSound t := ⟨hm ▸ .nil, hm ▸ .nil⟩

section

variable {s t : State} (h : MapSound s)
include h

theorem MapSound.same (hm : t.ltu.map = s.ltu.map := by simp) : MapSound t := ⟨hm ▸ h.single, hm ▸ h.booked⟩

/-- Slots that become free leave the others as they were (R105, R108). -/
theorem MapSound.freed {p : Slot → Bool} (hm : t.ltu.map = s.ltu.map.filter p) : MapSound t :=
  ⟨hm ▸ h.single.filter p, hm ▸ h.booked.filter p⟩

/-- A void stays in its slot and is no record's booking (R107). -/
theorem MapSound.voided {p : Slot → Bool} (hm : t.ltu.map = voidWhere p s.ltu.map) : MapSound t := by
  have place : ∀ e : Slot, (if p e then e.voided else e).ct = e.ct ∧ (if p e then e.voided else e).j = e.j := fun e => by
    split <;> exact ⟨rfl, rfl⟩
  constructor
  · rw [hm, voidWhere, List.pairwise_map]
    exact h.single.imp fun {a b} hab => by rwa [(place a).1, (place a).2, (place b).1, (place b).2]
  · rw [hm, voidWhere, List.pairwise_map]
    exact h.booked.imp fun hab ⟨i, ha, hb⟩ => hab ⟨i, isFor_voided ha, isFor_voided hb⟩

/-- A free slot booked for a record without a booking is the only entry of the slot and the only booking of the record (R106). -/
theorem MapSound.booked_slot {ct : Cycle} {j : Nat} {i : RecIx} {o : Owner} {n : Nat} (hb : Bookable s ct j i)
    (hm : t.ltu.map = s.ltu.map ++ [{ ct := ct, j := j, use := .booked i o n }]) : MapSound t := by
  have free := (s.slotAt_isNone ct j).1 (by rw [hb.free]; rfl)
  have unbooked : ∀ e ∈ s.ltu.map, e.isFor i ≠ true := fun e he hf => by
    have held : s.holdsBooking i = true := List.any_eq_true.2 ⟨e, he, hf⟩
    rw [hb.unbooked] at held
    cases held
  constructor
  · rw [hm, List.pairwise_append]
    refine ⟨h.single, List.pairwise_singleton _ _, fun e he b hbm => ?_⟩
    rw [List.mem_singleton.1 hbm]
    exact free e he
  · rw [hm, List.pairwise_append]
    refine ⟨h.booked, List.pairwise_singleton _ _, fun e he b hbm => ?_⟩
    rw [List.mem_singleton.1 hbm]
    rintro ⟨k, hek, hbk⟩
    have hik : i = k := of_decide_eq_true hbk
    exact unbooked e he (hik ▸ hek)

/-! ### Channels and abandonment -/

theorem MapSound.restartChannel (ch : ChanIx) : MapSound (s.restartChannel ch) := by
  unfold State.restartChannel
  dsimp only
  split
  · next n _ => exact h.voided (p := fun e => e.hasIdent n) (by simp)
  · exact h.same

theorem MapSound.imageTouched (w : WinWord) (be : Enables) : MapSound (s.imageTouched w be) :=
  MapSound.foldl _ (fun t ch ht => by split; exacts [ht.restartChannel ch, ht]) _ s h

theorem MapSound.release (i : RecIx) (d : RelDest) (why : ChangeReason) (f : Option FailReason) : MapSound (s.release i d why f) :=
  h.voided (s.release_map i d why f)

theorem MapSound.fail (i : RecIx) (f : FailReason) : MapSound (s.fail i f) := h.release i _ _ _

theorem MapSound.portReturn : MapSound s.portReturn := h.voided s.portReturn_map

/-! ### Intents -/

theorem MapSound.actHold (i : RecIx) : MapSound (s.actHold i) := by
  unfold State.actHold
  split
  case h_1 | h_2 | h_3 | h_4 | h_5 => exact h.same
  all_goals exact h.release i _ _ _

theorem MapSound.actVacant (i : RecIx) : MapSound (s.actVacant i) := by
  unfold State.actVacant
  split
  case h_1 | h_2 | h_3 | h_4 | h_5 => exact h.same
  all_goals exact h.release i _ _ _

theorem MapSound.actIntent (i : RecIx) : MapSound (s.actIntent i) := by
  unfold State.actIntent
  split
  · exact h.actVacant i
  · split
    · exact h.same
    · split
      · exact h.actHold i
      · exact MapSound.actHold (s := s.discard _ _ _) h.same i

theorem MapSound.actAllIntents : MapSound s.actAllIntents := MapSound.foldl _ (fun _ i ht => ht.actIntent i) _ s h

/-! ### HELLOs, outcomes and replies -/

theorem MapSound.helloLive (i : RecIx) (conv : Conv) (resp : Nat) : MapSound (s.helloLive i conv resp) := by
  have again : MapSound ((s.onRecord i (fun r => r.sighted s.ltu.cycle)).reappear i conv resp) :=
    h.voided (p := fun e => e.isFor i) (by simp)
  unfold State.helloLive
  dsimp only
  split
  case h_1 | h_3 | h_10 | h_11 | h_12 => exact h.same
  case h_2 => split; exacts [again, h.same]
  all_goals exact again

theorem MapSound.handleHello (c : Capture) : MapSound (s.handleHello c) := by
  unfold State.handleHello
  split
  · split
    · unfold State.helloInWindow
      dsimp only
      split
      · exact h.same
      · split
        · exact h.same
        · unfold State.matchHello
          split
          · exact MapSound.helloLive (h.same (by split <;> simp)) _ _ _
          · split <;> exact h.same (by split <;> simp)
    · exact h
  all_goals exact h

theorem MapSound.countAttempt (i : RecIx) (why : ChangeReason) : MapSound (s.countAttempt i why) := by
  unfold State.countAttempt
  dsimp only
  split
  · exact h.same
  · exact MapSound.fail (s := s.onRecord _ _) h.same i _

theorem MapSound.applyRanging (i : RecIx) (o : RangingOutcome) : MapSound (s.applyRanging i o) := by
  unfold State.applyRanging
  split
  · exact h.same
  · exact h.countAttempt i _
  · exact h.fail i _

theorem MapSound.applySettle (i : RecIx) (x : Settle) (o : SettleOutcome) : MapSound (s.applySettle i x o) := by
  unfold State.applySettle
  split
  · exact h.fail i _
  · exact h.same
  · exact h.same
  · exact MapSound.countAttempt (s := s.onRecord _ _) h.same i _

theorem MapSound.applyPush (i : RecIx) (ch : ChanIx) (o : PushOutcome) : MapSound (s.applyPush i ch o) := by
  unfold State.applyPush
  split
  · exact h.same
  · exact h.fail i _
  · exact h.fail i _

theorem MapSound.voidIdent (n : Nat) : MapSound (s.voidIdent n) := h.voided (s.voidIdent_map n)

theorem MapSound.handleSettle (c : Capture) : MapSound (s.handleSettle c) := by
  unfold State.handleSettle
  split
  · exact h.same
  · split
    · split
      · split
        · exact h
        · next n _ _ =>
          unfold State.settleReply
          dsimp only
          (repeat' split) <;> exact (h.voidIdent n).same
      all_goals exact h
    · exact h

theorem MapSound.handleBlockReply (c : Capture) : MapSound (s.handleBlockReply c) := by
  unfold State.handleBlockReply
  split
  · exact h.same
  · next n _ =>
    split
    · exact h.same
    · split
      · exact h
      · split
        · exact h.same
        · split <;> exact (h.voidIdent n).same

theorem MapSound.slotEnds (e : Slot) : MapSound (s.slotEnds e) := by
  unfold State.slotEnds
  split
  · exact h.freed (s.freeSlot_map _ _)
  · exact h.same

theorem MapSound.slotUnanswered (e : Slot) : MapSound (s.slotUnanswered e) := by
  unfold State.slotUnanswered
  split
  · exact h.freed (s.freeSlot_map _ _)
  · next i o n _ =>
    have freed : MapSound ((s.disarmFor (.slot n e.ct e.j i o)).freeSlot e.ct e.j) :=
      MapSound.freed (s := s.disarmFor _) h.same (State.freeSlot_map _ _ _)
    dsimp only
    split
    all_goals split; exacts [freed.same, freed]

/-! ### Line time and fetches -/

theorem MapSound.cycleStart (c : Cycle) : MapSound (s.cycleStart c) := by
  have advanced : MapSound (s.startCycle c).presentDemand.advanceMap :=
    MapSound.freed (s := (s.startCycle c).presentDemand) h.same (State.setMap_map _ _)
  unfold State.cycleStart
  dsimp only
  split
  · exact h.same
  · split
    · exact advanced.same
    · exact .cleared

theorem MapSound.lineFalls : MapSound s.lineFalls := by
  unfold State.lineFalls
  split
  · exact MapSound.portReturn .cleared
  · exact h

end

/-- A reply-bearing message is chosen in RUNNING, with nothing before it to take (R130, R131). -/
theorem choose_reply_chooseReply {s : State} {c : Cycle} {e : ReplyEntry} {o : Owner} {d j : Nat} (h : s.choose c = .reply e o d j) :
    s.chooseReply c = .reply e o d j := by
  have urgent : s.chooseUrgent ≠ .reply e o d j := by unfold State.chooseUrgent; split <;> nofun
  have lists : s.chooseLists c = .reply e o d j → s.chooseReply c = .reply e o d j := by
    unfold State.chooseLists
    split
    · nofun
    · split
      · nofun
      · split
        · nofun
        · exact id
  unfold State.choose at h
  split at h
  · cases h
  · split at h
    · refine lists ?_
      unfold State.chooseAll at h
      split at h
      · split at h
        · cases h
        · exact h
      · exact h
    · exact absurd h urgent
    · exact absurd h urgent
    all_goals cases h

/-- The reply-bearing message a fetch takes goes to a slot that is free, for a record without a booking (R106, R132). -/
theorem bookable_of_choose {s : State} {c : Cycle} {e : ReplyEntry} {o : Owner} {d j : Nat} (h : s.choose c = .reply e o d j) :
    Bookable s (c + BitVec.ofNat 32 d) j e.index := by
  have chosen := choose_reply_chooseReply h
  unfold State.chooseReply at chosen
  split at chosen
  · next e' o' d' j' wants found =>
    cases chosen
    obtain ⟨x, -, asked⟩ := List.exists_of_findSome?_eq_some wants
    have usable : s.usable (c + BitVec.ofNat 32 d) j = true := by
      unfold State.findSlot at found
      simpa using List.find?_some found
    have free : (s.slotAt (c + BitVec.ofNat 32 d) j).isNone = true := (Bool.and_eq_true_iff.1 usable).1
    unfold State.replyWants at asked
    split at asked
    · cases asked
    · next unbooked =>
      obtain ⟨_, -, pair⟩ := Option.map_eq_some_iff.1 asked
      cases pair
      exact ⟨Option.isNone_iff_eq_none.1 free, Bool.eq_false_iff.2 unbooked⟩
  · cases chosen

end Sys2Proof.Safety
end

section
set_option Elab.async false
/-! The span slot map kept: messages taken, the port, the load, the bus, the sample lane, and the step. -/

namespace Sys2Proof.Safety

open Sys2Proof.Machine

section

variable {s : State} (h : MapSound s)
include h

/-! ### Messages taken -/

/-- Of the messages a fetch takes the reply-bearing one alone books a slot (R106, R132). -/
theorem MapSound.takeChoice {c : Cycle} {x : Choice} (hx : s.choose c = x) : MapSound (s.takeChoice c x) := by
  cases x with
  | nothing => exact h
  | window m => exact h.same (s.windowTaken_map m)
  | release i => exact h.same (t := s.releaseTaken i)
  | control e => exact h.same (t := s.controlTaken e)
  | park p => exact h.same (t := s.parkTaken)
  | reply e o d j =>
    refine h.booked_slot (o := o) (n := s.ltu.nextIdent) (bookable_of_choose hx) ?_
    show (s.replyTaken c e o d j).ltu.map = _
    unfold State.replyTaken
    dsimp only
    split <;> rfl

theorem MapSound.takeFetch (c : Cycle) : MapSound (s.takeFetch c) := by
  have recorded : MapSound (s.recordFetch c) := h.same
  unfold State.takeFetch
  dsimp only
  split
  · exact (recorded.takeChoice (c := c) rfl).same
  · exact recorded.same (State.passFetch_map _ c)

/-! ### The port -/

theorem MapSound.startDraining : MapSound s.startDraining := by
  unfold State.startDraining
  dsimp only
  split
  · exact .cleared
  · exact MapSound.portReturn (s := s.enterPort .draining) h.same

theorem MapSound.halt : MapSound s.halt := MapSound.portReturn (s := s.enterPort .halted) h.same

theorem MapSound.validateRun : MapSound s.validateRun := by
  unfold State.validateRun
  split
  · exact h.same (by simp)
  · split
    · exact h.same
    · exact MapSound.actAllIntents h.same

theorem MapSound.actPortIntent : MapSound s.actPortIntent := by
  unfold State.actPortIntent
  split
  · unfold State.actConfig
    split
    · exact h.startDraining
    · exact .cleared
    all_goals exact h
  · split
    · unfold State.actRun
      split
      · exact h.validateRun
      · exact MapSound.actAllIntents h.same
      all_goals exact h
    · unfold State.actHalt
      split
      case h_1 | h_2 | h_3 => exact h.halt
      all_goals exact h

/-! ### The load and the bus -/

theorem MapSound.followInterrupt : MapSound s.followInterrupt := h.same

/-- The last word of the load clears the map as the port enters CONFIG (R109, R160). -/
theorem MapSound.serveLoad (w : WinWord) : MapSound (s.serveLoad w) := by
  unfold State.serveLoad State.loadServed
  split
  · exact h.same rfl
  · next n _ =>
    dsimp only
    split
    · exact h.same
    · exact MapSound.followInterrupt (MapSound.actPortIntent .cleared)

theorem MapSound.serveHighest : MapSound s.serveHighest := by
  unfold State.serveHighest
  split
  · exact h.same
  · split
    · exact h.same
    · split
      · exact h.serveLoad _
      · exact h

theorem MapSound.arbiter : MapSound s.arbiter := by
  unfold State.arbiter
  split
  · exact MapSound.same (s := s.serveHighest) h.serveHighest (by simp [State.holdAccess])
  · exact h.same

theorem MapSound.writeHeader (k : Nat) (data : Word) (be : Enables) : MapSound (s.writeHeader k data be) := by
  unfold State.writeHeader
  split
  · exact MapSound.actPortIntent (s := s.storeHeader 0 data be) h.same
  · (repeat' split) <;> exact h.same

theorem MapSound.writeRecord (i : RecIx) (k : Nat) (data : Word) (be : Enables) : MapSound (s.writeRecord i k data be) := by
  unfold State.writeRecord
  dsimp only
  generalize (if (s.record i).state.writable = true then be else be &&& (if k = 0 then 0b0001 else 0)) = lanes
  have offered : MapSound (if lanes = be then s.onRecord i (fun r => r.store k data lanes)
      else (s.onRecord i (fun r => r.store k data lanes)).discard (indexByte i) .state (recordOffset i + 4 * k)) := by
    split <;> exact h.same
  split
  · exact offered.actIntent i
  · exact offered

theorem MapSound.offerWrite (w : WinWord) (data : Word) (be : Enables) : MapSound (s.offerWrite w data be) := by
  unfold State.offerWrite
  dsimp only
  split
  · exact h
  · split
    · split
      · exact h
      · exact h.writeHeader _ _ _
    · split
      · exact h
      · split
        · split <;> exact h.same
        · split
          · exact h
          · split
            · split
              · exact h.writeRecord _ _ _ _
              · exact h
            · split
              · exact h
              · exact h.imageTouched w be

theorem MapSound.busWrite (a : BusAddr) (data : Word) (be : Enables) : MapSound (s.busWrite a data be) := by
  unfold State.busWrite
  dsimp only
  split
  · unfold State.windowWrite
    split
    · exact MapSound.offerWrite (s := (s.sramWrite a data be).endSnapshots _) h.same _ _ _
    · split <;> exact h.same
  · exact h.same

theorem MapSound.access (a : Access) : MapSound (s.access a) := by
  unfold State.access
  split
  · exact h.arbiter.same
  · exact h.arbiter.busWrite _ _ _

end

theorem MapSound.feed (ps : List HuntPhase) (xs : List Sample) : ∀ {s : State}, MapSound s → MapSound (State.feed ps xs s) := by
  induction xs with
  | nil => exact id
  | cons x xs ih =>
    intro s h
    unfold State.feed
    split
    · exact ih (h.same (s.laneSample_map x))
    · exact h

/-! ### The step -/

/-- What a command answers, if a next state, holds a sound map. -/
def KeepsMap (r : Result) : Prop := ∀ t, r = .next t → MapSound t

theorem keepsMap_next {t : State} (h : MapSound t) : KeepsMap (.next t) := fun u hu => by cases hu; exact h

/-- A command that takes effect under a condition alone. -/
theorem keepsMap_ite {s : State} {p : Prop} [Decidable p] {t : State} (h : MapSound s) (ht : MapSound t) :
    KeepsMap (if p then .next t else .next s) := by
  split
  · exact keepsMap_next ht
  · exact keepsMap_next h

section

variable {s : State} (h : MapSound s)
include h

theorem execLoadRead_map : KeepsMap (execLoadRead s) := by
  unfold execLoadRead
  split
  · split
    · exact keepsMap_next (h.serveLoad _)
    · exact keepsMap_next h
  · exact keepsMap_next h

theorem execSlotArrivalEnd_map (ct : Cycle) (j : Fin 8) : KeepsMap (execSlotArrivalEnd ct j s) := by
  unfold execSlotArrivalEnd
  split
  · exact keepsMap_ite h (h.slotEnds _)
  · exact keepsMap_next h

theorem execSlotEndReport_map (ct : Cycle) (j : Fin 8) : KeepsMap (execSlotEndReport ct j s) := by
  unfold execSlotEndReport
  split
  · exact keepsMap_ite h (h.slotUnanswered _)
  · exact keepsMap_next h

theorem execHelloTake_map : KeepsMap (execHelloTake s) := by
  unfold execHelloTake
  split
  · next c _ => exact keepsMap_next (MapSound.handleHello (s := s.takeCapture c) h.same c)
  · exact keepsMap_next h

theorem execDiscoveryRoundComplete_map : KeepsMap (execDiscoveryRoundComplete s) := by
  unfold execDiscoveryRoundComplete
  split
  · exact keepsMap_ite h h.same
  all_goals exact keepsMap_next h

theorem execEchoTake_map : KeepsMap (execEchoTake s) := by
  unfold execEchoTake
  split
  · exact keepsMap_ite h h.same
  · exact keepsMap_next h

theorem execAttemptJudge_map : KeepsMap (execAttemptJudge s) := by
  unfold execAttemptJudge
  split
  · exact keepsMap_ite h h.same
  · exact keepsMap_next h

theorem execSettleReply_map : KeepsMap (execSettleReply s) := by
  unfold execSettleReply
  split
  · next c _ => exact keepsMap_ite h (MapSound.handleSettle (s := s.takeCapture c) h.same c)
  · exact keepsMap_next h

theorem execBlockReply_map : KeepsMap (execBlockReply s) := by
  unfold execBlockReply
  split
  · next c _ => exact keepsMap_next (MapSound.handleBlockReply (s := s.takeCapture c) h.same c)
  · exact keepsMap_next h

theorem execImageRead_map (ch : ChanIx) : KeepsMap (execImageRead ch s) := by
  unfold execImageRead
  split
  · split
    · exact keepsMap_ite h h.same
    · exact keepsMap_next h
  · exact keepsMap_next h

theorem execRangingOutcome_map : KeepsMap (execRangingOutcome s) := by
  unfold execRangingOutcome
  split
  · next p rest _ =>
    have taken : MapSound { s with rgu := { s.rgu with reports := rest } } := h.same rfl
    dsimp only
    split
    · exact keepsMap_next (taken.applyRanging _ _)
    · exact keepsMap_next taken
  · exact keepsMap_next h

theorem execSettleOutcome_map : KeepsMap (execSettleOutcome s) := by
  unfold execSettleOutcome
  split
  · next i rest _ =>
    have taken : MapSound { s with rgu := { s.rgu with settleReports := rest } } := h.same rfl
    dsimp only
    split
    · exact keepsMap_next (taken.applySettle _ _ _)
    · exact keepsMap_next taken
  · exact keepsMap_next h

theorem execProfileOutcome_map : KeepsMap (execProfileOutcome s) := by
  unfold execProfileOutcome
  split
  · next p rest _ =>
    have taken : MapSound { s with pex := { s.pex with reports := rest } } := h.same rfl
    dsimp only
    split
    · exact keepsMap_next (taken.applyPush _ _ _)
    · exact keepsMap_next taken
  · exact keepsMap_next h

theorem execEventWordWritten_map : KeepsMap (execEventWordWritten s) := by
  unfold execEventWordWritten
  split <;> exact keepsMap_next h.same

/-- Every command keeps the span slot map sound. -/
theorem exec_map (c : Instr) : KeepsMap (exec c s) := by
  have access : ∀ a, KeepsMap (.next (s.access a)) := fun a => keepsMap_next (h.access a)
  have fed : ∀ ps xs, KeepsMap (.next (State.feed ps xs s)) := fun ps xs => keepsMap_next (h.feed ps xs)
  cases c with
  | hardwareReset => exact keepsMap_next (.cleared rfl)
  | resetRelease straps => exact keepsMap_ite h h.same
  | loadRead => exact execLoadRead_map h
  | intentAdmit | intentHold | intentVacant | setupWrite | portIntentConfig | portIntentRun | portIntentHalt | consumerIndexWrite
  | imageWrite | recordSnapshotRead | headerSnapshotRead | popRead | consecutiveAccess => exact access _
  | accessHold acc => exact keepsMap_ite h (h.access acc)
  | drainComplete => exact keepsMap_ite h .cleared
  | cycle c => exact keepsMap_next (h.cycleStart c)
  | roundDue => exact keepsMap_ite h h.same
  | quietTimeout => exact keepsMap_next (h.same s.timeOutAsk_map)
  | interruptHold => exact keepsMap_ite h h.same
  | fetch c => exact keepsMap_next (h.takeFetch c)
  | lineDown => exact keepsMap_next h.lineFalls
  | lineUp => exact keepsMap_next (h.same s.lineRises_map)
  | give cq => exact keepsMap_next (h.same (s.takeGive_map cq))
  | deny => exact keepsMap_next (h.same s.takeDeny_map)
  | revoke => exact keepsMap_next (h.same s.takeRevoke_map)
  | armIntervalStart => exact keepsMap_next (h.same s.startInterval_map)
  | quietWindowEnd => exact keepsMap_next (h.same s.windowRunsOut_map)
  | slotArrivalEnd ct j => exact execSlotArrivalEnd_map h ct j
  | slotEndReport ct j => exact execSlotEndReport_map h ct j
  | noDelimiter | burstComplete | preambleRecognized | delimiterCompared | kindByte => exact fed _ _
  | helloTake => exact execHelloTake_map h
  | discoveryRoundComplete => exact execDiscoveryRoundComplete_map h
  | echoTake => exact execEchoTake_map h
  | attemptJudge => exact execAttemptJudge_map h
  | settleReply => exact execSettleReply_map h
  | blockReply => exact execBlockReply_map h
  | imageRead ch => exact execImageRead_map h ch
  | rangingOutcome => exact execRangingOutcome_map h
  | settleOutcome => exact execSettleOutcome_map h
  | profileOutcome => exact execProfileOutcome_map h
  | eventWriteStart => exact keepsMap_next (h.same (t := s.startEvent))
  | eventWordWritten => exact execEventWordWritten_map h

end

end Sys2Proof.Safety

namespace Sys2Proof.Proofs

open Sys2Proof.Machine Sys2Proof.Safety

/-- Settles O59: a fetch books a free slot for a record without a booking, and every other change of the map voids bookings, frees slots or
clears it. -/
theorem mapSoundKept : Obligations.MapSoundKept := by
  unfold Obligations.MapSoundKept
  intro s t h ht
  unfold step at ht
  split at ht
  · cases ht
    exact h.same (s.laneSample_map darkSample)
  · next c rest _ => exact exec_map (s := s.withPending rest) h.same c t ht

end Sys2Proof.Proofs
end

section
set_option Elab.async false
/-! ASK (R98): the not-before cycle as the smallest that clears every slot of the map. -/

namespace Sys2Proof.Machine

variable (s : State)

/-! ### Clearing a slot -/

/-- A cycle `m` cycles on begins no sooner than the arrival end of an entry exactly from the cycle the entry needs on (R98). -/
theorem State.slotNeeds_le_iff (e : Slot) (m : Int) : s.slotNeeds e ≤ m ↔
    (s.header.targetLoop.toNat + s.header.spanStart.toNat + (e.j + 1) * s.header.slotLen.toNat : Int)
      ≤ 160000 * (m - (e.ct - s.ltu.cycle).toInt) := by
  rw [← s.arrivalEnd_cast]
  unfold State.slotNeeds cyclesFrom Config.cycleBits
  omega

/-- Cycles from the current cycle to the not-before cycle of an ask (R98). -/
def State.askDelay (s : State) : Int := (s.ltu.map.map s.slotNeeds).foldl max 2

/-- The not-before cycle is as early as the rule of two cycles and the slots of the map allow (R98). -/
theorem State.askDelay_le_iff (m : Int) : s.askDelay ≤ m ↔ 2 ≤ m ∧ ∀ e ∈ s.ltu.map, s.slotNeeds e ≤ m := by
  have bound := List.max?_le_iff (List.max?_cons' (x := 2) (xs := s.ltu.map.map s.slotNeeds)) (x := m)
  simpa [State.askDelay] using bound

theorem State.notBefore_eq {n : Nat} (h : s.askDelay = n) : s.notBefore = s.ltu.cycle + BitVec.ofNat 32 n := by
  rw [← BitVec.ofInt_natCast, ← h]
  rfl

end Sys2Proof.Machine

namespace Sys2Proof.Proofs

open Sys2Proof.Machine Sys2Proof.Safety

/-- Settles O26: a cycle clears the slots exactly from the delay of the ask on. -/
theorem askWindow : Obligations.AskWindow := by
  intro s p length
  obtain ⟨two, least⟩ := (s.askDelay_le_iff s.askDelay).1 le_rfl
  obtain ⟨n, hn⟩ := Int.eq_ofNat_of_zero_le (by omega : 0 ≤ s.askDelay)
  refine ⟨n, ?_⟩
  intro clears
  have clears_iff : ∀ m : Nat, clears m ↔ ∀ e ∈ s.ltu.map, s.slotNeeds e ≤ m :=
    fun m => forall₂_congr fun e _ => (s.slotNeeds_le_iff e m).symm
  refine ⟨by omega, (clears_iff n).2 (hn ▸ least), fun m hm hc => ?_, ?_⟩
  · have reached := (s.askDelay_le_iff m).2 ⟨by omega, (clears_iff m).1 hc⟩
    omega
  · unfold State.ask
    rw [s.notBefore_eq hn]
    cases p <;> rfl

end Sys2Proof.Proofs
end

section
set_option Elab.async false
/-! DENY, REVOKE and QUIET_TIMEOUT (R100 to R103): what each makes of the quiet resource. -/

namespace Sys2Proof.Machine

open Sys2Proof.Safety

variable (s : State)

/-! ### QUIET events -/

theorem State.raiseQuiet_eq (p : Purpose) (d : QuietDetail) (v : Cycle) : s.raiseQuiet p d v = s.raise (quietEvent p d v) := by
  cases p <;> rfl

/-- The quiet resource becomes IDLE beside an event and its count. -/
theorem State.raise_count_idle (e : Raise) (k : CounterId) :
    ((s.raise e).count k).setQuiet .idle = { (s.raise e).count k with ltu := { s.ltu with quiet := .idle } } := by
  unfold State.setQuiet
  rw [State.count_ltu, show (s.raise e).ltu = s.ltu by simp]

/-! ### The scheduler's answers and the timeout -/

/-- DENY ends the ask that waits (R100). -/
theorem State.takeDeny_asked {w : Window} (h : s.ltu.quiet = .asked w) : s.takeDeny = State.askEnded
    { (s.raise (quietEvent w.purpose .deny w.notBefore)).count .quietDenies with ltu := { s.ltu with quiet := .idle } } w.purpose := by
  unfold State.takeDeny
  rw [h, ← s.raise_count_idle, ← s.raiseQuiet_eq]

/-- DENY with no ask waiting is a stray (R100). -/
theorem State.takeDeny_stray (h : ∀ w, s.ltu.quiet ≠ .asked w) : s.takeDeny = s.count .quietStrays := by
  unfold State.takeDeny
  split
  · next w hw => exact absurd hw (h w)
  all_goals rfl

/-- REVOKE cancels a GIVEN window (R102). -/
theorem State.takeRevoke_given {w : Window} (h : s.ltu.quiet = .given w) : s.takeRevoke = State.askEnded
    { (s.raise (quietEvent w.purpose .revoked w.cq)).count .quietRevokes with ltu := { s.ltu with quiet := .idle } } w.purpose := by
  unfold State.takeRevoke
  rw [h, ← s.raise_count_idle, ← s.raiseQuiet_eq]

/-- REVOKE is late for an OPEN window, which runs on (R103). -/
theorem State.takeRevoke_opened {w : Window} (h : s.ltu.quiet = .opened w) :
    s.takeRevoke = (s.raise (quietEvent w.purpose .lateRevoke w.cq)).count .quietLateRevokes := by
  unfold State.takeRevoke
  rw [h, ← s.raiseQuiet_eq]

/-- REVOKE with no window given is a stray (R102). -/
theorem State.takeRevoke_stray (h : s.ltu.quiet = .idle ∨ ∃ w, s.ltu.quiet = .asked w) : s.takeRevoke = s.count .quietStrays := by
  unfold State.takeRevoke
  obtain h | ⟨w, h⟩ := h <;> rw [h] <;> rfl

/-- An ask whose wait has reached QuietWait is withdrawn (R101). -/
theorem State.timeOutAsk_due {w : Window} (h : s.ltu.quiet = .asked w) (due : s.header.quietWait.toNat ≤ w.wait) :
    s.timeOutAsk = State.askEnded
      { (s.raise (quietEvent w.purpose .timeout w.notBefore)).count .quietTimeouts with
        links := { s.links with sched := s.links.sched ++ [.withdraw] }
        ltu := { s.ltu with quiet := .idle } } w.purpose := by
  have links : (s.raise (quietEvent w.purpose .timeout w.notBefore)).links = s.links := by simp
  unfold State.timeOutAsk
  rw [h]
  dsimp only
  rw [if_pos due, s.send_raiseQuiet]
  show State.askEnded ((((s.raise _).count .quietTimeouts).setQuiet .idle).send .withdraw) w.purpose = _
  rw [s.raise_count_idle, ← links]
  rfl

/-- Below QuietWait, and with no ask waiting, nothing times out (R101). -/
theorem State.timeOutAsk_none (h : ∀ w, s.ltu.quiet = .asked w → w.wait < s.header.quietWait.toNat) : s.timeOutAsk = s := by
  unfold State.timeOutAsk
  split
  · next w hw => exact if_neg (Nat.not_le.2 (h w hw))
  all_goals rfl

end Sys2Proof.Machine

namespace Sys2Proof.Proofs

open Sys2Proof.Machine Sys2Proof.Safety

/-- Settles O33, quiet state by quiet state. -/
theorem denyRevokeTimeout : Obligations.DenyRevokeTimeout := by
  intro s
  refine ⟨fun w hw => ⟨?_, ?_, fun due => ?_, fun early => ?_⟩, fun w hw => ?_, fun w hw => ?_, fun hi => ?_, fun hn => ⟨?_, ?_⟩⟩
  · exact congrArg Host.Outcome.next (s.takeDeny_asked hw)
  · exact congrArg Host.Outcome.next (s.takeRevoke_stray (.inr ⟨w, hw⟩))
  · exact congrArg Host.Outcome.next (s.timeOutAsk_due hw due)
  · refine congrArg Host.Outcome.next (s.timeOutAsk_none fun w' hw' => ?_)
    cases hw.symm.trans hw'
    exact early
  · exact congrArg Host.Outcome.next (s.takeRevoke_given hw)
  · exact congrArg Host.Outcome.next (s.takeRevoke_opened hw)
  · exact congrArg Host.Outcome.next (s.takeRevoke_stray (.inl hi))
  · exact congrArg Host.Outcome.next (s.takeDeny_stray hn)
  · exact congrArg Host.Outcome.next (s.timeOutAsk_none fun w hw => absurd hw (hn w))

end Sys2Proof.Proofs
end

section
set_option Elab.async false
/-! FETCH answered NONE (R94, R129 to R132): the invalid fetch, and the choice that finds nothing to give. -/

namespace Sys2Proof.Machine

open Sys2Proof.Safety

variable (s : State)

/-! ### Validity -/

theorem State.fetchValid_iff (c : Cycle) :
    s.fetchValid c = true ↔ s.ltu.known = true ∧ c = s.ltu.cycle + 1 ∧ s.ltu.nextFetched = false := by
  simp [State.fetchValid, and_assoc]

/-- An invalid FETCH takes nothing (R129). -/
theorem State.takeFetch_invalid {c : Cycle} (h : ¬s.fetchValid c = true) :
    s.takeFetch c = ((s.recordFetch c).passFetch c).answerFetch .nothing := by
  unfold State.takeFetch
  exact if_neg h

/-- A valid FETCH that finds nothing to give (R130, R131). -/
theorem State.takeFetch_nothing {c : Cycle} (h : s.fetchValid c = true) (hn : (s.recordFetch c).choose c = .nothing) :
    s.takeFetch c = fetched s c .nothing := by
  unfold State.takeFetch
  dsimp only
  rw [if_pos h, hn]
  rfl

/-- An invalid FETCH passes the fetch of a GIVEN window (R94, R129; log 41). -/
theorem State.passFetch_given {w : Window} (h : s.ltu.quiet = .given w) (c : Cycle) :
    s.passFetch c = s.setQuiet (.given { w with passed := w.passed || decide ((c - w.cq).toNat < 2147483648) }) := by
  unfold State.passFetch
  rw [h]
  rfl

/-- With no window GIVEN there is none to pass (R129). -/
theorem State.passFetch_none (h : ∀ w, s.ltu.quiet ≠ .given w) (c : Cycle) : s.passFetch c = s := by
  unfold State.passFetch
  split
  · next w hw => exact absurd hw (h w)
  all_goals rfl

/-! ### Nothing to give -/

/-- No reply-bearing entry that a slot can be asked for (R106, R132). -/
theorem State.chooseReply_noEntry (h : ∀ e ∈ s.dsq.reply, s.holdsBooking e.index = true ∨ s.replyOwner e = none) (c : Cycle) :
    s.chooseReply c = .nothing := by
  have none_wanted : s.dsq.reply.findSome? s.replyWants = none := by
    refine List.findSome?_eq_none_iff.2 fun e he => ?_
    unfold State.replyWants
    obtain booked | unowned := h e he
    · exact if_pos booked
    · rw [unowned]
      exact ite_self _
  unfold State.chooseReply
  rw [none_wanted]

/-- No usable slot among the transmit cycles scanned (R106, R132). -/
theorem State.chooseReply_noSlot {c : Cycle} (h : ∀ d j, s.header.replyLead.toNat ≤ d → d ≤ 15 → j < s.header.slotCount.toNat →
    s.usable (c + BitVec.ofNat 32 d) j = false) : s.chooseReply c = .nothing := by
  have none_usable : s.findSlot c = none := by
    refine List.find?_eq_none.2 fun ⟨d, j⟩ hmem => Bool.eq_false_iff.1 ?_
    obtain ⟨hlead, hd, hj⟩ := (s.mem_replyFields d j).1 hmem
    exact h d j hlead hd hj
  unfold State.chooseReply
  rw [none_usable]
  split
  · next hf => cases hf
  · rfl

/-- With the line down, and in OFF, LOADING and HALTED, nothing is given (R130). -/
theorem State.choose_silent (h : s.ltu.lineUp = false ∨ s.pct.port = .off ∨ s.pct.port = .loading ∨ s.pct.port = .halted) (c : Cycle) :
    s.choose c = .nothing := by
  unfold State.choose
  obtain down | port := h
  · exact if_pos down
  · obtain port | port | port := port <;> rw [port] <;> exact ite_self _

/-- In CONFIG and DRAINING the urgent list alone is drawn on (R130). -/
theorem State.choose_noUrgent (hp : s.pct.port = .config ∨ s.pct.port = .draining) (hu : s.dsq.urgent = []) (c : Cycle) :
    s.choose c = .nothing := by
  have urgent : s.chooseUrgent = .nothing := by
    unfold State.chooseUrgent
    rw [hu]
  unfold State.choose
  obtain port | port := hp <;> rw [port] <;> dsimp only <;> rw [urgent] <;> exact ite_self _

/-- With every collection before it empty, nothing is given where the reply-bearing list gives nothing (R131). -/
theorem State.choose_noReply {c : Cycle} (hp : s.pct.port = .running) (hw : NoWindowFor s c) (hu : s.dsq.urgent = [])
    (hc : s.dsq.control = []) (hq : s.dsu.parks = []) (hr : s.chooseReply c = .nothing) : s.choose c = .nothing := by
  have lists : s.chooseLists c = .nothing := by
    unfold State.chooseLists
    rw [hu, hc, hq, hr]
  unfold State.choose
  rw [hp]
  dsimp only
  rw [s.chooseAll_noWindow hw, lists]
  exact ite_self _

end Sys2Proof.Machine

namespace Sys2Proof.Proofs

open Sys2Proof.Machine Sys2Proof.Safety

/-- Settles O37: what is chosen is chosen after the fetch is recorded, which changes nothing that the choice reads. -/
theorem fetchNone : Obligations.FetchNone := by
  intro s c valid u
  refine ⟨fun invalid => ?_, fun hvalid nothing => ?_⟩
  · have fetch : exec (.fetch c) s = .next (((s.recordFetch c).passFetch c).answerFetch .nothing) :=
      congrArg Host.Outcome.next (s.takeFetch_invalid (mt (s.fetchValid_iff c).1 invalid))
    refine ⟨fun w hw => ?_, fun hn => ?_⟩
    · rw [fetch, State.passFetch_given (s.recordFetch c) hw]
      rfl
    · rw [fetch, State.passFetch_none (s.recordFetch c) hn]
      rfl
  · have none_chosen : (s.recordFetch c).choose c = .nothing := by
      obtain down | off | loading | halted | ⟨port, urgent⟩ | ⟨port, window, urgent, control, parks, reply⟩ := nothing
      · exact (s.recordFetch c).choose_silent (.inl down) c
      · exact (s.recordFetch c).choose_silent (.inr (.inl off)) c
      · exact (s.recordFetch c).choose_silent (.inr (.inr (.inl loading))) c
      · exact (s.recordFetch c).choose_silent (.inr (.inr (.inr halted))) c
      · exact (s.recordFetch c).choose_noUrgent port urgent c
      · have noReply : (s.recordFetch c).chooseReply c = .nothing := by
          obtain noEntry | noSlot := reply
          · exact (s.recordFetch c).chooseReply_noEntry noEntry c
          · exact (s.recordFetch c).chooseReply_noSlot noSlot
        exact (s.recordFetch c).choose_noReply port window urgent control parks noReply
    exact congrArg Host.Outcome.next (s.takeFetch_nothing ((s.fetchValid_iff c).2 hvalid) none_chosen)

end Sys2Proof.Proofs
end

section
set_option Elab.async false
/-! ARM_INTERVAL_START and QUIET_WINDOW_END (R103, R110, R112): the interval of the present line bit, and the end of a window. -/

namespace Sys2Proof.Machine

open Sys2Proof.Safety

variable (s : State)

/-! ### The interval of the present line bit -/

/-- The present line bit lies in the OPEN window's interval (R102, R110). -/
theorem State.windowNow_some {w : Window} (h : s.ltu.quiet = .opened w) (h0 : 0 ≤ s.ltu.since w.cq) (h1 : s.ltu.since w.cq < w.length) :
    s.windowNow = some w.interval := by
  unfold State.windowNow
  rw [h]
  exact if_pos ⟨h0, h1⟩

/-- The present line bit lies in no OPEN window's interval (R102, R110). -/
theorem State.windowNow_none (h : ∀ w, ¬(s.ltu.quiet = .opened w ∧ 0 ≤ s.ltu.since w.cq ∧ s.ltu.since w.cq < w.length)) :
    s.windowNow = none := by
  unfold State.windowNow
  split
  · next w hw => exact if_neg fun hin => h w ⟨hw, hin⟩
  all_goals rfl

/-- The arrival interval of an entry is SlotLen line bits from its arrival start (R105). -/
theorem State.slotNow_iff (e : Slot) : s.slotNow e = true ↔
    (s.header.targetLoop.toNat + s.header.spanStart.toNat + e.j * s.header.slotLen.toNat : Int) ≤ s.ltu.since e.ct ∧
      s.ltu.since e.ct <
        (s.header.targetLoop.toNat + s.header.spanStart.toNat + e.j * s.header.slotLen.toNat : Int) + s.header.slotLen.toNat := by
  have start : (s.arrivalStart e.j : Int) =
      s.header.targetLoop.toNat + s.header.spanStart.toNat + e.j * s.header.slotLen.toNat := by
    unfold State.arrivalStart State.targetLoop State.spanStart State.slotLen
    push_cast
    rfl
  have ends := s.arrivalEnd_cast e.j
  rw [Int.add_mul, Int.one_mul, ← Int.add_assoc] at ends
  unfold State.slotNow
  rw [Bool.and_eq_true, decide_eq_true_eq, decide_eq_true_eq, start, ends]

/-- A booked entry whose arrival interval the present line bit lies in (R110). -/
def ArrivesNow (s : State) (e : Slot) : Prop := e ∈ s.ltu.map ∧ e.use ≠ .void ∧ s.slotNow e = true

/-- Outside an OPEN window the interval is that of the only booked slot the line bit lies in (R110). -/
theorem State.intervalNow_slot {e : Slot} {i : RecIx} {o : Owner} {n : Nat} (hw : s.windowNow = none) (he : ArrivesNow s e)
    (only : ∀ e', ArrivesNow s e' → e' = e) (hu : e.use = .booked i o n) : s.intervalNow = some (.slot n e.ct e.j i o) := by
  obtain ⟨mem, booked, now⟩ := he
  have found : s.ltu.map.find? (fun e => decide (e.use ≠ .void) && s.slotNow e) = some e := by
    rcases h : s.ltu.map.find? (fun e => decide (e.use ≠ .void) && s.slotNow e) with _ | e'
    · exact absurd (List.find?_eq_none.1 h e mem) (by simp [booked, now])
    · have picked := List.find?_some h
      simp only [Bool.and_eq_true, decide_eq_true_eq] at picked
      rw [h, only e' ⟨List.mem_of_find?_eq_some h, picked⟩]
  unfold State.intervalNow
  rw [hw, found]
  show e.interval = _
  unfold Slot.interval
  rw [hu]

/-- A line bit of no interval (R110). -/
theorem State.intervalNow_none (hw : s.windowNow = none) (h : ∀ e, ¬ArrivesNow s e) : s.intervalNow = none := by
  have missed : s.ltu.map.find? (fun e => decide (e.use ≠ .void) && s.slotNow e) = none := by
    refine List.find?_eq_none.2 fun e he hp => h e ⟨he, ?_⟩
    simpa using hp
  unfold State.intervalNow
  rw [hw, missed]
  rfl

/-! ### The start of an interval -/

/-- The arm line rises for the interval of the present line bit, unless it is up for it (R110). -/
theorem State.startInterval_some {id : Interval} (h : s.intervalNow = some id) :
    s.startInterval = if s.ltu.armed = some id then s else s.arm id := by
  unfold State.startInterval
  rw [h]

/-- At a line bit of no interval nothing is armed (R110). -/
theorem State.startInterval_none (h : s.intervalNow = none) : s.startInterval = s := by
  unfold State.startInterval
  rw [h]

/-! ### The end of a window's length -/

/-- An OPEN window ends when its length has run out (R103). -/
theorem State.windowRunsOut_opened {w : Window} (h : s.ltu.quiet = .opened w) :
    s.windowRunsOut = if (w.length : Int) ≤ s.ltu.since w.cq then s.endWindow w else s := by
  unfold State.windowRunsOut
  rw [h]

/-- With no window OPEN there is none to end (R103). -/
theorem State.windowRunsOut_none (h : ∀ w, s.ltu.quiet ≠ .opened w) : s.windowRunsOut = s := by
  unfold State.windowRunsOut
  split
  · next w hw => exact absurd hw (h w)
  all_goals rfl

end Sys2Proof.Machine

namespace Sys2Proof.Proofs

open Sys2Proof.Machine Sys2Proof.Safety

/-- Settles O34: the interval of the present line bit is the OPEN window's, else that of the only booked slot. -/
theorem armedIntervals : Obligations.ArmedIntervals := by
  intro s at_ armed starts inWindow inSlot arms
  have rises : ∀ id, s.intervalNow = some id → arms id := fun id hid =>
    ⟨fun low => congrArg Host.Outcome.next ((s.startInterval_some hid).trans (if_neg low)),
      fun up => congrArg Host.Outcome.next ((s.startInterval_some hid).trans (if_pos up))⟩
  have inSlot_iff : ∀ e, ArrivesNow s e ↔ inSlot e := fun e => and_congr_right fun _ => and_congr_right fun _ => s.slotNow_iff e
  refine ⟨fun w ⟨hq, h0, h1⟩ => rises _ ?_, fun outside => ?_, fun w hw => ⟨fun ended => ?_, fun runs => ?_⟩, fun hn => ?_⟩
  · unfold State.intervalNow
    rw [s.windowNow_some hq h0 h1]
  · have noWindow : s.windowNow = none := s.windowNow_none outside
    refine ⟨fun e i o n he only hu => rises _ ?_, fun hnone => ?_⟩
    · exact s.intervalNow_slot noWindow ((inSlot_iff e).2 he) (fun e' he' => only e' ((inSlot_iff e').1 he')) hu
    · have nowhere := s.intervalNow_none noWindow fun e he => hnone e ((inSlot_iff e).1 he)
      exact congrArg Host.Outcome.next (s.startInterval_none nowhere)
  · exact congrArg Host.Outcome.next ((s.windowRunsOut_opened hw).trans ((if_pos ended).trans (s.endWindow_eq w)))
  · exact congrArg Host.Outcome.next ((s.windowRunsOut_opened hw).trans (if_neg (Int.not_le.2 runs)))
  · exact congrArg Host.Outcome.next (s.windowRunsOut_none hn)

end Sys2Proof.Proofs
end

section
set_option Elab.async false
/-! A step (R92, R112): the front of the queue, or one dark line bit. -/

namespace Sys2Proof.Machine

variable (s : State)

theorem step_front {c : Instr} {q : List Instr} (h : s.pending = c :: q) : step s = exec c (s.withPending q) := by
  unfold step
  rw [h]

theorem step_empty (h : s.pending = []) : step s = .next (s.laneSample darkSample) := by
  unfold step
  rw [h]

/-- With the arm line low a sample has no effect (R112). -/
theorem State.brxSample_disarmed (h : s.ltu.armed = none) (x : Sample) : s.brxSample x = s := by
  unfold State.brxSample
  rw [h]

end Sys2Proof.Machine

namespace Sys2Proof.Proofs

open Sys2Proof.Machine

/-- Settles O1. -/
theorem stepRunsFront : Obligations.StepRunsFront := by
  refine ⟨fun s c q h => step_front s h, fun s h => ⟨s.laneSample darkSample, step_empty s h, ?_, ?_, fun low => ?_⟩⟩
  · show (s.brxSample darkSample).pending = []
    simpa using h
  · show (s.brxSample darkSample).ltu.offset + 1 = s.ltu.offset + 1
    simp
  · unfold State.laneSample
    rw [s.brxSample_disarmed low]
    rfl

end Sys2Proof.Proofs
end

section
set_option Elab.async false
/-! The bytes of a message (R125, 11.10): the 22 bytes under the check, and the check after them. -/

namespace Sys2Proof.Machine

/-! ### Bytes of a string -/

/-- Zeros after a byte string change no byte of it: past its end the bytes are 0 (R125). -/
theorem byteAt_append_zeros (xs : List Byte) (n k : Nat) : byteAt (xs ++ List.replicate n 0) k = byteAt xs k := by
  unfold byteAt
  rcases Nat.lt_or_ge k xs.length with inside | past
  · exact List.getD_append _ _ _ _ inside
  · rw [List.getD_append_right _ _ _ _ past, List.getD_eq_default _ _ past, List.getD_eq_getElem?_getD,
      List.getElem?_getD_replicate_default_eq]

theorem length_bytesLE (n x : Nat) : (bytesLE n x).length = n := by
  induction n generalizing x with
  | zero => rfl
  | succ n ih => exact congrArg Nat.succ (ih (x / 256))

/-! ### The body of a message -/

/-- The 22 bytes of a message that its check covers (11.10). -/
def messageBody (kind line reply aux : Byte) (payload : List Byte) : List Byte :=
  [kind, line, reply, aux] ++ (payload ++ List.replicate (18 - payload.length) 0)

section
variable (kind line reply aux : Byte) (payload : List Byte)

theorem messageBytes_eq : messageBytes kind line reply aux payload =
    messageBody kind line reply aux payload ++ bytesLE 2 (crc16 (messageBody kind line reply aux payload)).toNat := rfl

/-- From byte 4 a body holds the payload, and zeros after it (11.10). -/
theorem byteAt_messageBody_payload (k : Nat) : byteAt (messageBody kind line reply aux payload) (4 + k) = byteAt payload k := by
  have past : byteAt (messageBody kind line reply aux payload) (4 + k) =
      byteAt (payload ++ List.replicate (18 - payload.length) 0) k := by
    rw [Nat.add_comm 4 k]
    rfl
  rw [past, byteAt_append_zeros]

variable {payload} (h : payload.length ≤ 18)
include h

theorem length_messageBody : (messageBody kind line reply aux payload).length = 22 := by
  unfold messageBody
  simp only [List.length_append, List.length_cons, List.length_nil, List.length_replicate]
  omega

/-! ### The message: its body, then its check -/

theorem length_messageBytes : (messageBytes kind line reply aux payload).length = 24 := by
  rw [messageBytes_eq, List.length_append, length_messageBody kind line reply aux h, length_bytesLE]

theorem byteAt_messageBytes {k : Nat} (hk : k < 22) :
    byteAt (messageBytes kind line reply aux payload) k = byteAt (messageBody kind line reply aux payload) k :=
  List.getD_append _ _ _ _ (hk.trans_eq (length_messageBody kind line reply aux h).symm)

theorem take_messageBytes : (messageBytes kind line reply aux payload).take 22 = messageBody kind line reply aux payload :=
  List.take_left' (length_messageBody kind line reply aux h)

/-- The check field holds the check of the 22 bytes before it (R125). -/
theorem natLE_drop_messageBytes : natLE ((messageBytes kind line reply aux payload).drop 22) =
    (crc16 ((messageBytes kind line reply aux payload).take 22)).toNat := by
  rw [take_messageBytes kind line reply aux h, messageBytes_eq, List.drop_left' (length_messageBody kind line reply aux h)]
  exact natLE_bytesLE_two (BitVec.isLt _)

end

/-- A terminal receives 24 bytes whose check field agrees with them (R125). -/
theorem messageReceived_iff (m : List Byte) :
    messageReceived m = true ↔ m.length = 24 ∧ (crc16 (m.take 22)).toNat = natLE (m.drop 22) := by
  simp [messageReceived]

end Sys2Proof.Machine

namespace Sys2Proof.Proofs

open Sys2Proof.Machine

/-- Settles O36: the fields are read from the body, and the check is the one a terminal forms again. -/
theorem messageLayout : Obligations.MessageLayout := by
  intro kind line reply aux payload h
  have inBody {k : Nat} (hk : k < 22) := byteAt_messageBytes kind line reply aux h hk
  have length := length_messageBytes kind line reply aux h
  have check := natLE_drop_messageBytes kind line reply aux h
  refine ⟨length, inBody (by decide), inBody (by decide), inBody (by decide), inBody (by decide), fun k hk => ?_, check,
    (messageReceived_iff _).2 ⟨length, check.symm⟩⟩
  exact (inBody (by omega)).trans (byteAt_messageBody_payload kind line reply aux payload k)

end Sys2Proof.Proofs
end

section
set_option Elab.async false
/-! A processor access with no hold due (R138, R139, R149): the window on the bus, and what neither the part nor the overlay answers. -/

namespace Sys2Proof.Machine

open Sys2Proof.Safety

variable (s : State)

/-! ### The bus address of a window word -/

theorem State.busAddr_toNat (w : WinWord) : (s.busAddr w).toNat = 16384 * s.bpt.base.toNat + w.toNat := by
  show (s.bpt.base ++ w).toNat = _
  have hlt : w.toNat < 2 ^ 14 := w.isLt
  rw [BitVec.toNat_append, ← Nat.shiftLeft_add_eq_or_of_lt hlt, Nat.shiftLeft_eq]
  omega

/-- A bus address in the window is the one of its word (R139). -/
theorem State.windowWord_eq_some {a : BusAddr} {w : WinWord} : s.windowWord a = some w ↔ a = s.busAddr w := by
  refine ⟨fun h => ?_, fun h => h ▸ s.windowWord_busAddr w⟩
  unfold State.windowWord at h
  split at h
  · next hbase =>
    cases h
    unfold State.busAddr
    rw [← hbase]
    exact BitVec.extractLsb'_eq_self.symm.trans (extract_append_extract a 0 6 14).symm
  · cases h

/-! ### The access -/

/-- An access for which no hold is due passes at once (R149). -/
theorem State.arbiter_passed (h : s.holdDue = false) : s.arbiter = passed s := by
  unfold State.arbiter
  rw [h]
  rfl

/-- A write outside the window passes to SRAM alone (R138). -/
theorem State.writeOutside {a : BusAddr} (data : Word) (be : Enables) (hold : s.holdDue = false) (h : s.windowWord a = none) :
    s.access (.write a data be) = written s a data be := by
  show s.arbiter.busWrite a data be = _
  unfold State.busWrite
  rw [s.arbiter_passed hold, show (passed s).windowWord a = none from h]
  rfl

/-- A read outside the window, or in OFF and LOADING, answers SRAM (R138, R141). -/
theorem State.readPlain {a : BusAddr} (hold : s.holdDue = false) (h : s.windowWord a = none ∨ s.pct.port.overlay = false) :
    s.access (.read a) = (passed s).answerRead (Memory.readWord s.sram a) := by
  show s.arbiter.busRead a = _
  unfold State.busRead
  rw [s.arbiter_passed hold]
  split
  · next w hw =>
    rw [if_neg fun ho => ?_]
    · rfl
    · obtain hn | hn := h
      · exact Option.some_ne_none w (hw.symm.trans hn)
      · exact Bool.false_ne_true (hn.symm.trans ho)
  · rfl

/-! ### Plain words -/

/-- A word of the window at which the part holds nothing (R140). -/
def PlainWord (w : WinWord) : Prop := (168 ≤ w.toNat ∧ w.toNat < 256) ∨ 2304 ≤ w.toNat

/-- No write of a plain word ends a snapshot, and the load does not read it (R145, R146, R160). -/
theorem PlainWord.beyond {w : WinWord} (h : PlainWord w) :
    decide (w.toNat < 128) = false ∧ isRecordWord w = false ∧ loadStep w.toNat = none := by
  refine ⟨decide_eq_false ?_, ?_, ?_⟩
  · rcases h with h | h <;> omega
  · unfold isRecordWord
    rw [← Bool.decide_and]
    exact decide_eq_false (by rcases h with h | h <;> omega)
  · unfold loadStep
    rcases h with ⟨h1, h2⟩ | h <;>
      rw [if_neg (by omega), if_neg (by omega), if_neg (by omega), if_neg (by omega), if_neg (by omega)]

/-- A write of a plain word outside the image area is offered to nobody (R142). -/
theorem State.windowWrite_plain {w : WinWord} (h : PlainWord w) (hw : w.toNat < 3328) (data : Word) (be : Enables) :
    s.windowWrite w data be = s := by
  obtain ⟨header, record, unread⟩ := h.beyond
  have ends : s.endSnapshots w = s := by
    unfold State.endSnapshots
    rw [header, record]
    simp only [Bool.not_false, Bool.and_true, Bool.false_and]
  have unloaded : s.loadHasRead w = false := by
    unfold State.loadHasRead
    rw [unread]
    rcases s.pct.load <;> rfl
  have unoffered : s.offerWrite w data be = s := by
    rcases h with ⟨h1, h2⟩ | h
    · exact s.offerWrite_unowned data (.inr (.inr (.inr ⟨by omega, h2⟩)))
    · unfold State.offerWrite
      dsimp only
      rw [if_neg (show ¬w.toNat < 64 by omega), if_neg (show ¬w.toNat < 128 by omega), if_neg (show ¬w.toNat < 160 by omega),
        if_neg (show ¬w.toNat < 256 by omega), if_neg (show ¬w.toNat < 2304 by omega), if_pos hw, ite_self]
  unfold State.windowWrite
  rw [ends, unloaded, unoffered, if_neg Bool.false_ne_true, ite_self]

/-- A read of a plain word answers SRAM in the overlay states too (R141). -/
theorem State.overlayRead_plain {w : WinWord} (h : PlainWord w) : s.overlayRead w = s.answerRead (s.sramWord w) := by
  unfold State.overlayRead
  dsimp only
  rcases h with ⟨h1, h2⟩ | h
  · rw [if_neg (by omega), if_neg (by omega), if_neg (by omega), if_neg (by omega), if_pos h2]
  · rw [if_neg (by omega), if_neg (by omega), if_neg (by omega), if_neg (by omega), if_neg (by omega), if_neg (by omega)]

end Sys2Proof.Machine

namespace Sys2Proof.Proofs

open Sys2Proof.Machine Sys2Proof.Safety

/-- Settles O4. -/
theorem consecutiveAccess : Obligations.ConsecutiveAccess := by
  refine ⟨fun s w => ⟨s.busAddr_toNat w, fun a => s.windowWord_eq_some⟩, fun s hold => ⟨fun a => ?_, fun w data be => ⟨rfl, rfl⟩⟩⟩
  intro plain
  have plainWord : ∀ {top}, plain top → ∃ w, s.windowWord a = some w ∧ PlainWord w ∧ (w.toNat < top ∨ w.toNat < 256) := by
    rintro top ⟨w, hw, h | ⟨h1, h2⟩⟩
    · exact ⟨w, hw, .inl h, .inr h.2⟩
    · exact ⟨w, hw, .inr h1, .inl h2⟩
  refine ⟨fun h data be => congrArg Host.Outcome.next ?_, fun h => congrArg Host.Outcome.next ?_⟩
  · cases hw : s.windowWord a with
    | none => exact s.writeOutside data be hold hw
    | some w =>
      obtain rfl := s.windowWord_eq_some.1 hw
      refine (s.accessWord_eq w data be hold).trans ?_
      obtain hn | ⟨hp, hl⟩ | h := h
      · exact absurd (hw.symm.trans hn) (Option.some_ne_none w)
      · exact State.windowWrite_off _ _ _ _ hp hl
      · obtain ⟨v, hv, hplain, hlt⟩ := plainWord h
        obtain rfl : w = v := Option.some.inj (hw.symm.trans hv)
        exact State.windowWrite_plain _ hplain (by omega) data be
  · obtain h | h | h | h := h
    · exact s.readPlain hold (.inl h)
    · exact s.readPlain hold (.inr (PortState.overlay_of_eq (.inl h)))
    · exact s.readPlain hold (.inr (PortState.overlay_of_eq (.inr h)))
    · obtain ⟨w, hw, hplain, -⟩ := plainWord h
      obtain rfl := s.windowWord_eq_some.1 hw
      by_cases ho : s.pct.port.overlay = true
      · exact (s.readWindow_overlay w hold ho).trans (State.overlayRead_plain _ hplain)
      · exact s.readPlain hold (.inr (Bool.not_eq_true _ ▸ ho))

end Sys2Proof.Proofs
end

section
set_option Elab.async false
/-! CONSUMER_INDEX_WRITE (R143, R156). -/

namespace Sys2Proof.Machine

open Sys2Proof.Safety

variable (s : State)

/-- The consumer index offered in an overlay state (R142, R156). -/
theorem State.consumerWrite_overlay (v : Byte) (high : BitVec 24) (he : BitVec 3) (hold : s.holdDue = false)
    (ho : s.pct.port.overlay = true) :
    s.accessWord 33 (withLane0 v high) (enableLane0 he) =
      (headerWritten s 33 (withLane0 v high) (enableLane0 he)).writeConsumer v := by
  have lanes : enableLane0 he &&& headerLanes 33 = 1 := and_one_of_lane0 (enableLane0_lane0 he)
  have enabled : enableLane0 he &&& headerLanes (33 : WinWord).toNat ≠ 0 := fun h => absurd (lanes.symm.trans h) (by decide)
  refine (setupWrite_header (w := 33) _ _ hold (by decide) enabled ho).trans ?_
  exact congrArg (State.writeConsumer _) (byteOf_withLane0 v high)

/-- Outside the overlay states the consumer index is not taken, since it is the last word that the load reads (R143, R160). -/
theorem State.consumerWrite_plain (data : Word) (be : Enables) (hold : s.holdDue = false)
    (h : (s.pct.port = .off ∧ s.pct.load = none) ∨ (s.pct.port = .loading ∧ ∃ m, s.pct.load = some m ∧ m < 592)) :
    s.accessWord 33 data be = written s (s.busAddr 33) data be := by
  obtain ⟨hp, hl⟩ | ⟨hp, m, hl, hm⟩ := h
  · exact (s.accessWord_eq 33 data be hold).trans (State.windowWrite_off _ _ _ _ hp hl)
  · exact (setupWrite_loading (k := 591) data be hold hp hl rfl).trans (if_neg (by omega))

/-- A consumer index from C to P circularly consumes the records before it (R156). -/
theorem State.writeConsumer_accepted {v : Byte} (h : (v - s.evw.consumer).toNat ≤ s.evw.unconsumed) :
    s.writeConsumer v = State.followInterrupt { s with
      evw := { s.evw with consumer := v, written := s.evw.written.drop (v - s.evw.consumer).toNat } } :=
  if_pos h

/-- Any other consumer index is rejected (R156). -/
theorem State.writeConsumer_rejected {v : Byte} (h : s.evw.unconsumed < (v - s.evw.consumer).toNat) :
    s.writeConsumer v = s.discard noIndex .range 132 :=
  if_neg (Nat.not_le.2 h)

end Sys2Proof.Machine

namespace Sys2Proof.Proofs

open Sys2Proof.Machine Sys2Proof.Safety

/-- Settles O14. -/
theorem consumerIndexWrite : Obligations.ConsumerIndexWrite := by
  intro s v high he hold u n
  refine ⟨fun h => congrArg Host.Outcome.next (s.consumerWrite_plain _ _ hold h), fun h1 h2 => ?_⟩
  have ho : s.pct.port.overlay = true := PortState.overlay_of_ne ⟨h1, h2⟩
  have offered : exec (.consumerIndexWrite v high he) s = .next (u.writeConsumer v) :=
    congrArg Host.Outcome.next (s.consumerWrite_overlay v high he hold ho)
  refine ⟨fun h => ?_, fun h => ?_⟩
  · exact offered.trans (congrArg Host.Outcome.next (u.writeConsumer_accepted h))
  · rw [offered, u.writeConsumer_rejected h, u.discard_overlay _ _ _ ho]
    rfl

end Sys2Proof.Proofs
end

section
set_option Elab.async false
/-! EVENT_WRITE_START and EVENT_WORD_WRITTEN (R148, R155). -/

namespace Sys2Proof.Machine

variable (s : State)

/-- The head event begins to be written to slot P (R155). -/
theorem State.startEvent_placed {e : Event} {q : List Event} (hq : s.evw.queue = e :: q)
    (room : s.evw.producer + 1 ≠ s.evw.consumer) (hs : s.evw.stage = 0) : s.startEvent = s.placeEventWord e 0 := by
  unfold State.startEvent
  rw [hq]
  exact if_pos ⟨decide_eq_false room, hs⟩

/-- With no event pending, the ring full or a write in progress, none begins (R155). -/
theorem State.startEvent_idle (h : s.evw.queue = [] ∨ s.evw.producer + 1 = s.evw.consumer ∨ s.evw.stage ≠ 0) : s.startEvent = s := by
  unfold State.startEvent
  split
  · rfl
  · next e q hq =>
    refine if_neg fun ⟨hfull, hs⟩ => ?_
    obtain h | h | h := h
    · exact List.cons_ne_nil e q (hq.symm.trans h)
    · exact of_decide_eq_false hfull h
    · exact h hs

/-- After words 1 to 3 of the head event the next one waits (R155). -/
theorem State.eventServed_next {e : Event} {q : List Event} (hq : s.evw.queue = e :: q) (h : s.evw.stage < 4) :
    s.eventServed = s.placeEventWord e s.evw.stage := by
  unfold State.eventServed
  rw [hq]
  exact if_pos h

/-- After the fourth word the record is finished (R155). -/
theorem State.eventServed_last {e : Event} {q : List Event} (hq : s.evw.queue = e :: q) (h : 4 ≤ s.evw.stage) :
    s.eventServed = s.finishEvent e := by
  unfold State.eventServed
  rw [hq]
  exact if_neg (Nat.not_lt.2 h)

theorem execEventWordWritten_some {r : WriteRequest} (h : s.bpt.evwRequest = some r) :
    execEventWordWritten s = .next (s.serveEvent r) := by
  unfold execEventWordWritten
  rw [h]

end Sys2Proof.Machine

namespace Sys2Proof.Proofs

open Sys2Proof.Machine

/-- Settles O12. -/
theorem eventWords : Obligations.EventWords := by
  refine ⟨fun s => ⟨fun e q hq room hs => ?_, fun h => congrArg Host.Outcome.next (s.startEvent_idle h)⟩, ?_⟩
  · exact congrArg Host.Outcome.next (s.startEvent_placed hq room hs)
  · intro s r e q hr hq m
    have served : exec .eventWordWritten s = .next ((s.sramWrite (s.busAddr r.word) r.data 0b1111).servedOne).eventServed :=
      execEventWordWritten_some s hr
    have head : ((s.sramWrite (s.busAddr r.word) r.data 0b1111).servedOne).evw.queue = e :: q := hq
    refine ⟨fun _ h3 => ?_, fun h4 => ?_⟩
    · exact served.trans (congrArg Host.Outcome.next (State.eventServed_next _ head (Nat.lt_succ_of_le h3)))
    · rw [served, State.eventServed_last _ head h4.ge]
      have rest : q = s.evw.queue.drop 1 := by rw [hq]; rfl
      rw [rest]
      rfl

end Sys2Proof.Proofs
end

section
set_option Elab.async false
/-! RECORD_SNAPSHOT_READ and HEADER_SNAPSHOT_READ (R141, R144 to R146): what they latch, and what a read answers while it is held. -/

namespace Sys2Proof.Machine

open Sys2Proof.Safety

variable (s : State)

/-! ### What a snapshot holds -/

/-- Word `k` of a snapshot taken word by word. -/
theorem getD_toList_ofFn {n k : Nat} (f : Fin n → Word) (h : k < n) : (Vector.ofFn f).toList.getD k 0 = f ⟨k, h⟩ := by
  rw [Vector.toList_ofFn, List.getD_eq_getElem _ _ (by simpa using h), List.getElem_ofFn]

/-- Word `k` of a record snapshot is live word `k` (R144). -/
theorem Record.liveWords_getD (r : Record) {k : Nat} (h : k < 12) : r.liveWords.toList.getD k 0 = r.liveWord k :=
  getD_toList_ofFn _ h

theorem Record.liveWords_getElem (r : Record) (k : Fin 12) : r.liveWords[k] = r.liveWord k.val :=
  Vector.getElem_ofFn k.isLt

/-- Word `k` of a header snapshot is header live word `k` (R146). -/
theorem headerLiveWords_getD {k : Nat} (h : k < 64) : (headerLiveWords s).toList.getD k 0 = headerLiveWord s k :=
  getD_toList_ofFn _ h

theorem headerLiveWords_getElem (k : Fin 64) : (headerLiveWords s)[k] = headerLiveWord s k.val :=
  Vector.getElem_ofFn k.isLt

/-! ### Reads -/

/-- A read of word 0 of a record latches its live bytes and answers the copy (R144). -/
theorem State.overlayRead_intentWord (i : RecIx) :
    s.overlayRead (setupWordOf i 0) = (s.latchRecord i).answerRead ((s.record i).setupWord 0) := by
  unfold State.overlayRead
  dsimp only
  rw [recordOfWord_setupWordOf i (by omega), setupWordOf_toNat i (by omega), if_neg (by omega), if_neg (by omega), if_neg (by omega),
    if_neg (by omega), if_neg (by omega), if_pos (by omega), if_pos (by omega)]

/-- A read of live word `k` of a record whose snapshot is held answers the snapshot (R145). -/
theorem State.overlayRead_recordHeld {i : RecIx} {k : Nat} (hk : k < 12) (held : s.bpt.snapHeld = true) (hi : s.bpt.snapIndex = i) :
    s.overlayRead (setupWordOf i (4 + k)) = s.answerRead (s.bpt.snap.toList.getD k 0) := by
  unfold State.overlayRead
  dsimp only
  rw [recordOfWord_setupWordOf i (by omega), setupWordOf_toNat i (by omega), if_neg (by omega), if_neg (by omega), if_neg (by omega),
    if_neg (by omega), if_neg (by omega), if_pos (by omega), if_neg (by omega), if_neg (by omega),
    show (256 + 16 * i.val + (4 + k)) % 16 - 4 = k by omega]
  exact congrArg s.answerRead (if_pos ⟨held, hi⟩)

/-- A read of header live word 0 latches the header live region and answers it (R146). -/
theorem State.overlayRead_headerZero : s.overlayRead 64 = s.latchHeader.answerRead (headerLiveWord s 0) := rfl

/-- A read of header live word `k` above 0 while the header snapshot is held answers the snapshot (R146). -/
theorem State.overlayRead_headerHeld {k : Nat} (h1 : 1 ≤ k) (hk : k < 64) (held : s.bpt.headerHeld = true) :
    s.overlayRead (BitVec.ofNat 14 (64 + k)) = s.answerRead (s.bpt.headerSnap.toList.getD k 0) := by
  have word : (BitVec.ofNat 14 (64 + k)).toNat = 64 + k := by
    rw [BitVec.toNat_ofNat]
    exact Nat.mod_eq_of_lt (by omega)
  unfold State.overlayRead
  dsimp only
  rw [word, if_neg (by omega), if_pos (by omega), if_neg (by omega), Nat.add_sub_cancel_left]
  exact congrArg s.answerRead (if_pos held)

end Sys2Proof.Machine

namespace Sys2Proof.Proofs

open Sys2Proof.Machine Sys2Proof.Safety

/-- Settles O23. -/
theorem snapshotReads : Obligations.SnapshotReads := by
  refine ⟨fun s i hold => ⟨fun h => ?_, fun h1 h2 => ?_⟩, fun s hold => ⟨fun h => ?_, fun h1 h2 => ?_⟩⟩
  · exact congrArg Host.Outcome.next (s.readWindow_plain (setupWordOf i 0) hold (PortState.overlay_of_eq h))
  · have latched : exec (.recordSnapshotRead i) s = .next (((passed s).latchRecord i).answerRead ((s.record i).setupWord 0)) :=
      congrArg Host.Outcome.next
        ((s.readWindow_overlay (setupWordOf i 0) hold (PortState.overlay_of_ne ⟨h1, h2⟩)).trans ((passed s).overlayRead_intentWord i))
    refine ⟨_, latched, rfl, (s.record i).liveWords_getElem, fun t' k hold' h1' h2' held hi hsnap => ?_⟩
    rw [t'.readWord_overlay _ hold' (PortState.overlay_of_ne ⟨h1', h2'⟩), (passed t').overlayRead_recordHeld k.isLt held hi,
      ← (s.record i).liveWords_getD k.isLt]
    exact congrArg (fun v : Vector Word 12 => Host.Outcome.next ((passed t').answerRead (v.toList.getD k.val 0))) hsnap
  · exact congrArg Host.Outcome.next (s.readWindow_plain 64 hold (PortState.overlay_of_eq h))
  · have latched : exec .headerSnapshotRead s = .next ((passed s).latchHeader.answerRead (headerLiveWord s 0)) :=
      congrArg Host.Outcome.next (s.readWindow_overlay 64 hold (PortState.overlay_of_ne ⟨h1, h2⟩))
    refine ⟨_, latched, rfl, headerLiveWords_getElem s, fun t' k hk hold' h1' h2' held hsnap => ?_⟩
    rw [t'.readWord_overlay _ hold' (PortState.overlay_of_ne ⟨h1', h2'⟩), (passed t').overlayRead_headerHeld hk k.isLt held,
      ← headerLiveWords_getD s k.isLt]
    exact congrArg (fun v : Vector Word 64 => Host.Outcome.next ((passed t').answerRead (v.toList.getD k.val 0))) hsnap

end Sys2Proof.Proofs
end

section
set_option Elab.async false
/-! What a command stores in SRAM (R138, R148, R149, R155): its stores one after another, and nothing else. -/

namespace Sys2Proof.Safety

open Sys2Proof.Machine

/-! ### Stores one after another -/

/-- SRAM after the stores, in order (R138). -/
def storedAll (m : List Host.Cell) (l : List Store) : List Host.Cell :=
  l.foldl (fun m w => Memory.writeWord m w.1 w.2.1 w.2.2) m

theorem storedAll_one (a : BusAddr) (data : Word) (be : Enables) (s : State) :
    storedAll s.sram [(a, data, be)] = (s.sramWrite a data be).sram := rfl

theorem storedAll_append (m : List Host.Cell) (l k : List Store) : storedAll m (l ++ k) = storedAll (storedAll m l) k :=
  List.foldl_append

/-- A byte after a store is the byte that it stores there, or the byte as it was (R138). -/
theorem read_stored {m : List Host.Cell} (hm : Memory.wf m) (w : Store) (x : Nat) :
    Memory.read (Memory.writeWord m w.1 w.2.1 w.2.2) x = (byteStored w x).getD (Memory.read m x) := by
  unfold byteStored
  by_cases hx : x / 4 = w.1.toNat
  · have lane : x = Memory.laneAddr w.1 (x % 4) := by
      unfold Memory.laneAddr
      omega
    have same := Memory.read_writeWord_lane (a := w.1) (data := w.2.1) (be := w.2.2) (k := x % 4) (by omega) hm
    rw [← lane] at same
    rw [same]
    by_cases hb : w.2.2.getLsbD (x % 4) = true
    · rw [if_pos hb, if_pos ⟨hx, hb⟩, Option.getD_some]
    · rw [if_neg hb, if_neg fun h => hb h.2, Option.getD_none]
  · rw [if_neg fun h => hx h.1, Option.getD_none]
    refine Memory.read_writeWord_other fun k hk hlane => hx ?_
    unfold Memory.laneAddr at hlane
    omega

/-- A byte after the stores is that of the latest that enables it (R138). -/
theorem read_storedAll (l : List Store) (x : Nat) : ∀ {m : List Host.Cell}, Memory.wf m →
    Memory.read (storedAll m l) x = l.foldl (fun b w => (byteStored w x).getD b) (Memory.read m x) := by
  induction l with
  | nil => exact fun _ => rfl
  | cons w l ih =>
    intro m hm
    rw [List.foldl_cons, ← read_stored hm]
    exact ih (Memory.writeWord_wf w.1 w.2.1 w.2.2 hm)

/-! ### The request that ranks highest -/

variable (s : State)

theorem serveHighest_event {r : WriteRequest} (h : s.bpt.evwRequest = some r) : s.serveHighest = s.serveEvent r := by
  unfold State.serveHighest
  rw [h]

theorem serveHighest_channel {ch : ChanIx} {r : ReadRequest} (he : s.bpt.evwRequest = none)
    (h : s.firstChannelWaiting = some (ch, r)) : s.serveHighest = s.serveChannel ch r := by
  unfold State.serveHighest
  rw [he, h]

theorem serveHighest_load {w : WinWord} (he : s.bpt.evwRequest = none) (hc : s.firstChannelWaiting = none)
    (h : s.bpt.loadRequest = some w) : s.serveHighest = s.serveLoad w := by
  unfold State.serveHighest
  rw [he, hc, h]

theorem serveHighest_none (he : s.bpt.evwRequest = none) (hc : s.firstChannelWaiting = none) (h : s.bpt.loadRequest = none) :
    s.serveHighest = s := by
  unfold State.serveHighest
  rw [he, hc, h]

/-! ### Accesses -/

theorem eventStore_some {r : WriteRequest} (h : s.bpt.evwRequest = some r) :
    eventStore s = [(s.busAddr r.word, r.data, (0b1111 : Enables))] := by
  unfold eventStore
  rw [h]
  rfl

theorem eventStore_none (h : s.bpt.evwRequest = none) : eventStore s = [] := by
  unfold eventStore
  rw [h]
  rfl

/-- The EVW's request served stores its word (R148, R155). -/
theorem serveEvent_sram {r : WriteRequest} (h : s.bpt.evwRequest = some r) : (s.serveEvent r).sram = storedAll s.sram (eventStore s) := by
  have served : (s.serveEvent r).sram = (s.sramWrite (s.busAddr r.word) r.data 0b1111).sram := by simp [State.serveEvent]
  rw [eventStore_some s h, served, storedAll_one]

/-- A hold stores the event word that waits: no other request that it may serve stores (R148, R149). -/
theorem serveHighest_sram : s.serveHighest.sram = storedAll s.sram (eventStore s) := by
  cases he : s.bpt.evwRequest with
  | some r =>
    rw [serveHighest_event s he]
    exact serveEvent_sram s he
  | none =>
    rw [eventStore_none s he]
    cases hc : s.firstChannelWaiting with
    | some p =>
      rw [serveHighest_channel s he hc]
      simp [storedAll]
    | none =>
      cases hl : s.bpt.loadRequest with
      | some w =>
        rw [serveHighest_load s he hc hl]
        simp [storedAll]
      | none =>
        rw [serveHighest_none s he hc hl]
        rfl

theorem arbiter_sram : s.arbiter.sram = storedAll s.sram (if s.holdDue then eventStore s else []) := by
  unfold State.arbiter
  split
  · exact serveHighest_sram s
  · rfl

/-- A processor access stores what a hold lets pass first, then its own word (R138, R149). -/
theorem access_sram (a : Access) : (s.access a).sram = storedAll s.sram ((if s.holdDue then eventStore s else []) ++ storeOf a) := by
  rw [storedAll_append, ← arbiter_sram]
  cases a with
  | read addr =>
    have read : (s.arbiter.busRead addr).sram = s.arbiter.sram := by simp
    exact read
  | write addr data be =>
    show _ = storedAll s.arbiter.sram [(addr, data, be)]
    rw [storedAll_one]
    show (s.arbiter.busWrite addr data be).sram = _
    unfold State.busWrite
    dsimp only
    split
    · simp
    · rfl

/-! ### The other commands -/

/-- What a command answers, if a next state, has SRAM as given. -/
def LeavesSram (m : List Host.Cell) (r : Result) : Prop := ∀ t, r = .next t → t.sram = m

theorem leavesSram_next {m : List Host.Cell} {t : State} (h : t.sram = m := by simp) : LeavesSram m (.next t) :=
  fun u hu => by cases hu; exact h

/-- A command that takes effect under a condition alone. -/
theorem leavesSram_ite {s t : State} {p : Prop} [Decidable p] (h : t.sram = s.sram := by simp) :
    LeavesSram s.sram (if p then .next t else .next s) := by
  split
  · exact leavesSram_next h
  · exact leavesSram_next

theorem feed_sram (ps : List HuntPhase) (xs : List Sample) : ∀ s, (State.feed ps xs s).sram = s.sram := by
  induction xs with
  | nil => exact fun _ => rfl
  | cons x xs ih =>
    intro s
    unfold State.feed
    split
    · rw [ih]
      simp
    · rfl

theorem execLoadRead_sram : LeavesSram s.sram (execLoadRead s) := by
  unfold execLoadRead
  (repeat' split) <;> exact leavesSram_next

theorem execSlotArrivalEnd_sram (ct : Cycle) (j : Fin 8) : LeavesSram s.sram (execSlotArrivalEnd ct j s) := by
  unfold execSlotArrivalEnd
  split
  · exact leavesSram_ite
  · exact leavesSram_next

theorem execSlotEndReport_sram (ct : Cycle) (j : Fin 8) : LeavesSram s.sram (execSlotEndReport ct j s) := by
  unfold execSlotEndReport
  split
  · exact leavesSram_ite
  · exact leavesSram_next

theorem execDiscoveryRoundComplete_sram : LeavesSram s.sram (execDiscoveryRoundComplete s) := by
  unfold execDiscoveryRoundComplete
  split
  · exact leavesSram_ite
  all_goals exact leavesSram_next

/-- A capture taken, or none waiting. -/
theorem execTakes_sram : LeavesSram s.sram (execHelloTake s) ∧ LeavesSram s.sram (execEchoTake s) ∧
    LeavesSram s.sram (execSettleReply s) ∧ LeavesSram s.sram (execBlockReply s) := by
  refine ⟨?_, ?_, ?_, ?_⟩
  · unfold execHelloTake
    split <;> exact leavesSram_next
  · unfold execEchoTake
    split
    · exact leavesSram_ite
    · exact leavesSram_next
  · unfold execSettleReply
    split
    · exact leavesSram_ite
    · exact leavesSram_next
  · unfold execBlockReply
    split <;> exact leavesSram_next

theorem execAttemptJudge_sram : LeavesSram s.sram (execAttemptJudge s) := by
  unfold execAttemptJudge
  split
  · exact leavesSram_ite
  · exact leavesSram_next

theorem execImageRead_sram (ch : ChanIx) : LeavesSram s.sram (execImageRead ch s) := by
  unfold execImageRead
  split
  · split
    · exact leavesSram_ite
    · exact leavesSram_next
  · exact leavesSram_next

/-- An outcome applied or dropped, or none on its way. -/
theorem execOutcomes_sram : LeavesSram s.sram (execRangingOutcome s) ∧ LeavesSram s.sram (execSettleOutcome s) ∧
    LeavesSram s.sram (execProfileOutcome s) := by
  refine ⟨?_, ?_, ?_⟩
  · unfold execRangingOutcome
    split
    · dsimp only
      split <;> exact leavesSram_next
    · exact leavesSram_next
  · unfold execSettleOutcome
    split
    · dsimp only
      split <;> exact leavesSram_next
    · exact leavesSram_next
  · unfold execProfileOutcome
    split
    · dsimp only
      split <;> exact leavesSram_next
    · exact leavesSram_next

theorem execEventWordWritten_sram : LeavesSram (storedAll s.sram (eventStore s)) (execEventWordWritten s) := by
  unfold execEventWordWritten
  split
  · next r hr => exact leavesSram_next (serveEvent_sram s hr)
  · next hr =>
    rw [eventStore_none s hr]
    exact leavesSram_next rfl

theorem execAccessHold_sram (acc : Access) :
    LeavesSram (storedAll s.sram (if s.holdDue then eventStore s ++ storeOf acc else [])) (execAccessHold acc s) := by
  have made := access_sram s acc
  unfold execAccessHold
  split
  · next hold =>
    rw [if_pos hold] at made
    exact leavesSram_next made
  · exact leavesSram_next rfl

/-- Every command leaves SRAM with its stores made in order (R138, R148, R149, R155). -/
theorem exec_sram (c : Instr) : LeavesSram (storedAll s.sram (storesOf s c)) (exec c s) := by
  have access : ∀ a, LeavesSram (storedAll s.sram ((if s.holdDue then eventStore s else []) ++ storeOf a)) (.next (s.access a)) :=
    fun a => leavesSram_next (access_sram s a)
  have fed : ∀ ps xs, LeavesSram s.sram (.next (State.feed ps xs s)) := fun ps xs => leavesSram_next (feed_sram ps xs s)
  obtain ⟨hello, echo, settle, block⟩ := execTakes_sram s
  obtain ⟨ranging, settled, profile⟩ := execOutcomes_sram s
  cases c with
  | intentAdmit | intentHold | intentVacant | setupWrite | portIntentConfig | portIntentRun | portIntentHalt | consumerIndexWrite
  | imageWrite | recordSnapshotRead | headerSnapshotRead | popRead | consecutiveAccess => exact access _
  | accessHold acc => exact execAccessHold_sram s acc
  | eventWordWritten => exact execEventWordWritten_sram s
  | hardwareReset => exact leavesSram_next rfl
  | resetRelease straps => exact leavesSram_ite (s := s)
  | loadRead => exact execLoadRead_sram s
  | drainComplete => exact leavesSram_ite (s := s)
  | roundDue => exact leavesSram_ite (s := s)
  | interruptHold => exact leavesSram_ite (s := s)
  | cycle c => exact leavesSram_next (t := s.cycleStart c) (m := s.sram)
  | quietTimeout => exact leavesSram_next (t := s.timeOutAsk) (m := s.sram)
  | fetch c => exact leavesSram_next (t := s.takeFetch c) (m := s.sram)
  | lineDown => exact leavesSram_next (t := s.lineFalls) (m := s.sram)
  | lineUp => exact leavesSram_next (t := s.lineRises) (m := s.sram)
  | give cq => exact leavesSram_next (t := s.takeGive cq) (m := s.sram)
  | deny => exact leavesSram_next (t := s.takeDeny) (m := s.sram)
  | revoke => exact leavesSram_next (t := s.takeRevoke) (m := s.sram)
  | armIntervalStart => exact leavesSram_next (t := s.startInterval) (m := s.sram)
  | quietWindowEnd => exact leavesSram_next (t := s.windowRunsOut) (m := s.sram)
  | slotArrivalEnd ct j => exact execSlotArrivalEnd_sram s ct j
  | slotEndReport ct j => exact execSlotEndReport_sram s ct j
  | noDelimiter | burstComplete | preambleRecognized | delimiterCompared | kindByte => exact fed _ _
  | helloTake => exact hello
  | discoveryRoundComplete => exact execDiscoveryRoundComplete_sram s
  | echoTake => exact echo
  | attemptJudge => exact execAttemptJudge_sram s
  | settleReply => exact settle
  | blockReply => exact block
  | imageRead ch => exact execImageRead_sram s ch
  | rangingOutcome => exact ranging
  | settleOutcome => exact settled
  | profileOutcome => exact profile
  | eventWriteStart => exact leavesSram_next (t := s.startEvent) (m := s.sram)

end Sys2Proof.Safety

namespace Sys2Proof.Proofs

open Sys2Proof.Machine Sys2Proof.Safety

/-- Settles O3: a command makes its stores in order, and each byte of SRAM is that of the latest store that enables it. -/
theorem memoryStores : Obligations.MemoryStores := by
  intro c s t hm ht x
  rw [exec_sram s c t ht]
  exact read_storedAll (storesOf s c) x hm

end Sys2Proof.Proofs
end

section
set_option Elab.async false
/-! What the service of an inserted request leaves of the memory side (R139, R148, R149): the window base, and a count of 0. -/

namespace Sys2Proof.Machine

open Sys2Proof.Safety

/-- From `s` to `t` the Bus Pass-Through has changed in the channels' requests at most (R148). -/
def ReadsAside (s t : State) : Prop := t.bpt = { s.bpt with chanRequests := t.bpt.chanRequests }

theorem ReadsAside.refl (s : State) : ReadsAside s s := rfl

theorem ReadsAside.base {s t : State} (h : ReadsAside s t) : t.bpt.base = s.bpt.base := by
  unfold ReadsAside at h
  rw [h]

theorem ReadsAside.consecutive {s t : State} (h : ReadsAside s t) : t.bpt.consecutive = s.bpt.consecutive := by
  unfold ReadsAside at h
  rw [h]

section

variable {s t : State} (h : ReadsAside s t)
include h

theorem ReadsAside.trans {u : State} (h' : ReadsAside t u) : ReadsAside s u := by
  unfold ReadsAside at *
  rw [h', h]

theorem ReadsAside.same {u : State} (hb : u.bpt = t.bpt := by simp) : ReadsAside s u := by
  unfold ReadsAside
  rw [hb]
  exact h

/-! ### Channels -/

theorem ReadsAside.setRequest (ch : ChanIx) (r : Option ReadRequest) : ReadsAside s (t.setRequest ch r) := h.trans rfl

theorem ReadsAside.placeRead (ch : ChanIx) : ReadsAside s (t.placeRead ch) := by
  unfold State.placeRead
  split
  · exact h.setRequest _ _
  · exact h

theorem ReadsAside.dropRead (ch : ChanIx) : ReadsAside s (t.dropRead ch) := by
  unfold State.dropRead
  split
  · exact h
  · exact h.setRequest _ _

theorem ReadsAside.runFill (ch : ChanIx) (bs : List Byte) : ReadsAside s (t.runFill ch bs) := by
  have kept : ∀ u : State, u.bpt = t.bpt → ∀ wants : Bool, ReadsAside s (if wants then u.placeRead ch else u) := by
    intro u hu wants
    split
    · exact (h.same hu).placeRead ch
    · exact h.same hu
  unfold State.runFill
  refine kept _ ?_ _
  split <;> rfl

theorem ReadsAside.scanGood (ch : ChanIx) : ReadsAside s (t.scanGood ch) := by
  unfold State.scanGood
  dsimp only
  split
  · exact h.same
  · exact ReadsAside.runFill h.same _ _

theorem ReadsAside.startScan (ch : ChanIx) : ReadsAside s (t.startScan ch) := by
  unfold State.startScan
  dsimp only
  split
  · exact ReadsAside.scanGood h.same _
  · split
    · exact ReadsAside.placeRead h.same _
    · exact h.same

theorem ReadsAside.grantWaiting (ch : ChanIx) : ReadsAside s (t.grantWaiting ch) := by
  unfold State.grantWaiting
  split
  · exact h
  · unfold State.grantChannel
    exact ReadsAside.startScan h.same _

/-- The data of a served read reaches its channel (R83). -/
theorem ReadsAside.deliver (ch : ChanIx) (data : Word) : ReadsAside s (t.deliver ch data) := by
  unfold State.deliver
  dsimp only
  split
  · split
    · exact h.same
    · split
      · exact ReadsAside.scanGood h.same _
      · exact ReadsAside.placeRead h.same _
  · exact h.runFill _ _

/-- The data of a served read is discarded (R90). -/
theorem ReadsAside.resume (ch : ChanIx) : ReadsAside s (t.resume ch) := by
  unfold State.resume
  split
  case h_1 | h_2 => exact h
  case h_3 => exact h.placeRead _
  all_goals exact h.runFill _ _

/-! ### Intents -/

theorem ReadsAside.dropPush (i : RecIx) : ReadsAside s (t.dropPush i) := by
  unfold State.dropPush
  dsimp only
  split
  · exact h.same
  · next ch _ =>
    unfold State.freeChannel
    refine ReadsAside.grantWaiting (ReadsAside.dropRead ?_ ch) ch
    exact h.same

theorem ReadsAside.abandonWork (i : RecIx) : ReadsAside s (t.abandonWork i) := by
  unfold State.abandonWork
  refine ReadsAside.dropPush ?_ i
  exact h.same

theorem ReadsAside.release (i : RecIx) (d : RelDest) (why : ChangeReason) (f : Option FailReason) :
    ReadsAside s (t.release i d why f) := by
  unfold State.release
  refine ReadsAside.same (t := State.abandonWork _ i) (ReadsAside.abandonWork ?_ i) rfl
  exact h.same

theorem ReadsAside.actHold (i : RecIx) : ReadsAside s (t.actHold i) := by
  unfold State.actHold
  split
  case h_1 | h_2 | h_3 | h_4 | h_5 => exact h.same
  all_goals exact h.release _ _ _ _

theorem ReadsAside.actVacant (i : RecIx) : ReadsAside s (t.actVacant i) := by
  unfold State.actVacant
  split
  case h_1 | h_2 | h_3 | h_4 | h_5 => exact h.same
  all_goals exact h.release _ _ _ _

theorem ReadsAside.actIntent (i : RecIx) : ReadsAside s (t.actIntent i) := by
  unfold State.actIntent
  split
  · exact h.actVacant i
  · split
    · exact h.same
    · split
      · exact h.actHold i
      · exact ReadsAside.actHold h.same i

theorem ReadsAside.foldl_actIntent (l : List RecIx) : ReadsAside s (l.foldl (fun u i => u.actIntent i) t) := by
  induction l generalizing t with
  | nil => exact h
  | cons i l ih => exact ih (h.actIntent i)

/-! ### The port intent at the end of the load -/

theorem ReadsAside.validateRun : ReadsAside s t.validateRun := by
  unfold State.validateRun
  split
  · exact h.same
  · split
    · exact h.same
    · unfold State.runFromConfig State.actAllIntents
      refine ReadsAside.foldl_actIntent ?_ allRecords
      exact h.same

/-- A port intent acted on in CONFIG (R161). -/
theorem ReadsAside.actPortIntent (hp : t.pct.port = .config) : ReadsAside s t.actPortIntent := by
  have halted : ReadsAside t t.halt := by
    obtain ⟨-, -, -, -, -, hb, -⟩ := t.halt_spec (by rw [hp]; rfl)
    exact hb
  unfold State.actPortIntent
  split
  · rw [t.actConfig_cases.1 (.inl hp)]
    exact h
  · split
    · rw [t.actRun_cases.1 hp]
      exact h.validateRun
    · rw [t.actHalt_cases.1 (.inl hp)]
      exact h.trans halted

end

/-! ### A request served -/

variable (s : State)

theorem State.serveEvent_count (r : WriteRequest) :
    (s.serveEvent r).bpt.base = s.bpt.base ∧ (s.serveEvent r).bpt.consecutive = 0 := by
  have kept : ∀ t : State, t.eventServed.bpt.base = t.bpt.base ∧ t.eventServed.bpt.consecutive = t.bpt.consecutive := by
    intro t
    unfold State.eventServed
    split
    · exact ⟨rfl, rfl⟩
    · split <;> exact ⟨rfl, rfl⟩
  exact kept _

theorem State.serveChannel_count (ch : ChanIx) (r : ReadRequest) :
    (s.serveChannel ch r).bpt.base = s.bpt.base ∧ (s.serveChannel ch r).bpt.consecutive = 0 := by
  have kept : ReadsAside (s.setRequest ch none).servedOne (s.serveChannel ch r) := by
    unfold State.serveChannel
    dsimp only
    split
    · exact (ReadsAside.refl _).resume ch
    · exact (ReadsAside.refl _).deliver ch _
  exact ⟨kept.base, kept.consecutive⟩

/-- The last word of the load acts on the stored port intent in CONFIG (R160). -/
theorem State.completeLoad_count : s.completeLoad.bpt.base = s.bpt.base ∧ s.completeLoad.bpt.consecutive = s.bpt.consecutive := by
  have acted : ∀ t : State, ReadsAside t t.enterConfig.actPortIntent.followInterrupt := by
    intro t
    have port : t.enterConfig.pct.port = .config := by simp [State.enterConfig, State.enterPort_pct]
    exact (ReadsAside.actPortIntent (ReadsAside.same (.refl t)) port).same
  have kept := acted { s with
    pct := { s.pct with load := none }, bpt := { s.bpt with loadRequest := none }
    evw := { s.evw with producer := s.evw.consumer, written := [] } }
  exact ⟨kept.base, kept.consecutive⟩

theorem State.serveLoad_count (w : WinWord) : (s.serveLoad w).bpt.base = s.bpt.base ∧ (s.serveLoad w).bpt.consecutive = 0 := by
  have kept : ∀ (t : State) (data : Word), (t.loadServed data).bpt.base = t.bpt.base ∧
      (t.loadServed data).bpt.consecutive = t.bpt.consecutive := by
    intro t data
    unfold State.loadServed
    split
    · exact ⟨rfl, rfl⟩
    · next n _ =>
      have stored : (t.storeSetup (loadWord n).toNat data 0b1111).bpt = t.bpt := by simp
      dsimp only
      rw [← stored]
      split
      · exact ⟨rfl, rfl⟩
      · exact State.completeLoad_count _
  exact kept s.servedOne _

end Sys2Proof.Machine
end

section
set_option Elab.async false
/-! ACCESS_HOLD (R148, R149): when a hold is due, the request it serves, and the access made in the state this leaves. -/

namespace Sys2Proof.Machine

open Sys2Proof.Safety

variable (s : State)

/-! ### When a hold is due -/

theorem State.firstChannelWaiting_eq_none : s.firstChannelWaiting = none ↔ ∀ ch, s.chanRequest ch = none := by
  unfold State.firstChannelWaiting allChannels
  simp

theorem State.chanRequest_waits : s.bpt.chanRequests.toList.any Option.isSome = true ↔ ∃ ch, s.chanRequest ch ≠ none := by
  unfold State.chanRequest
  rw [List.any_eq_true]
  simp only [Vector.mem_toList_iff, Vector.mem_iff_getElem, Option.isSome_iff_ne_none]
  constructor
  · rintro ⟨_, ⟨k, hk, rfl⟩, h⟩
    exact ⟨⟨k, hk⟩, h⟩
  · rintro ⟨ch, h⟩
    exact ⟨_, ⟨ch.val, ch.isLt, rfl⟩, h⟩

/-- A hold is due while a request waits and 16 accesses have passed ahead of it (R149). -/
theorem State.holdDue_iff : s.holdDue = true ↔ 16 ≤ s.bpt.consecutive ∧
    (s.bpt.evwRequest ≠ none ∨ (∃ ch, s.chanRequest ch ≠ none) ∨ s.bpt.loadRequest ≠ none) := by
  unfold State.holdDue Bpt.waiting Config.holdAfter
  rw [Bool.and_eq_true, Bool.or_eq_true, Bool.or_eq_true, s.chanRequest_waits, decide_eq_true_eq, Option.isSome_iff_ne_none,
    Option.isSome_iff_ne_none, and_comm, or_assoc]

/-! ### The request served -/

/-- Where a hold is due the highest request is served, the base stands and the count is 0 (R149). -/
theorem State.serveHighest_count (h : s.holdDue = true) :
    s.serveHighest.bpt.base = s.bpt.base ∧ s.serveHighest.bpt.consecutive = 0 := by
  obtain ⟨-, waits⟩ := s.holdDue_iff.1 h
  cases he : s.bpt.evwRequest with
  | some r =>
    rw [serveHighest_event s he]
    exact s.serveEvent_count r
  | none =>
    cases hc : s.firstChannelWaiting with
    | some p =>
      rw [serveHighest_channel s he hc]
      exact s.serveChannel_count p.1 p.2
    | none =>
      cases hl : s.bpt.loadRequest with
      | some w =>
        rw [serveHighest_load s he hc hl]
        exact s.serveLoad_count w
      | none =>
        obtain h | ⟨ch, h⟩ | h := waits
        · exact absurd he h
        · exact absurd (s.firstChannelWaiting_eq_none.1 hc ch) h
        · exact absurd hl h

/-- `s` with the request that ranks highest served and the stretch counted (R149). -/
def State.held (s : State) : State := s.serveHighest.count .stretched

theorem State.holdAccess_eq (h : s.holdDue = true) : s.holdAccess = s.held := by
  have count := (s.serveHighest_count h).2
  have again : s.serveHighest.servedOne = s.serveHighest := by
    unfold State.servedOne
    rw [← count]
  exact congrArg (State.count · .stretched) again

/-- With the count at 0 no hold is due (R149). -/
theorem State.held_holdDue (h : s.holdDue = true) : s.held.holdDue = false := by
  refine Bool.eq_false_iff.2 fun hd => ?_
  obtain ⟨hc, -⟩ := s.held.holdDue_iff.1 hd
  have count : s.held.bpt.consecutive = 0 := (s.serveHighest_count h).2
  omega

/-- A held access is made in the state that the hold leaves (R149). -/
theorem State.access_held (h : s.holdDue = true) (acc : Access) : s.access acc = s.held.access acc := by
  have arbiter : s.arbiter = s.held.arbiter := by
    rw [s.held.arbiter_passed (s.held_holdDue h)]
    unfold State.arbiter
    rw [if_pos h, s.holdAccess_eq h]
    rfl
  unfold State.access
  rw [arbiter]

/-- The base stands, so the window and the addresses of every row's access do (R139). -/
theorem State.held_window (h : s.holdDue = true) : (∀ a, s.held.windowWord a = s.windowWord a) ∧
    ∀ c, accessOf s.held c = accessOf s c := by
  have base : s.held.bpt.base = s.bpt.base := (s.serveHighest_count h).1
  refine ⟨fun a => ?_, fun c => ?_⟩
  · unfold State.windowWord
    rw [base]
  · unfold accessOf State.busAddr
    rw [base]

/-- The row of an access makes it. -/
theorem exec_accessOf {c : Instr} {acc : Access} (h : accessOf s c = some acc) : exec c s = .next (s.access acc) := by
  cases c with
  | intentAdmit | intentHold | intentVacant | setupWrite | portIntentConfig | portIntentRun | portIntentHalt | consumerIndexWrite
  | imageWrite | recordSnapshotRead | headerSnapshotRead | popRead | consecutiveAccess =>
    cases h
    rfl
  | _ => cases h

/-! ### The rows of the requests -/

theorem exec_eventWordWritten_highest (h : s.bpt.evwRequest ≠ none) : exec .eventWordWritten s = .next s.serveHighest := by
  obtain ⟨r, hr⟩ := Option.ne_none_iff_exists'.1 h
  rw [serveHighest_event s hr]
  exact execEventWordWritten_some s hr

theorem exec_imageRead_highest {ch : ChanIx} (he : s.bpt.evwRequest = none) (hc : s.chanRequest ch ≠ none)
    (hlow : ∀ k < ch, s.chanRequest k = none) : exec (.imageRead ch) s = .next s.serveHighest := by
  obtain ⟨r, hr⟩ := Option.ne_none_iff_exists'.1 hc
  have first := (s.firstChannelWaiting_eq_some ch r).2 ⟨hr, hlow⟩
  rw [serveHighest_channel s he first]
  show execImageRead ch s = _
  unfold execImageRead
  rw [if_pos he, first]
  exact if_pos rfl

theorem exec_loadRead_highest {w : WinWord} (hp : s.pct.port = .loading) (he : s.bpt.evwRequest = none)
    (hc : ∀ ch, s.chanRequest ch = none) (hl : s.bpt.loadRequest = some w) : exec .loadRead s = .next s.serveHighest := by
  have idle := s.firstChannelWaiting_eq_none.2 hc
  rw [serveHighest_load s he idle hl]
  show execLoadRead s = _
  unfold execLoadRead
  rw [if_pos ⟨hp, he, idle⟩, hl]

end Sys2Proof.Machine

namespace Sys2Proof.Proofs

open Sys2Proof.Machine Sys2Proof.Safety

/-- Settles O5: the hold serves the highest request as that request's own row does, and the access is made in the state this leaves. -/
theorem accessHold : Obligations.AccessHold := by
  intro s
  refine ⟨s.holdDue_iff, fun acc h => if_neg (Bool.eq_false_iff.1 h), fun acc hold => ?_⟩
  intro heldBy
  have due := s.held_holdDue hold
  obtain ⟨window, accesses⟩ := s.held_window hold
  have made : exec (.accessHold acc) s = .next (s.held.access acc) :=
    (if_pos hold).trans (congrArg Host.Outcome.next (s.access_held hold acc))
  have serves : ∀ served, exec served s = .next s.serveHighest → heldBy served := by
    intro served h
    refine ⟨s.serveHighest, s.held.access acc, h, due, made, rfl, ?_, ?_, fun c hc => ?_⟩
    · rintro a data be rfl hw
      exact s.held.writeOutside data be due ((window a).trans hw)
    · rintro a rfl hw
      exact s.held.readPlain due (.inl ((window a).trans hw))
    · have hv := (accesses c).trans hc
      exact ⟨(exec_accessOf s hc).trans (if_pos hold).symm, hv, exec_accessOf s.held hv⟩
  refine ⟨fun he => serves _ (exec_eventWordWritten_highest s he), fun ch he hc hlow => serves _ (exec_imageRead_highest s he hc hlow),
    fun hp he hc => ?_⟩
  obtain ⟨-, h | ⟨ch, h⟩ | h⟩ := s.holdDue_iff.1 hold
  · exact absurd he h
  · exact absurd (hc ch) h
  · obtain ⟨w, hl⟩ := Option.ne_none_iff_exists'.1 h
    exact serves _ (exec_loadRead_highest s hp he hc hl)

end Sys2Proof.Proofs
end

section
set_option Elab.async false
/-! The event ring beside the rest of the part: the operations that raise events at most (R151, R153, R155). -/

namespace Sys2Proof.Machine

open Sys2Proof.Safety

/-! ### The EVW's request beside the channels' (R148) -/

theorem ReadsAside.evwRequest {s t : State} (h : ReadsAside s t) : t.bpt.evwRequest = s.bpt.evwRequest := by
  unfold ReadsAside at h
  rw [h]

section

variable (s : State)

@[simp] theorem State.dropRead_evwRequest (ch : ChanIx) : (s.dropRead ch).bpt.evwRequest = s.bpt.evwRequest :=
  ((ReadsAside.refl s).dropRead ch).evwRequest

@[simp] theorem State.runFill_evwRequest (ch : ChanIx) (bs : List Byte) : (s.runFill ch bs).bpt.evwRequest = s.bpt.evwRequest :=
  ((ReadsAside.refl s).runFill ch bs).evwRequest

@[simp] theorem State.startScan_evwRequest (ch : ChanIx) : (s.startScan ch).bpt.evwRequest = s.bpt.evwRequest :=
  ((ReadsAside.refl s).startScan ch).evwRequest

@[simp] theorem State.deliver_evwRequest (ch : ChanIx) (d : Word) : (s.deliver ch d).bpt.evwRequest = s.bpt.evwRequest :=
  ((ReadsAside.refl s).deliver ch d).evwRequest

@[simp] theorem State.resume_evwRequest (ch : ChanIx) : (s.resume ch).bpt.evwRequest = s.bpt.evwRequest :=
  ((ReadsAside.refl s).resume ch).evwRequest

@[simp] theorem State.freeChannel_evwRequest (ch : ChanIx) : (s.freeChannel ch).bpt.evwRequest = s.bpt.evwRequest := by
  simp [State.freeChannel]

@[simp] theorem State.grantChannel_evwRequest (ch : ChanIx) (i : RecIx) : (s.grantChannel ch i).bpt.evwRequest = s.bpt.evwRequest := by
  simp [State.grantChannel]

@[simp] theorem State.handleBlockReply_evwRequest (c : Capture) : (s.handleBlockReply c).bpt.evwRequest = s.bpt.evwRequest := by
  have acked : ∀ (t : State) (ch : ChanIx), (t.ackBlock ch).bpt.evwRequest = t.bpt.evwRequest := fun t ch => by
    unfold State.ackBlock
    dsimp only
    split <;> simp
  unfold State.handleBlockReply
  (repeat' split) <;> simp [acked]

@[simp] theorem State.endAllWork_evwRequest : s.endAllWork.bpt.evwRequest = s.bpt.evwRequest := by
  obtain ⟨-, -, -, -, -, -, hb, -⟩ := s.endAllWork_spec
  rw [hb]

end

/-! ### What raising events leaves -/

/-- From `s` to `t` the ring, the write in progress and the port stand: the pending queue has gained events at its end at most, and none in
OFF and LOADING (R151, R153). -/
structure RingStands (s t : State) : Prop where
  pct : t.pct = s.pct
  request : t.bpt.evwRequest = s.bpt.evwRequest
  ring : t.evw = { s.evw with queue := t.evw.queue, nextSeq := t.evw.nextSeq, lost := t.evw.lost, line := t.evw.line }
  gains : s.evw.queue <+: t.evw.queue
  silent : s.pct.port.overlay = false → t.evw.queue = s.evw.queue

theorem RingStands.refl (s : State) : RingStands s s := ⟨rfl, rfl, rfl, List.prefix_refl _, fun _ => rfl⟩

theorem RingStands.trans {s t u : State} (h : RingStands s t) (k : RingStands t u) : RingStands s u where
  pct := k.pct.trans h.pct
  request := k.request.trans h.request
  ring := by rw [k.ring, h.ring]
  gains := h.gains.trans k.gains
  silent ho := (k.silent (h.pct ▸ ho)).trans (h.silent ho)

/-- What stands through each step of a fold stands through the fold. -/
theorem RingStands.foldl {α : Type} {s : State} (f : State → α → State) (hf : ∀ t a, RingStands s t → RingStands s (f t a)) (l : List α) :
    ∀ t, RingStands s t → RingStands s (l.foldl f t) := by
  induction l with
  | nil => exact fun _ h => h
  | cons a l ih => exact fun t h => ih _ (hf t a h)

section

variable {s t : State} (h : RingStands s t)
include h

/-- Nothing of the Event Writer, the port or the EVW's request has changed. -/
theorem RingStands.same {u : State} (hp : u.pct = t.pct := by simp) (he : u.evw = t.evw := by simp)
    (hr : u.bpt.evwRequest = t.bpt.evwRequest := by simp) : RingStands s u :=
  h.trans ⟨hp, hr, by rw [he], by rw [he], fun _ => by rw [he]⟩

/-! ### Events -/

/-- An event taken is appended; a lost one is counted (R153, R154). -/
theorem RingStands.raise (e : Raise) : RingStands s (t.raise e) := by
  refine h.trans ?_
  unfold State.raise
  split
  · exact .refl t
  · next ho =>
    split
    · exact ⟨rfl, rfl, rfl, List.prefix_append _ _, fun hs => absurd hs ho⟩
    · exact ⟨rfl, rfl, rfl, List.prefix_refl _, fun _ => rfl⟩

theorem RingStands.count (k : CounterId) : RingStands s (t.count k) := h.same

theorem RingStands.onRecord (i : RecIx) (f : Record → Record) : RingStands s (t.onRecord i f) := h.same

theorem RingStands.setSettle (i : RecIx) (x : Option Settle) : RingStands s (t.setSettle i x) := h.same

theorem RingStands.leaveRanging (i : RecIx) : RingStands s (t.leaveRanging i) := h.same

theorem RingStands.appendControl (i : RecIx) (k : ControlKind) : RingStands s (t.appendControl i k) := h.same

theorem RingStands.appendReply (i : RecIx) (k : ReplyKind) : RingStands s (t.appendReply i k) := h.same

theorem RingStands.appendUrgent (i : RecIx) : RingStands s (t.appendUrgent i) := h.same

theorem RingStands.unlist (x : Serial) : RingStands s (t.unlist x) := h.same

theorem RingStands.raiseRecord (i : RecIx) (why : ChangeReason) : RingStands s (t.raiseRecord i why) := h.raise _

theorem RingStands.enter (i : RecIx) (st : ActState) (why : ChangeReason) : RingStands s (t.enter i st why) :=
  RingStands.raiseRecord (t := t.moveQuietly i st) h.same i why

theorem RingStands.discard (x : Byte) (why : DiscardReason) (o : Nat) : RingStands s (t.discard x why o) := by
  unfold State.discard
  split
  · exact h
  · exact (h.count _).raise _

theorem RingStands.raiseLine (d : LineDetail) : RingStands s (t.raiseLine d) := h.raise _

theorem RingStands.raiseQuiet (p : Purpose) (d : QuietDetail) (v : Cycle) : RingStands s (t.raiseQuiet p d v) := h.raise _

theorem RingStands.followInterrupt : RingStands s t.followInterrupt :=
  h.trans ⟨rfl, rfl, rfl, List.prefix_refl _, fun _ => rfl⟩

/-! ### Channels -/

theorem RingStands.grantWaiting (ch : ChanIx) : RingStands s (t.grantWaiting ch) := by
  unfold State.grantWaiting
  split
  · exact h
  · next i rest _ =>
    have queued : RingStands s { t with pex := { t.pex with waiting := rest } } := h.same rfl rfl rfl
    exact (queued.enter i .profiling .channel).same

theorem RingStands.restartChannel (ch : ChanIx) : RingStands s (t.restartChannel ch) := by
  have raised := h.raise
    { kind := .image, index := indexByte (t.chan ch).index, detail0 := BitVec.ofNat 8 (t.chan ch).dir.val, detail1 := 0
      value := (t.record (t.chan ch).index).tag }
  unfold State.restartChannel
  dsimp only
  split <;> exact raised.same

theorem RingStands.imageTouched (w : WinWord) (be : Enables) : RingStands s (t.imageTouched w be) :=
  RingStands.foldl _ (fun u ch hu => by split; exacts [hu.restartChannel ch, hu]) _ t h

/-! ### Releases and settling -/

theorem RingStands.dropPush (i : RecIx) : RingStands s (t.dropPush i) := by
  have left : RingStands s { t with pex := { t.pex with waiting := t.pex.waiting.filter (fun k => decide (k ≠ i)) } } :=
    h.same rfl rfl rfl
  unfold State.dropPush
  dsimp only
  split
  · exact left
  · exact RingStands.grantWaiting left.same _

theorem RingStands.abandonWork (i : RecIx) : RingStands s (t.abandonWork i) :=
  RingStands.dropPush (t := ((t.dropMessages i).dropRanging i).voidBookingOf i) h.same i

theorem RingStands.release (i : RecIx) (d : RelDest) (why : ChangeReason) (f : Option FailReason) : RingStands s (t.release i d why f) :=
  (((h.onRecord i _).enter i .releasing why).abandonWork i).appendUrgent i

theorem RingStands.fail (i : RecIx) (f : FailReason) : RingStands s (t.fail i f) := h.release i _ _ _

theorem RingStands.enterEmpty (i : RecIx) (why : ChangeReason) : RingStands s (t.enterEmpty i why) := (h.onRecord i _).raiseRecord i why

theorem RingStands.enterSettling (i : RecIx) (why : ChangeReason) : RingStands s (t.enterSettling i why) :=
  (((h.onRecord i _).enter i .settling why).setSettle i _).appendReply i _

theorem RingStands.returnRecord (i : RecIx) : RingStands s (t.returnRecord i) := by
  unfold State.returnRecord
  split
  · exact (h.onRecord i _).enter i _ _
  · exact h

theorem RingStands.portReturn : RingStands s t.portReturn :=
  RingStands.foldl _ (fun _ i hu => hu.returnRecord i) _ t.endAllWork h.same

/-! ### Intents -/

theorem RingStands.queuePark (x : Serial) (r : Byte) : RingStands s (t.queuePark x r) := h.same

theorem RingStands.admission (i : RecIx) : RingStands s (t.admission i) := by
  unfold State.admission
  split
  · exact h.raise _
  · have listed := ((h.onRecord i Record.clearActivation).enter i .awaiting .intent).unlist (t.record i).serial
    dsimp only
    split
    · exact listed
    · exact listed.queuePark _ _

theorem RingStands.redirect (i : RecIx) (d : RelDest) : RingStands s (t.redirect i d) := h.onRecord i _

theorem RingStands.actAdmit (i : RecIx) : RingStands s (t.actAdmit i) := by
  unfold State.actAdmit
  split
  case h_1 | h_2 | h_3 => exact h.admission i
  case h_4 => exact h.redirect i _
  all_goals exact h

theorem RingStands.actHold (i : RecIx) : RingStands s (t.actHold i) := by
  unfold State.actHold
  split
  case h_1 | h_2 | h_3 => exact h.enter i _ _
  case h_4 => exact h
  case h_5 => exact h.redirect i _
  all_goals exact h.release i _ _ _

theorem RingStands.actVacant (i : RecIx) : RingStands s (t.actVacant i) := by
  unfold State.actVacant
  split
  case h_1 => exact h
  case h_2 | h_3 | h_4 => exact h.enterEmpty i _
  case h_5 => exact h.redirect i _
  all_goals exact h.release i _ _ _

theorem RingStands.actIntent (i : RecIx) : RingStands s (t.actIntent i) := by
  unfold State.actIntent
  split
  · exact h.actVacant i
  · split
    · exact h.actAdmit i
    · split
      · exact h.actHold i
      · exact (h.discard _ _ _).actHold i

theorem RingStands.actAllIntents : RingStands s t.actAllIntents := RingStands.foldl _ (fun _ i hu => hu.actIntent i) _ t h

/-! ### HELLOs -/

theorem RingStands.parkSerial (x : Serial) : RingStands s (t.parkSerial x) := by
  unfold State.parkSerial
  split
  · exact h
  · exact h.queuePark _ _

theorem RingStands.listStranger (x : Serial) (conv : Conv) (resp : Nat) : RingStands s (t.listStranger x conv resp) := by
  have listed : ∀ l, RingStands s (t.setStrangers l) := fun _ => h.same
  unfold State.listStranger
  split
  · split
    · exact listed _
    · split
      · exact (listed _).raise _
      · exact h.count _
  · exact h.count _

theorem RingStands.reappear (i : RecIx) (conv : Conv) (resp : Nat) : RingStands s (t.reappear i conv resp) :=
  ((((h.abandonWork i).raise _).onRecord i _).enter i _ _).appendControl i _

theorem RingStands.helloLive (i : RecIx) (conv : Conv) (resp : Nat) : RingStands s (t.helloLive i conv resp) := by
  have seen : RingStands s (t.onRecord i (fun r => r.sighted t.ltu.cycle)) := h.onRecord i _
  unfold State.helloLive
  dsimp only
  split
  case h_1 => exact ((seen.onRecord i _).enter i _ _).appendControl i _
  case h_2 => split; exacts [seen.reappear i conv resp, seen]
  case h_3 | h_10 | h_11 | h_12 => exact seen
  all_goals exact seen.reappear i conv resp

theorem RingStands.matchHello (x : Serial) (conv : Conv) (resp : Nat) : RingStands s (t.matchHello x conv resp) := by
  unfold State.matchHello
  split
  · exact h.helloLive _ conv resp
  · split
    · exact (h.onRecord _ _).parkSerial x
    · exact (h.listStranger x conv resp).parkSerial x

theorem RingStands.helloInWindow (w : DiscWindow) (c : Capture) : RingStands s (t.helloInWindow w c) := by
  unfold State.helloInWindow
  dsimp only
  split
  · exact h.count _
  · split
    · unfold State.duplicateHello
      split
      · exact h.same
      · exact RingStands.raise h.same _
    · refine RingStands.matchHello ?_ _ _ _
      split <;> exact h.same

theorem RingStands.handleHello (c : Capture) : RingStands s (t.handleHello c) := by
  unfold State.handleHello
  split
  · split
    · exact h.helloInWindow _ c
    · exact h
  · exact h
  · exact h

/-! ### Outcomes -/

theorem RingStands.countAttempt (i : RecIx) (why : ChangeReason) : RingStands s (t.countAttempt i why) := by
  unfold State.countAttempt
  dsimp only
  split
  · exact RingStands.enter h.same i _ _
  · exact (h.onRecord i _).fail i _

theorem RingStands.applyRanging (i : RecIx) (o : RangingOutcome) : RingStands s (t.applyRanging i o) := by
  unfold State.applyRanging
  split
  · exact (((h.leaveRanging i).onRecord i _).enter i _ _).appendControl i _
  · exact h.countAttempt i _
  · exact h.fail i _

theorem RingStands.applySettle (i : RecIx) (x : Settle) (o : SettleOutcome) : RingStands s (t.applySettle i x o) := by
  unfold State.applySettle
  split
  · exact h.fail i _
  · exact ((h.onRecord i _).setSettle i _).appendControl i _
  · exact (((h.onRecord i _).setSettle i _).enter i _ _).appendControl i _
  · exact (h.onRecord i _).countAttempt i _

theorem RingStands.applyPush (i : RecIx) (ch : ChanIx) (o : PushOutcome) : RingStands s (t.applyPush i ch o) := by
  unfold State.applyPush
  split
  · exact (RingStands.enterSettling (h.same (u := (t.onRecord i _).freeChannel ch)) i _).grantWaiting ch
  · exact h.fail i _
  · exact h.fail i _

/-! ### Line time -/

theorem RingStands.slip : RingStands s t.slip :=
  (h.raiseLine .slip).same (u := (t.raiseLine .slip).dropTimeline.requeueAsks.requeueBlocks)

/-- A cycle start (R94): what the slip or the normal advance leaves, with the interrupt line following (R158). -/
theorem RingStands.cycleStart (c : Cycle) : RingStands s (t.cycleStart c) := by
  have started : RingStands s (t.startCycle c).presentDemand := h.same
  unfold State.cycleStart
  refine RingStands.followInterrupt ?_
  split
  · exact started
  · split
    · exact started.same
    · exact started.slip

theorem RingStands.lineFalls : RingStands s t.lineFalls := by
  unfold State.lineFalls
  split
  · have down : RingStands s { t with ltu := { t.ltu with lineUp := false } } := h.same rfl rfl rfl
    exact (down.raiseLine .down).same.portReturn
  · exact h

theorem RingStands.lineRises : RingStands s t.lineRises := by
  unfold State.lineRises
  split
  · exact h
  · have up : RingStands s { t with ltu := { t.ltu with lineUp := true, known := false, latestFetch := none } } := h.same rfl rfl rfl
    exact up.raiseLine .up

/-- An ask answered or timed out ends with its QUIET event, its count, and the demander told (R100 to R102). -/
theorem RingStands.quietEnded (p : Purpose) (d : QuietDetail) (v : Cycle) (k : CounterId) :
    RingStands s ((((t.raiseQuiet p d v).count k).setQuiet .idle).askEnded p) := RingStands.same (h.raiseQuiet p d v)

theorem RingStands.takeGive (cq : Cycle) : RingStands s (t.takeGive cq) := by
  unfold State.takeGive
  split
  · split
    · exact h.same
    · exact RingStands.quietEnded (t := t.send .withdraw) h.same _ _ _ _
  all_goals exact h.count _

theorem RingStands.takeDeny : RingStands s t.takeDeny := by
  unfold State.takeDeny
  split
  · exact h.quietEnded _ _ _ _
  all_goals exact h.count _

theorem RingStands.takeRevoke : RingStands s t.takeRevoke := by
  unfold State.takeRevoke
  split
  · exact h.quietEnded _ _ _ _
  · exact (h.raiseQuiet _ _ _).count _
  all_goals exact h.count _

theorem RingStands.timeOutAsk : RingStands s t.timeOutAsk := by
  unfold State.timeOutAsk
  split
  · split
    · exact RingStands.quietEnded (t := t.send .withdraw) h.same _ _ _ _
    · exact h
  all_goals exact h

/-! ### Messages taken -/

theorem RingStands.releaseTaken (i : RecIx) : RingStands s (t.releaseTaken i) := by
  have left : RingStands s { t with dsq := { t.dsq with urgent := t.dsq.urgent.drop 1 } } := h.same rfl rfl rfl
  unfold State.releaseTaken
  dsimp only
  split
  · exact left.enterEmpty i _
  all_goals exact (left.onRecord i _).enter i _ _

theorem RingStands.equalizeTaken (i : RecIx) : RingStands s (t.equalizeTaken i) := by
  unfold State.equalizeTaken
  split
  · split
    · exact (h.enter i .profiling .equalizeTaken).same
    · have waits : RingStands s { t with pex := { t.pex with waiting := t.pex.waiting ++ [i] } } := h.same rfl rfl rfl
      exact waits.raiseRecord i _
  · exact h.enterSettling i _

theorem RingStands.controlTaken (e : ControlEntry) : RingStands s (t.controlTaken e) := by
  have left : RingStands s { t with dsq := { t.dsq with control := t.dsq.control.drop 1 } } := h.same rfl rfl rfl
  unfold State.controlTaken
  dsimp only
  split
  · exact RingStands.raiseRecord left.same _ _
  · exact left.equalizeTaken _
  · exact left.same
  · exact left.enter _ _ _

theorem RingStands.takeChoice (c : Cycle) (x : Choice) : RingStands s (t.takeChoice c x) := by
  unfold State.takeChoice
  split
  case h_3 => exact h.releaseTaken _
  case h_4 => exact h.controlTaken _
  all_goals exact h.same

theorem RingStands.takeFetch (c : Cycle) : RingStands s (t.takeFetch c) := by
  have recorded : RingStands s (t.recordFetch c) := h.same
  unfold State.takeFetch
  dsimp only
  split
  · exact (recorded.takeChoice c ((t.recordFetch c).choose c)).same
  · exact recorded.same

/-! ### Writes of records and of the directory -/

theorem RingStands.writeRecord (i : RecIx) (k : Nat) (data : Word) (be : Enables) : RingStands s (t.writeRecord i k data be) := by
  unfold State.writeRecord
  dsimp only
  generalize (if (t.record i).state.writable = true then be else be &&& (if k = 0 then 0b0001 else 0)) = lanes
  have offered : RingStands s (if lanes = be then t.onRecord i (fun r => r.store k data lanes)
      else (t.onRecord i (fun r => r.store k data lanes)).discard (indexByte i) .state (recordOffset i + 4 * k)) := by
    split
    · exact h.onRecord _ _
    · exact (h.onRecord _ _).discard _ _ _
  split
  · exact offered.actIntent i
  · exact offered

theorem RingStands.writeDirectory (p : DirIx) (data : Word) (be : Enables) : RingStands s (t.writeDirectory p data be) := by
  unfold State.writeDirectory
  split
  · exact h.discard _ _ _
  · exact h.same

end

end Sys2Proof.Machine
end

section
set_option Elab.async false
/-! The event ring kept by every step (R151, R155, R156). -/

namespace Sys2Proof.Machine

/-! ### The unconsumed count (R151) -/

theorem Evw.unconsumed_lt_of_not_full {e : Evw} (h : e.full = false) : e.unconsumed < 255 := by
  have room : e.producer + 1 ≠ e.consumer := of_decide_eq_false h
  unfold Evw.unconsumed
  bv_omega

theorem unconsumed_succ {p c : Byte} (h : (p - c).toNat < 255) : (p + 1 - c).toNat = (p - c).toNat + 1 := by
  bv_omega

theorem unconsumed_consumed {p c v : Byte} (h : (v - c).toNat ≤ (p - c).toNat) : (p - v).toNat = (p - c).toNat - (v - c).toNat := by
  bv_omega

theorem State.storeHeader_evw (s : State) {k : Nat} (h33 : k ≠ 33) (data : Word) (be : Enables) :
    (s.storeHeader k data be).evw = s.evw := by
  unfold State.storeHeader
  rw [if_neg h33]
  dsimp only
  split <;> rfl

/-- A setup word stored leaves the pending queue and the write in progress. -/
theorem State.storeSetup_evw (s : State) (w : Nat) (data : Word) (be : Enables) :
    (s.storeSetup w data be).evw.queue = s.evw.queue ∧ (s.storeSetup w data be).evw.stage = s.evw.stage := by
  unfold State.storeSetup State.storeHeader
  dsimp only
  (repeat' split) <;> simp

end Sys2Proof.Machine

namespace Sys2Proof.Safety

open Sys2Proof.Machine

/-- In OFF and LOADING the event ring asks for no event and no write of one. -/
theorem ringSound_unread {t : State} (ho : t.pct.port.overlay = false) (hq : t.evw.queue = []) (hs : t.evw.stage = 0)
    (hr : t.bpt.evwRequest = none) : RingSound t where
  written h := absurd (ho.symm.trans h) Bool.false_ne_true
  loaded h := absurd (ho.symm.trans h) Bool.false_ne_true
  silent _ := ⟨hq, hs⟩
  room h := absurd hs h
  request := by simp [hr, hs]

/-- What each step of a ring that stands keeps. -/
theorem RingSound.stands {s t : State} (h : RingSound s) (k : RingStands s t) : RingSound t := by
  obtain ⟨hp, hr, he, hq, hs⟩ := k
  have ring : t.evw.producer = s.evw.producer ∧ t.evw.consumer = s.evw.consumer ∧ t.evw.written = s.evw.written ∧
      t.evw.stage = s.evw.stage := by
    rw [he]
    exact ⟨rfl, rfl, rfl, rfl⟩
  obtain ⟨producer, consumer, written, stage⟩ := ring
  have count : t.evw.unconsumed = s.evw.unconsumed := by
    unfold Evw.unconsumed
    rw [producer, consumer]
  refine ⟨?_, ?_, ?_, ?_, ?_⟩
  · rw [hp, written, count]
    exact h.written
  · rw [hp]
    exact h.loaded
  · rw [hp, stage]
    exact fun ho => ⟨(hs ho).trans (h.silent ho).1, (h.silent ho).2⟩
  · rw [stage, count]
    exact fun hw => ⟨fun hn => (h.room hw).1 (List.prefix_nil.1 (hn ▸ hq)), (h.room hw).2⟩
  · rw [hr, stage]
    exact h.request

section

variable {s : State} (h : RingSound s)
include h

/-- Nothing of the Event Writer, the port or the EVW's request has changed. -/
theorem RingSound.same {t : State} (hp : t.pct = s.pct := by simp) (he : t.evw = s.evw := by simp)
    (hr : t.bpt.evwRequest = s.bpt.evwRequest := by simp) : RingSound t := h.stands ((RingStands.refl s).same hp he hr)

/-- While no record is being written the EVW has no request (R155). -/
theorem RingSound.idle (hs : s.evw.stage = 0) : s.bpt.evwRequest = none :=
  Option.not_isSome_iff_eq_none.1 fun hi => h.request.1 hi hs

/-- While a record is being written the window is read (R151). -/
theorem RingSound.overlay_of_request {r : WriteRequest} (hr : s.bpt.evwRequest = some r) :
    s.evw.stage ≠ 0 ∧ s.pct.port.overlay = true := by
  have writing : s.evw.stage ≠ 0 := h.request.1 (by rw [hr]; rfl)
  exact ⟨writing, Bool.of_not_eq_false fun ho => writing (h.silent ho).2⟩

theorem RingSound.followInterrupt : RingSound s.followInterrupt := h.stands (RingStands.refl s).followInterrupt

theorem RingSound.discard (x : Byte) (why : DiscardReason) (o : Nat) : RingSound (s.discard x why o) :=
  h.stands ((RingStands.refl s).discard x why o)

/-! ### The port -/

/-- Between the states that read the window the ring goes on (R159). -/
theorem RingSound.enterPort (ho : s.pct.port.overlay = true) {p : PortState} (hp : p.overlay = true) : RingSound (s.enterPort p) := by
  have entered : RingSound { s with pct := { s.pct with port := p } } :=
    ⟨fun _ => h.written ho, fun _ => h.loaded ho, fun hn => absurd (hp.symm.trans hn) Bool.false_ne_true.symm, h.room, h.request⟩
  exact entered.stands ((RingStands.refl _).raise _)

theorem RingSound.portReturn : RingSound s.portReturn := h.stands (RingStands.refl s).portReturn

theorem RingSound.setRefusal (r : RefusalCode) : RingSound (s.setRefusal r) :=
  ⟨h.written, h.loaded, h.silent, h.room, h.request⟩

theorem RingSound.refuseRun (r : RefusalCode) : RingSound (s.refuseRun r) :=
  (h.setRefusal r).stands ((RingStands.refl _).raise _)

theorem RingSound.actAllIntents : RingSound s.actAllIntents := h.stands (RingStands.refl s).actAllIntents

theorem RingSound.enterConfig (ho : s.pct.port.overlay = true) : RingSound s.enterConfig :=
  RingSound.enterPort (s := s.setMap []) h.same ho rfl

theorem RingSound.halt (ho : s.pct.port.overlay = true) : RingSound s.halt := (h.enterPort ho rfl).portReturn

theorem RingSound.startDraining (ho : s.pct.port.overlay = true) : RingSound s.startDraining := by
  have drained := (h.enterPort ho (p := .draining) rfl).portReturn
  unfold State.startDraining
  dsimp only
  split
  · exact drained.enterConfig (by simp [State.enterPort_pct]; rfl)
  · exact drained

theorem RingSound.validateRun (ho : s.pct.port.overlay = true) : RingSound s.validateRun := by
  unfold State.validateRun
  split
  · exact h.refuseRun _
  · split
    · exact h.refuseRun _
    · have entered : RingSound ((s.setRefusal .clear).enterPort .running) := (h.setRefusal .clear).enterPort ho rfl
      exact RingSound.actAllIntents (entered.same rfl rfl rfl)

theorem RingSound.runFromDraining (ho : s.pct.port.overlay = true) : RingSound s.runFromDraining :=
  RingSound.actAllIntents ((h.enterPort ho (p := .running) rfl).same rfl rfl rfl)

/-- The port intent is acted on in the states that read the window alone (R161). -/
theorem RingSound.actPortIntent : RingSound s.actPortIntent := by
  have reads : ∀ {p : PortState}, s.pct.port = p → p.overlay = true → s.pct.port.overlay = true := fun hp ho => hp ▸ ho
  unfold State.actPortIntent
  split
  · unfold State.actConfig
    split
    · next hp => exact h.startDraining (reads hp rfl)
    · next hp => exact h.enterConfig (reads hp rfl)
    all_goals exact h
  · split
    · unfold State.actRun
      split
      · next hp => exact h.validateRun (reads hp rfl)
      · next hp => exact h.runFromDraining (reads hp rfl)
      all_goals exact h
    · unfold State.actHalt
      split
      case h_1 hp | h_2 hp | h_3 hp => exact h.halt (reads hp rfl)
      all_goals exact h

/-! ### The load (R160) -/

/-- The last word of the load: P takes the value of C, no cycle is written, and the window is read from here on. -/
theorem RingSound.completeLoad (ho : s.pct.port.overlay = false) : RingSound s.completeLoad := by
  have idle : s.bpt.evwRequest = none := h.idle (h.silent ho).2
  have entered : RingSound { s with
      ltu := { s.ltu with map := [] }
      pct := { s.pct with load := none, port := .config }, bpt := { s.bpt with loadRequest := none }
      evw := { s.evw with producer := s.evw.consumer, written := [] } } :=
    ⟨fun _ => by simp [Evw.unconsumed], fun _ => rfl, fun hn => absurd hn Bool.false_ne_true.symm,
      fun hw => absurd (h.silent ho).2 hw, h.request⟩
  exact (RingSound.actPortIntent (entered.stands ((RingStands.refl _).raise _))).followInterrupt

theorem RingSound.storeSetup (ho : s.pct.port.overlay = false) (w : Nat) (data : Word) (be : Enables) :
    RingSound (s.storeSetup w data be) := by
  obtain ⟨queue, stage⟩ := s.storeSetup_evw w data be
  exact ringSound_unread (by simpa using ho) (queue.trans (h.silent ho).1) (stage.trans (h.silent ho).2)
    (by simpa using h.idle (h.silent ho).2)

theorem RingSound.placeLoad (ho : s.pct.port.overlay = false) (n : Nat) : RingSound (s.placeLoad n) :=
  ringSound_unread ho (h.silent ho).1 (h.silent ho).2 (h.idle (h.silent ho).2)

/-- A load is under way before the window is read alone. -/
theorem RingSound.loadServed (data : Word) : RingSound (s.loadServed data) := by
  unfold State.loadServed
  split
  · exact h.same rfl rfl rfl
  · next n hn =>
    have ho : s.pct.port.overlay = false := Bool.eq_false_iff.2 fun ho => by simp [h.loaded ho] at hn
    have stored := h.storeSetup ho (loadWord n).toNat data 0b1111
    have unread : (s.storeSetup (loadWord n).toNat data 0b1111).pct.port.overlay = false := by simpa using ho
    dsimp only
    split
    · exact stored.placeLoad unread _
    · exact stored.completeLoad unread

/-! ### The record being written (R155) -/

/-- The write of an event's word is placed: one is begun where the ring has room, or the next one follows. -/
theorem RingSound.placeEventWord (ho : s.pct.port.overlay = true) (hq : s.evw.queue ≠ []) (hu : s.evw.unconsumed < 255) (e : Event) (k : Nat) :
    RingSound (s.placeEventWord e k) :=
  ⟨h.written, h.loaded, fun hn => absurd (ho.symm.trans hn) Bool.false_ne_true.symm, fun _ => ⟨hq, hu⟩,
    iff_of_true rfl (Nat.succ_ne_zero k)⟩

theorem RingSound.startEvent : RingSound s.startEvent := by
  unfold State.startEvent
  split
  · exact h
  · next e q hq =>
    have waits : s.evw.queue ≠ [] := by simp [hq]
    have ho : s.pct.port.overlay = true := Bool.of_not_eq_false fun ho => waits (h.silent ho).1
    split
    · next hc => exact h.placeEventWord ho waits (Evw.unconsumed_lt_of_not_full hc.1) e 0
    · exact h

/-- The record finished is one more unconsumed, and its cycle is written. -/
theorem RingSound.finishEvent (ho : s.pct.port.overlay = true) (hu : s.evw.unconsumed < 255) (e : Event) : RingSound (s.finishEvent e) := by
  refine RingSound.followInterrupt ⟨fun _ => ?_, fun _ => h.loaded ho, fun hn => absurd (ho.symm.trans hn) Bool.false_ne_true.symm,
    fun hw => absurd rfl hw, by simp⟩
  have one : (s.evw.producer + 1 - s.evw.consumer).toNat = s.evw.unconsumed + 1 := unconsumed_succ hu
  show (s.evw.written ++ [e.cycle]).length = (s.evw.producer + 1 - s.evw.consumer).toNat
  rw [one, List.length_append, h.written ho]
  rfl

theorem RingSound.serveEvent {r : WriteRequest} (hr : s.bpt.evwRequest = some r) : RingSound (s.serveEvent r) := by
  obtain ⟨writing, ho⟩ := h.overlay_of_request hr
  obtain ⟨hq, hu⟩ := h.room writing
  have stored : RingSound ((s.sramWrite (s.busAddr r.word) r.data 0b1111).servedOne) := h.same rfl rfl rfl
  unfold State.serveEvent State.eventServed
  split
  · next hn => exact absurd hn hq
  · split
    · exact stored.placeEventWord ho hq hu _ _
    · exact stored.finishEvent ho hu _

/-! ### The arbiter -/

theorem RingSound.serveChannel (ch : ChanIx) (r : ReadRequest) : RingSound (s.serveChannel ch r) := by
  have served : RingSound (s.setRequest ch none).servedOne := h.same rfl rfl rfl
  unfold State.serveChannel
  dsimp only
  split <;> exact served.same

theorem RingSound.serveLoad (w : WinWord) : RingSound (s.serveLoad w) :=
  RingSound.loadServed (s := s.servedOne) (h.same rfl rfl rfl) _

theorem RingSound.serveHighest : RingSound s.serveHighest := by
  unfold State.serveHighest
  split
  · next hr => exact h.serveEvent hr
  · split
    · exact h.serveChannel _ _
    · split
      · exact h.serveLoad _
      · exact h

theorem RingSound.arbiter : RingSound s.arbiter := by
  unfold State.arbiter
  split
  · exact h.serveHighest.same rfl rfl rfl
  · exact h.same rfl rfl rfl

/-! ### Writes and reads -/

/-- An accepted consumer index leaves as many written cycles as records unconsumed (R156). -/
theorem RingSound.writeConsumer (v : Byte) : RingSound (s.writeConsumer v) := by
  unfold State.writeConsumer
  dsimp only
  split
  · next hn =>
    have left : (s.evw.producer - v).toNat = s.evw.unconsumed - (v - s.evw.consumer).toNat := unconsumed_consumed hn
    refine RingSound.followInterrupt ⟨fun ho => ?_, h.loaded, h.silent, fun hw => ⟨(h.room hw).1, ?_⟩, h.request⟩
    · show (s.evw.written.drop (v - s.evw.consumer).toNat).length = (s.evw.producer - v).toNat
      rw [left, List.length_drop, h.written ho]
    · show (s.evw.producer - v).toNat < 255
      rw [left]
      exact (Nat.sub_le _ _).trans_lt (h.room hw).2
  · exact h.discard _ _ _

theorem RingSound.storeHeader {k : Nat} (h33 : k ≠ 33) (data : Word) (be : Enables) : RingSound (s.storeHeader k data be) :=
  h.same (he := s.storeHeader_evw h33 data be)

theorem RingSound.writeHeader (k : Nat) (data : Word) (be : Enables) : RingSound (s.writeHeader k data be) := by
  unfold State.writeHeader
  split
  · exact (h.storeHeader (by omega) _ _).actPortIntent
  · split
    · split
      · exact h.discard _ _ _
      · split
        · exact h.discard _ _ _
        · exact h.storeHeader (by omega) _ _
    · split
      · split
        · exact h.discard _ _ _
        · exact h.storeHeader (by omega) _ _
      · split
        · exact h.writeConsumer _
        · next h33 => exact (h.storeHeader h33 _ _).followInterrupt

theorem RingSound.offerWrite (w : WinWord) (data : Word) (be : Enables) : RingSound (s.offerWrite w data be) := by
  have stands := RingStands.refl s
  unfold State.offerWrite
  dsimp only
  split
  · exact h
  · split
    · split
      · exact h
      · exact h.writeHeader _ _ _
    · split
      · exact h
      · split
        · split
          · exact h.stands (stands.writeDirectory _ _ _)
          · exact h
        · split
          · exact h
          · split
            · split
              · exact h.stands (stands.writeRecord _ _ _ _)
              · exact h
            · split
              · exact h
              · exact h.stands (stands.imageTouched w be)

theorem RingSound.busWrite (a : BusAddr) (data : Word) (be : Enables) : RingSound (s.busWrite a data be) := by
  have written : RingSound (s.sramWrite a data be) := h.same
  unfold State.busWrite
  dsimp only
  split
  · unfold State.windowWrite
    split
    · exact RingSound.offerWrite (s := (s.sramWrite a data be).endSnapshots _) (written.same rfl rfl rfl) _ _ _
    · next ho =>
      split
      · exact written.storeSetup (Bool.eq_false_iff.2 ho) _ _ _
      · exact written
  · exact written

theorem RingSound.answerRead (w : Word) : RingSound (s.answerRead w) := h.same

theorem RingSound.overlayRead (w : WinWord) : RingSound (s.overlayRead w) := by
  have request : (s.overlayRead w).bpt.evwRequest = s.bpt.evwRequest := by
    unfold State.overlayRead
    dsimp only
    (repeat' split) <;> simp [State.latchHeader, State.latchRecord]
  exact h.same (hr := request)

theorem RingSound.access (a : Access) : RingSound (s.access a) := by
  have passed := h.arbiter
  unfold State.access
  split
  · unfold State.busRead
    split
    · split
      · exact passed.overlayRead _
      · exact passed.answerRead _
    · exact passed.answerRead _
  · exact passed.busWrite _ _ _

/-! ### The sample lane -/

theorem RingSound.laneSample (x : Sample) : RingSound (s.laneSample x) := h.same

end

theorem RingSound.feed (ps : List HuntPhase) (xs : List Sample) : ∀ {s : State}, RingSound s → RingSound (State.feed ps xs s) := by
  induction xs with
  | nil => exact id
  | cons x xs ih =>
    intro s h
    unfold State.feed
    split
    · exact ih (h.laneSample x)
    · exact h

end Sys2Proof.Safety
end

section
set_option Elab.async false
/-! The event ring kept, command by command, and what settles O58. -/

namespace Sys2Proof.Safety

open Sys2Proof.Machine

/-- What a command answers, if a next state, is one with the property. -/
def Answers (P : State → Prop) (r : Result) : Prop := ∀ t, r = .next t → P t

theorem answers_next {P : State → Prop} {t : State} (h : P t) : Answers P (.next t) := fun u hu => by cases hu; exact h

/-- A command that takes effect under a condition alone. -/
theorem answers_ite {P : State → Prop} {p : Prop} [Decidable p] {s t : State} (hs : P s) (ht : P t) :
    Answers P (if p then .next t else .next s) := by
  split
  · exact answers_next ht
  · exact answers_next hs

/-! ### The internal steps of the units -/

section

variable (s : State)

theorem execSlotArrivalEnd_stands (ct : Cycle) (j : Fin 8) : Answers (RingStands s) (execSlotArrivalEnd ct j s) := by
  unfold execSlotArrivalEnd
  split
  · exact answers_ite (.refl s) (.same (.refl s))
  · exact answers_next (.refl s)

theorem execSlotEndReport_stands (ct : Cycle) (j : Fin 8) : Answers (RingStands s) (execSlotEndReport ct j s) := by
  unfold execSlotEndReport
  split
  · exact answers_ite (.refl s) (.same (.refl s))
  · exact answers_next (.refl s)

theorem execHelloTake_stands : Answers (RingStands s) (execHelloTake s) := by
  unfold execHelloTake
  split
  · next c _ =>
    have taken : RingStands s (s.takeCapture c) := .same (.refl s)
    exact answers_next (taken.handleHello c)
  · exact answers_next (.refl s)

theorem execDiscoveryRoundComplete_stands : Answers (RingStands s) (execDiscoveryRoundComplete s) := by
  unfold execDiscoveryRoundComplete
  split
  · exact answers_ite (.refl s) (.same (.refl s))
  · exact answers_next (.refl s)
  · exact answers_next (.refl s)

theorem execEchoTake_stands : Answers (RingStands s) (execEchoTake s) := by
  unfold execEchoTake
  split
  · exact answers_ite (.refl s) (.same (.refl s))
  · exact answers_next (.refl s)

theorem execAttemptJudge_stands : Answers (RingStands s) (execAttemptJudge s) := by
  unfold execAttemptJudge
  split
  · exact answers_ite (.refl s) (.same (.refl s))
  · exact answers_next (.refl s)

theorem execSettleReply_stands : Answers (RingStands s) (execSettleReply s) := by
  unfold execSettleReply
  split
  · exact answers_ite (.refl s) (.same (.refl s))
  · exact answers_next (.refl s)

theorem execBlockReply_stands : Answers (RingStands s) (execBlockReply s) := by
  unfold execBlockReply
  split
  · exact answers_next (.same (.refl s))
  · exact answers_next (.refl s)

theorem execRangingOutcome_stands : Answers (RingStands s) (execRangingOutcome s) := by
  unfold execRangingOutcome
  split
  · next p rest _ =>
    have taken : RingStands s { s with rgu := { s.rgu with reports := rest } } := .same (.refl s) rfl rfl rfl
    exact answers_ite taken (taken.applyRanging _ _)
  · exact answers_next (.refl s)

theorem execSettleOutcome_stands : Answers (RingStands s) (execSettleOutcome s) := by
  unfold execSettleOutcome
  split
  · next i rest _ =>
    have taken : RingStands s { s with rgu := { s.rgu with settleReports := rest } } := .same (.refl s) rfl rfl rfl
    dsimp only
    split
    · exact answers_next (taken.applySettle _ _ _)
    · exact answers_next taken
  · exact answers_next (.refl s)

theorem execProfileOutcome_stands : Answers (RingStands s) (execProfileOutcome s) := by
  unfold execProfileOutcome
  split
  · next p rest _ =>
    have taken : RingStands s { s with pex := { s.pex with reports := rest } } := .same (.refl s) rfl rfl rfl
    dsimp only
    split
    · exact answers_next (taken.applyPush _ _ _)
    · exact answers_next taken
  · exact answers_next (.refl s)

end

/-! ### Reset, the load and the memory side -/

/-- Hardware reset empties the Event Writer (R151). -/
theorem execHardwareReset_ring (s : State) : Answers RingSound (execHardwareReset s) := answers_next (ringSound_unread rfl rfl rfl rfl)

section

variable {s : State} (h : RingSound s)
include h

theorem execResetRelease_ring (straps : BitVec 6) : Answers RingSound (execResetRelease straps s) := by
  unfold execResetRelease
  split
  · next hp =>
    obtain ⟨queue, stage⟩ := h.silent (by rw [hp]; rfl)
    exact answers_next (ringSound_unread rfl queue stage (h.idle stage))
  · exact answers_next h

theorem execLoadRead_ring : Answers RingSound (execLoadRead s) := by
  unfold execLoadRead
  split
  · split
    · exact answers_next (h.serveLoad _)
    · exact answers_next h
  · exact answers_next h

theorem execImageRead_ring (ch : ChanIx) : Answers RingSound (execImageRead ch s) := by
  unfold execImageRead
  split
  · split
    · exact answers_ite h (h.serveChannel _ _)
    · exact answers_next h
  · exact answers_next h

theorem execEventWordWritten_ring : Answers RingSound (execEventWordWritten s) := by
  unfold execEventWordWritten
  split
  · next hr => exact answers_next (h.serveEvent hr)
  · exact answers_next h

theorem execDrainComplete_ring : Answers RingSound (execDrainComplete s) := by
  unfold execDrainComplete
  split
  · next hc => exact answers_next (h.enterConfig (by rw [hc.1]; rfl))
  · exact answers_next h

/-- Every command keeps the event ring. -/
theorem exec_ring (c : Instr) : Answers RingSound (exec c s) := by
  have access : ∀ a, Answers RingSound (.next (s.access a)) := fun a => answers_next (h.access a)
  have fed : ∀ ps xs, Answers RingSound (.next (State.feed ps xs s)) := fun ps xs => answers_next (h.feed ps xs)
  have stands : ∀ {r : Result}, Answers (RingStands s) r → Answers RingSound r := fun hr t ht => h.stands (hr t ht)
  have raises : ∀ {t : State}, RingStands s t → Answers RingSound (.next t) := fun k => answers_next (h.stands k)
  have beside := RingStands.refl s
  cases c with
  | hardwareReset => exact execHardwareReset_ring s
  | resetRelease straps => exact execResetRelease_ring h straps
  | loadRead => exact execLoadRead_ring h
  | intentAdmit | intentHold | intentVacant | setupWrite | portIntentConfig | portIntentRun | portIntentHalt | consumerIndexWrite
  | imageWrite | recordSnapshotRead | headerSnapshotRead | popRead | consecutiveAccess => exact access _
  | accessHold acc => exact answers_ite h (h.access acc)
  | drainComplete => exact execDrainComplete_ring h
  | cycle c => exact raises (beside.cycleStart c)
  | roundDue => exact answers_ite h h.same
  | quietTimeout => exact raises beside.timeOutAsk
  | interruptHold => exact answers_ite h h.followInterrupt
  | fetch c => exact raises (beside.takeFetch c)
  | lineDown => exact raises beside.lineFalls
  | lineUp => exact raises beside.lineRises
  | give cq => exact raises (beside.takeGive cq)
  | deny => exact raises beside.takeDeny
  | revoke => exact raises beside.takeRevoke
  | armIntervalStart => exact raises (beside.same (u := s.startInterval))
  | quietWindowEnd => exact raises (beside.same (u := s.windowRunsOut))
  | slotArrivalEnd ct j => exact stands (execSlotArrivalEnd_stands s ct j)
  | slotEndReport ct j => exact stands (execSlotEndReport_stands s ct j)
  | noDelimiter | burstComplete | preambleRecognized | delimiterCompared | kindByte => exact fed _ _
  | helloTake => exact stands (execHelloTake_stands s)
  | discoveryRoundComplete => exact stands (execDiscoveryRoundComplete_stands s)
  | echoTake => exact stands (execEchoTake_stands s)
  | attemptJudge => exact stands (execAttemptJudge_stands s)
  | settleReply => exact stands (execSettleReply_stands s)
  | blockReply => exact stands (execBlockReply_stands s)
  | imageRead ch => exact execImageRead_ring h ch
  | rangingOutcome => exact stands (execRangingOutcome_stands s)
  | settleOutcome => exact stands (execSettleOutcome_stands s)
  | profileOutcome => exact stands (execProfileOutcome_stands s)
  | eventWriteStart => exact answers_next h.startEvent
  | eventWordWritten => exact execEventWordWritten_ring h

end

end Sys2Proof.Safety

namespace Sys2Proof.Proofs

open Sys2Proof.Machine Sys2Proof.Safety

/-- Settles O58: most commands raise events at most, and the others keep the counts of the ring. -/
theorem ringSoundKept : Obligations.RingSoundKept := by
  unfold Obligations.RingSoundKept
  intro s t h ht
  unfold step at ht
  split at ht
  · cases ht
    exact h.laneSample darkSample
  · next c rest _ => exact exec_ring (s := s.withPending rest) h.same c t ht

end Sys2Proof.Proofs
end

section
set_option Elab.async false
/-! Events taken (R151, R153, R154), and an event record written whole (R152, R155, 11.7). -/

namespace Sys2Proof.Machine

open Sys2Proof.Safety

/-! ### An event taken -/

section

variable (s : State) (e : Raise)

theorem State.raise_unread (ho : s.pct.port.overlay = false) : s.raise e = s := if_pos ho

theorem State.raise_taken (ho : s.pct.port.overlay = true) (hq : s.evw.queue.length < Config.eventPlaces) : s.raise e =
    { s with evw := { s.evw with queue := s.evw.queue ++ [s.numbered e], nextSeq := s.evw.nextSeq + 1, lost := 0 } } :=
  (if_neg (Bool.not_eq_false _ ▸ ho)).trans (if_pos hq)

theorem State.raise_lost (ho : s.pct.port.overlay = true) (hq : Config.eventPlaces ≤ s.evw.queue.length) : s.raise e =
    { s with evw := { s.evw with lost := satInc Config.counterMax s.evw.lost }, counters := s.counters.inc .eventsLost } :=
  (if_neg (Bool.not_eq_false _ ▸ ho)).trans (if_neg hq.not_gt)

end

/-! ### The bytes of an event record (11.7) -/

/-- A byte lane of a bit vector is one of the bytes of its number. -/
theorem extract_byte {n : Nat} (x : BitVec n) (k : Nat) : x.extractLsb' (8 * k) 8 = BitVec.ofNat 8 (x.toNat / 256 ^ k) := by
  apply BitVec.eq_of_toNat_eq
  rw [BitVec.extractLsb'_toNat, BitVec.toNat_ofNat, Nat.shiftRight_eq_div_pow, Nat.pow_mul]

theorem bytesLE_two_half (x : BitVec 16) : bytesLE 2 x.toNat = [x.extractLsb' 0 8, x.extractLsb' 8 8] := by
  have lo := extract_byte x 0
  have hi := extract_byte x 1
  simp only [Nat.mul_zero, Nat.mul_one, pow_zero, pow_one, Nat.div_one] at lo hi
  rw [lo, hi]
  rfl

/-- The low 16 bits of a number have its first two bytes. -/
theorem bytesLE_two_ofNat (n : Nat) : bytesLE 2 (BitVec.ofNat 16 n).toNat = bytesLE 2 n := by
  simp only [bytesLE, BitVec.toNat_ofNat, List.cons.injEq, and_true]
  constructor <;> (apply BitVec.eq_of_toNat_eq; simp only [BitVec.toNat_ofNat]; omega)

/-- The four byte lanes of a word, lane 0 first. -/
def wordLanes (w : Word) : List Byte := [byteOf w 0, byteOf w 1, byteOf w 2, byteOf w 3]

theorem wordLanes_word4 (b0 b1 b2 b3 : Byte) : wordLanes (word4 b0 b1 b2 b3) = [b0, b1, b2, b3] := by
  simp [wordLanes]

theorem wordLanes_eq_bytesLE (w : Word) : wordLanes w = bytesLE 4 w.toNat := by
  simp only [wordLanes, byteOf, extract_byte, bytesLE, Nat.div_div_eq_div_mul]
  rw [pow_zero, pow_one, Nat.div_one]
  rfl

/-- An event record is its four words, lane by lane. -/
theorem eventBytes_eq (e : Event) :
    eventBytes e = wordLanes (e.word 0) ++ wordLanes (e.word 1) ++ wordLanes (e.word 2) ++ wordLanes (e.word 3) := by
  have first : wordLanes (e.word 0) = bytesLE 2 e.seq.toNat ++ [kindCode e.kind, e.index] := by
    rw [bytesLE_two_half]
    exact wordLanes_word4 _ _ _ _
  have second : wordLanes (e.word 1) = [e.detail0, e.detail1] ++ bytesLE 2 e.lostBefore := by
    rw [← bytesLE_two_ofNat, bytesLE_two_half]
    exact (congrArg wordLanes (word4_of_high_half _ _ _).symm).trans (wordLanes_word4 _ _ _ _)
  rw [first, second, wordLanes_eq_bytesLE (e.word 2), wordLanes_eq_bytesLE (e.word 3)]
  simp [eventBytes, Event.word]

theorem byteAt_eventBytes (e : Event) {k : Nat} (hk : k < 16) : byteAt (eventBytes e) k = byteOf (e.word (k / 4)) (k % 4) := by
  rw [eventBytes_eq]
  interval_cases k <;> rfl

/-! ### The record under way -/

/-- The state `s` with word `k` of event `e` on its way to slot P, SRAM and the consecutive-access count as given (R155). -/
def State.writingWord (s : State) (e : Event) (k : Nat) (m : List Host.Cell) (c : Nat) : State :=
  { s with
    sram := m
    evw := { s.evw with stage := k + 1 }
    bpt := { s.bpt with consecutive := c, evwRequest := some { word := ringWord s.evw.producer k, data := e.word k } } }

/-- Word `k` of an event as it is stored in slot P (R148, R155). -/
def ringStore (s : State) (e : Event) (k : Nat) : Store := (s.busAddr (ringWord s.evw.producer k), e.word k, 0b1111)

section

variable (s : State) {e : Event} {q : List Event}

theorem exec_eventWriteStart_writing (hq : s.evw.queue = e :: q) (room : s.evw.producer + 1 ≠ s.evw.consumer) (hs : s.evw.stage = 0) :
    exec .eventWriteStart s = .next (s.writingWord e 0 s.sram s.bpt.consecutive) :=
  congrArg Host.Outcome.next (s.startEvent_placed hq room hs)

/-- A served word of the head event that is not its fourth: the next one is placed (R155). -/
theorem State.serveEvent_next (r : WriteRequest) (hq : s.evw.queue = e :: q) (h : s.evw.stage < 4) :
    s.serveEvent r = (s.sramWrite (s.busAddr r.word) r.data 0b1111).servedOne.placeEventWord e s.evw.stage :=
  State.eventServed_next (s.sramWrite (s.busAddr r.word) r.data 0b1111).servedOne hq h

/-- The fourth word of the head event served: the record is finished (R155). -/
theorem State.serveEvent_last (r : WriteRequest) (hq : s.evw.queue = e :: q) (h : 4 ≤ s.evw.stage) :
    s.serveEvent r = (s.sramWrite (s.busAddr r.word) r.data 0b1111).servedOne.finishEvent e :=
  State.eventServed_last (s.sramWrite (s.busAddr r.word) r.data 0b1111).servedOne hq h

/-- After each of words 0 to 2 the next one is on its way. -/
theorem exec_eventWordWritten_writing (hq : s.evw.queue = e :: q) {k : Nat} (hk : k < 3) (m : List Host.Cell) (c : Nat) :
    exec .eventWordWritten (s.writingWord e k m c) = .next (s.writingWord e (k + 1) (storedAll m [ringStore s e k]) 0) := by
  have stored : storedAll m [ringStore s e k] = _ := storedAll_one _ _ _ (s.writingWord e k m c)
  rw [stored]
  exact (execEventWordWritten_some (s.writingWord e k m c) rfl).trans
    (congrArg Host.Outcome.next ((s.writingWord e k m c).serveEvent_next _ hq (Nat.succ_lt_succ hk)))

/-- After the fourth word the record is finished. -/
theorem exec_eventWordWritten_last (hq : s.evw.queue = e :: q) (m : List Host.Cell) (c : Nat) :
    exec .eventWordWritten (s.writingWord e 3 m c) =
      .next (State.finishEvent { s with sram := storedAll m [ringStore s e 3], bpt := { s.bpt with consecutive := 0 } } e) := by
  have stored : storedAll m [ringStore s e 3] = _ := storedAll_one _ _ _ (s.writingWord e 3 m c)
  rw [stored]
  exact (execEventWordWritten_some (s.writingWord e 3 m c) rfl).trans
    (congrArg Host.Outcome.next ((s.writingWord e 3 m c).serveEvent_last _ hq (Nat.le_refl 4)))

end

/-! ### The slot in SRAM -/

/-- The bus address of the first word of slot P (R139, 11.7). -/
def State.slotAddr (s : State) : Nat := 16384 * s.bpt.base.toNat + 2304 + 4 * s.evw.producer.toNat

section

variable (s : State) (e : Event)

theorem ringStore_addr {k : Nat} (hk : k < 4) : (ringStore s e k).1.toNat = s.slotAddr + k := by
  have hp := s.evw.producer.isLt
  have word : (ringWord s.evw.producer k).toNat = 2304 + 4 * s.evw.producer.toNat + k := by
    unfold ringWord
    rw [BitVec.toNat_ofNat]
    exact Nat.mod_eq_of_lt (by omega)
  have base := s.busAddr_toNat (ringWord s.evw.producer k)
  rw [word] at base
  rw [State.slotAddr, Nat.add_assoc, Nat.add_assoc]
  exact base.trans (by omega)

theorem allLanes_enabled (x : Nat) : (0b1111 : Enables).getLsbD (x % 4) = true := by
  have : x % 4 < 4 := Nat.mod_lt _ (by decide)
  interval_cases x % 4 <;> rfl

/-- Word `k` of the record gives the bytes of its four lanes, and no other. -/
theorem byteStored_ringStore {k : Nat} (hk : k < 4) (x : Nat) :
    byteStored (ringStore s e k) x = if x / 4 = s.slotAddr + k then some (byteOf (e.word k) (x % 4)) else none := by
  unfold byteStored
  rw [ringStore_addr s e hk]
  exact if_congr (and_iff_left (allLanes_enabled x)) rfl rfl

/-- SRAM with the four words of the record stored. -/
def State.recordStored : List Host.Cell := storedAll s.sram ([0, 1, 2, 3].map (ringStore s e))

/-- A byte of the slot is that of its word and lane. -/
theorem read_recordStored {j : Nat} (hw : Memory.wf s.sram) (hj : j < 4) {x : Nat} (hx : x / 4 = s.slotAddr + j) :
    Memory.read (s.recordStored e) x = byteOf (e.word j) (x % 4) := by
  have stored : ∀ k, k < 4 → byteStored (ringStore s e k) x = if j = k then some (byteOf (e.word k) (x % 4)) else none := by
    intro k hk
    rw [byteStored_ringStore s e hk, hx]
    exact if_congr Nat.add_left_cancel_iff rfl rfl
  rw [State.recordStored, read_storedAll _ _ hw]
  simp only [List.map_cons, List.map_nil, List.foldl_cons, List.foldl_nil, stored 0 (by decide), stored 1 (by decide),
    stored 2 (by decide), stored 3 (by decide)]
  interval_cases j <;> rfl

/-- A byte outside the slot is as it was. -/
theorem read_recordStored_other (hw : Memory.wf s.sram) {x : Nat} (hx : ∀ k, k < 4 → x / 4 ≠ s.slotAddr + k) :
    Memory.read (s.recordStored e) x = Memory.read s.sram x := by
  have stored : ∀ k, k < 4 → byteStored (ringStore s e k) x = none := fun k hk =>
    (byteStored_ringStore s e hk x).trans (if_neg (hx k hk))
  rw [State.recordStored, read_storedAll _ _ hw]
  simp only [List.map_cons, List.map_nil, List.foldl_cons, List.foldl_nil, stored 0 (by decide), stored 1 (by decide),
    stored 2 (by decide), stored 3 (by decide), Option.getD_none]

end

end Sys2Proof.Machine

namespace Sys2Proof.Proofs

open Sys2Proof.Machine Sys2Proof.Safety

/-- Settles O11. -/
theorem eventTaken : Obligations.EventTaken := by
  intro s e up
  refine ⟨fun h => s.raise_unread e (PortState.overlay_of_eq h), fun h1 h2 hq => ?_, fun h1 h2 hq => ?_⟩
  · exact s.raise_taken e (PortState.overlay_of_ne ⟨h1, h2⟩) hq
  · exact s.raise_lost e (PortState.overlay_of_ne ⟨h1, h2⟩) hq

/-- Settles O13: the five commands run word by word, and each byte of the slot is that of the word stored there. -/
theorem eventRecordWritten : Obligations.EventRecordWritten := by
  refine ⟨⟨rfl, rfl, rfl, rfl, rfl⟩, fun s e q hw hq room hs => ?_⟩
  refine ⟨_, _, _, _, _, exec_eventWriteStart_writing s hq room hs, exec_eventWordWritten_writing s hq (by decide) _ _,
    exec_eventWordWritten_writing s hq (by decide) _ _, exec_eventWordWritten_writing s hq (by decide) _ _,
    exec_eventWordWritten_last s hq _ _, fun k hk => ?_, fun x hx => ?_, ?_⟩
  · have place : (65536 * s.bpt.base.toNat + 9216 + 16 * s.evw.producer.toNat + k) / 4 = s.slotAddr + k / 4 := by
      unfold State.slotAddr
      omega
    have lane : (65536 * s.bpt.base.toNat + 9216 + 16 * s.evw.producer.toNat + k) % 4 = k % 4 := by omega
    rw [byteAt_eventBytes e hk, ← lane]
    exact read_recordStored s e hw (by omega) place
  · refine read_recordStored_other s e hw fun k hk hp => ?_
    unfold State.slotAddr at hp
    exact hx (4 * k + x % 4) (by omega) (by omega)
  · have rest : q = s.evw.queue.drop 1 := by rw [hq]; rfl
    rw [rest]
    simp only [State.finishEvent, State.followInterrupt, hs]

end Sys2Proof.Proofs
end

section
set_option Elab.async false
/-! The interrupt line (R158): its level, and the commands after which it follows. -/

namespace Sys2Proof.Machine

open Sys2Proof.Safety

variable {s : State}

/-! ### The level -/

/-- The hold condition (R158). -/
theorem State.holdCondition_iff : s.holdCondition = true ↔
    s.header.holdCycles ≠ 0 ∧ 1 ≤ (s.evw.producer - s.evw.consumer).toNat ∧
      ∃ oldest rest, s.evw.written = oldest :: rest ∧ s.header.holdCycles.toNat ≤ (s.ltu.cycle - oldest).toNat := by
  unfold State.holdCondition Evw.unconsumed
  cases s.evw.written with
  | nil => simp
  | cons oldest rest => simp [and_assoc]

/-- The level that the interrupt line follows (R158). -/
theorem State.interruptLevel_iff : s.interruptLevel = true ↔
    s.header.irqEnable ≠ 0 ∧
      (s.header.threshold.toNat ≤ (s.evw.producer - s.evw.consumer).toNat ∨
        (s.header.holdCycles ≠ 0 ∧ 1 ≤ (s.evw.producer - s.evw.consumer).toNat ∧
          ∃ oldest rest, s.evw.written = oldest :: rest ∧ s.header.holdCycles.toNat ≤ (s.ltu.cycle - oldest).toNat)) := by
  unfold State.interruptLevel
  rw [← State.holdCondition_iff, Bool.and_eq_true, Bool.or_eq_true, decide_eq_true_eq, decide_eq_true_eq]
  rfl

/-- The interrupt line of a state has just followed its inputs (R158). -/
def State.lineFollows (s : State) : Prop := ∃ u : State, s = u.followInterrupt

/-- A line that has followed its inputs stands at its level: no input of the level is the line. -/
theorem State.line_eq_level (h : s.lineFollows) : s.evw.line = s.interruptLevel := by
  obtain ⟨u, rfl⟩ := h
  rfl

/-! ### The commands after which it follows -/

theorem exec_cycle_follows (n : Cycle) : ∃ t, exec (.cycle n) s = .next t ∧ t.lineFollows := ⟨_, rfl, _, rfl⟩

/-- INTERRUPT_HOLD while the hold condition holds (R158). -/
theorem exec_interruptHold_due (h : s.holdCondition = true) : exec .interruptHold s = .next s.followInterrupt := if_pos h

/-- A finished event record (R155). -/
theorem exec_eventWordWritten_follows (hr : s.bpt.evwRequest ≠ none) (hq : s.evw.queue ≠ []) (hs : 4 ≤ s.evw.stage) :
    ∃ t, exec .eventWordWritten s = .next t ∧ t.lineFollows := by
  obtain ⟨r, hr⟩ := Option.ne_none_iff_exists'.1 hr
  obtain ⟨e, q, hq⟩ := List.exists_cons_of_ne_nil hq
  exact ⟨_, (execEventWordWritten_some s hr).trans (congrArg Host.Outcome.next (s.serveEvent_last r hq hs)), _, rfl⟩

/-- A written interrupt setting (R157). -/
theorem exec_setupWrite_follows (data : Word) {be : Enables} (hbe : be ≠ 0) (hold : s.holdDue = false) (ho : s.pct.port.overlay = true) :
    ∃ t, exec (.setupWrite 32 data be) s = .next t ∧ t.lineFollows := by
  have lanes : be &&& headerLanes (32 : WinWord).toNat ≠ 0 := fun h => hbe (BitVec.and_allOnes.symm.trans h)
  have taken := (setupWrite_header (w := 32) data be hold (by decide) lanes ho).trans (State.writeHeader_interrupt _ rfl data _)
  exact ⟨_, congrArg Host.Outcome.next taken, _, rfl⟩

/-- An accepted consumer index (R156). -/
theorem exec_consumerIndexWrite_follows {v : Byte} (high : BitVec 24) (he : BitVec 3) (hold : s.holdDue = false)
    (ho : s.pct.port.overlay = true) (hv : (v - s.evw.consumer).toNat ≤ (s.evw.producer - s.evw.consumer).toNat) :
    ∃ t, exec (.consumerIndexWrite v high he) s = .next t ∧ t.lineFollows := by
  have taken := (s.consumerWrite_overlay v high he hold ho).trans (State.writeConsumer_accepted _ hv)
  exact ⟨_, congrArg Host.Outcome.next taken, _, rfl⟩

end Sys2Proof.Machine

namespace Sys2Proof.Proofs

open Sys2Proof.Machine Sys2Proof.Safety

/-- Settles O15: each of these commands ends with the line following its inputs. -/
theorem interruptLine : Obligations.InterruptLine := by
  refine ⟨fun s t c ht changes => ?_, fun s => ⟨fun hirq hhold hcount hwait => ?_, fun h => if_neg (Bool.eq_false_iff.1 h)⟩⟩
  · have follows : ∀ {c}, exec c s = .next t → (∃ u, exec c s = .next u ∧ u.lineFollows) → t.lineFollows := by
      rintro c h ⟨u, hu, hf⟩
      cases h.symm.trans hu
      exact hf
    have followed : t.lineFollows := by
      obtain ⟨n, rfl⟩ | ⟨rfl, h⟩ | ⟨rfl, hr, hq, hs⟩ | ⟨data, be, rfl, hbe, hold, h1, h2⟩ | ⟨v, high, he, rfl, hold, h1, h2, hv⟩ := changes
      · exact follows ht (exec_cycle_follows n)
      · exact follows ht ⟨_, exec_interruptHold_due h, _, rfl⟩
      · exact follows ht (exec_eventWordWritten_follows hr hq hs)
      · exact follows ht (exec_setupWrite_follows data hbe hold (PortState.overlay_of_ne ⟨h1, h2⟩))
      · exact follows ht (exec_consumerIndexWrite_follows high he hold (PortState.overlay_of_ne ⟨h1, h2⟩) hv)
    rw [State.line_eq_level followed]
    exact State.interruptLevel_iff
  · have held : s.holdCondition = true := State.holdCondition_iff.2 ⟨hhold, hcount, hwait⟩
    have high : s.interruptLevel = true := State.interruptLevel_iff.2 ⟨hirq, .inr ⟨hhold, hcount, hwait⟩⟩
    rw [exec_interruptHold_due held]
    unfold State.followInterrupt
    rw [high]

end Sys2Proof.Proofs
end

section
set_option Elab.async false
/-! Completion: what a command answers is a next state, with the queue of commands as it stood. -/

namespace Sys2Proof.Machine

/-- A command that answers a next state, whose queue of commands is `q`. -/
def CompletesWith (q : List Instr) (r : Result) : Prop := ∃ t, r = .next t ∧ t.pending = q

variable (s : State)

theorem completesWith_next {q : List Instr} {t : State} (h : t.pending = q := by simp) : CompletesWith q (.next t) := ⟨t, rfl, h⟩

/-- A command whose effect a condition decides. -/
theorem completesWith_ite {q : List Instr} {t u : State} {p : Prop} [Decidable p] (ht : t.pending = q := by simp)
    (hu : u.pending = q := by simp) : CompletesWith q (if p then .next t else .next u) := by
  split
  · exact completesWith_next ht
  · exact completesWith_next hu

/-- Samples taken one by one leave the queue of commands. -/
theorem State.feed_pending (ps : List HuntPhase) (xs : List Sample) : ∀ s, (State.feed ps xs s).pending = s.pending := by
  induction xs with
  | nil => exact fun _ => rfl
  | cons x xs ih =>
    intro s
    unfold State.feed
    split
    · exact (ih _).trans (by simp)
    · rfl

/-! ### Inserted requests -/

theorem execLoadRead_completes : CompletesWith s.pending (execLoadRead s) := by
  unfold execLoadRead
  split
  · split <;> exact completesWith_next
  · exact completesWith_next

theorem execEventWordWritten_completes : CompletesWith s.pending (execEventWordWritten s) := by
  unfold execEventWordWritten
  split <;> exact completesWith_next

theorem execImageRead_completes (ch : ChanIx) : CompletesWith s.pending (execImageRead ch s) := by
  unfold execImageRead
  split
  · split
    · exact completesWith_ite
    · exact completesWith_next
  · exact completesWith_next

/-! ### Slots, rounds and attempts ended -/

theorem execSlotArrivalEnd_completes (ct : Cycle) (j : Fin 8) : CompletesWith s.pending (execSlotArrivalEnd ct j s) := by
  unfold execSlotArrivalEnd
  split
  · exact completesWith_ite
  · exact completesWith_next

theorem execSlotEndReport_completes (ct : Cycle) (j : Fin 8) : CompletesWith s.pending (execSlotEndReport ct j s) := by
  unfold execSlotEndReport
  split
  · exact completesWith_ite
  · exact completesWith_next

theorem execDiscoveryRoundComplete_completes : CompletesWith s.pending (execDiscoveryRoundComplete s) := by
  unfold execDiscoveryRoundComplete
  split
  · exact completesWith_ite
  · exact completesWith_next
  · exact completesWith_next

theorem execAttemptJudge_completes : CompletesWith s.pending (execAttemptJudge s) := by
  unfold execAttemptJudge
  split
  · exact completesWith_ite
  · exact completesWith_next

/-! ### Captures taken -/

theorem execHelloTake_completes : CompletesWith s.pending (execHelloTake s) := by
  unfold execHelloTake
  split <;> exact completesWith_next

theorem execEchoTake_completes : CompletesWith s.pending (execEchoTake s) := by
  unfold execEchoTake
  split
  · exact completesWith_ite
  · exact completesWith_next

theorem execSettleReply_completes : CompletesWith s.pending (execSettleReply s) := by
  unfold execSettleReply
  split
  · exact completesWith_ite
  · exact completesWith_next

theorem execBlockReply_completes : CompletesWith s.pending (execBlockReply s) := by
  unfold execBlockReply
  split <;> exact completesWith_next

/-! ### Outcomes applied -/

theorem execRangingOutcome_completes : CompletesWith s.pending (execRangingOutcome s) := by
  unfold execRangingOutcome
  split
  · exact completesWith_ite
  · exact completesWith_next

theorem execSettleOutcome_completes : CompletesWith s.pending (execSettleOutcome s) := by
  unfold execSettleOutcome
  split
  · dsimp only
    split <;> exact completesWith_next
  · exact completesWith_next

theorem execProfileOutcome_completes : CompletesWith s.pending (execProfileOutcome s) := by
  unfold execProfileOutcome
  split
  · dsimp only
    split <;> exact completesWith_next
  · exact completesWith_next

/-! ### Every command -/

/-- Every command answers a next state and leaves the queue of commands as it stood. -/
theorem exec_completes (c : Instr) : CompletesWith s.pending (exec c s) := by
  have goes : ∀ t : State, t.pending = s.pending → CompletesWith s.pending (.next t) := fun _ h => completesWith_next h
  have access : ∀ a, CompletesWith s.pending (.next (s.access a)) := fun a => completesWith_next
  have fed : ∀ ps xs, CompletesWith s.pending (.next (State.feed ps xs s)) := fun ps xs => goes _ (State.feed_pending ps xs s)
  cases c with
  | hardwareReset => exact goes _ rfl
  | resetRelease straps => exact completesWith_ite rfl rfl
  | loadRead => exact execLoadRead_completes s
  | intentAdmit | intentHold | intentVacant | setupWrite | portIntentConfig | portIntentRun | portIntentHalt | consumerIndexWrite
  | imageWrite | recordSnapshotRead | headerSnapshotRead | popRead | consecutiveAccess => exact access _
  | accessHold acc => exact completesWith_ite (s.access_frame acc) rfl
  | drainComplete => exact completesWith_ite (t := s.enterConfig) (u := s)
  | cycle c => exact goes (s.cycleStart c) (by simp)
  | roundDue => exact completesWith_ite s.presentDemand_pending rfl
  | quietTimeout => exact goes s.timeOutAsk (by simp)
  | interruptHold => exact completesWith_ite s.followInterrupt_pending rfl
  | fetch c => exact goes (s.takeFetch c) (by simp)
  | lineDown => exact goes s.lineFalls (by simp)
  | lineUp => exact goes s.lineRises (by simp)
  | give cq => exact goes (s.takeGive cq) (by simp)
  | deny => exact goes s.takeDeny (by simp)
  | revoke => exact goes s.takeRevoke (by simp)
  | armIntervalStart => exact goes s.startInterval (by simp)
  | quietWindowEnd => exact goes s.windowRunsOut (by simp)
  | slotArrivalEnd ct j => exact execSlotArrivalEnd_completes s ct j
  | slotEndReport ct j => exact execSlotEndReport_completes s ct j
  | noDelimiter | burstComplete | preambleRecognized | delimiterCompared | kindByte => exact fed _ _
  | helloTake => exact execHelloTake_completes s
  | discoveryRoundComplete => exact execDiscoveryRoundComplete_completes s
  | echoTake => exact execEchoTake_completes s
  | attemptJudge => exact execAttemptJudge_completes s
  | settleReply => exact execSettleReply_completes s
  | blockReply => exact execBlockReply_completes s
  | imageRead ch => exact execImageRead_completes s ch
  | rangingOutcome => exact execRangingOutcome_completes s
  | settleOutcome => exact execSettleOutcome_completes s
  | profileOutcome => exact execProfileOutcome_completes s
  | eventWriteStart => exact goes s.startEvent (by simp)
  | eventWordWritten => exact execEventWordWritten_completes s

end Sys2Proof.Machine

namespace Sys2Proof.Proofs

open Sys2Proof.Machine

/-- Settles O2, case by case over the commands. -/
theorem commandsComplete : Obligations.CommandsComplete := fun c s => exec_completes s c

end Sys2Proof.Proofs
end
